-- ==== Sys2Proof/Word.lean ====
section
/-! DEFINITION. The plain words of the module: bytes and registers (00_scope.md, R11). -/
namespace Sys2Proof

/-- One byte of memory, of a register window or of a frame. -/
abbrev Byte := BitVec 8

/-- A register or a 32-bit field: registers are 32 bits wide (R11). -/
abbrev Word := BitVec 32

/-- A run of bytes, lowest address first. -/
abbrev Bytes := List Byte

/-- An error code, SUBSYS in bits 15:8 and CAUSE in bits 7:0 (R14). -/
abbrev Code := BitVec 16

end Sys2Proof
end

