-- ==== Sys2Proof/Syntax.lean ====
section
/-! DEFINITION. The commands and events the module takes from outside and from its own islands: one constructor of
`Instr` for each row of spec/opcode_table.json. The table gives no bits; the operands are those the row's rule names. -/
namespace Sys2Proof

/-- The mailbox slot a message stands in: the management mailbox (`box` none) or a context mailbox (R487). -/
structure SlotRef where
  port : Nat
  box  : Option Nat
  slot : Nat
  deriving DecidableEq, Repr

/-- Why the hot-swap switch opens (R745). -/
inductive HotswapCause where
  | under (millivolts : Nat) (us : Nat)
  | over (millivolts : Nat)
  | current (amps : Nat) (us : Nat)
  deriving DecidableEq, Repr

/-- The way a port is hot-reset (R535). -/
inductive ResetKind where
  | perst | hotReset | linkDisable | flr | linkReturn
  deriving DecidableEq, Repr

/-- What the host sets in a port's configuration space, none of whose writes the table has a row for: the size of BAR2,
the greatest payload and read request, and MSI-X Enable and Function Mask (R534, R543). -/
structure PortConfig where
  bar2Gib  : Nat
  payload  : Nat
  readReq  : Nat
  msixOn   : Bool
  msixMask : Bool
  deriving DecidableEq, Repr

/-- A link as it trained: speed code of Table 5 of 11, lanes, Flit mode; and the configuration its host sets. -/
structure LinkState where
  speed : Nat
  width : Nat
  flit  : Bool
  cfg   : PortConfig := { bar2Gib := 64, payload := 512, readReq := 4096, msixOn := true, msixMask := false }
  deriving DecidableEq, Repr

/-- One row found faulty by the self-test of a stack site (R726): site, channel, bank, row. -/
structure RowRef where
  site : Nat
  chan : Nat
  bank : Nat
  row  : Nat
  deriving DecidableEq, Repr

/-- What the start sequence finds outside the model's state (R722, R726): contacts, the carrier's declaration, and
the outcome of every self-test. -/
structure StartInputs where
  split      : BitVec 2               -- SPLIT[1:0] as read, R742
  recoverLow : Bool                   -- RECOVER_N low at the release, R753
  board      : Option Word            -- PLT_SB_BOARD_LIMIT written within 1 s of the release, R722 step 3
  essential  : Bool                   -- control complex SRAM, host port complex, scheduler, platform, movers pass
  badCores   : List Nat
  badExps    : List Nat
  badSites   : List Nat
  badPkgs    : List Nat
  badFabs    : List Nat
  badRows    : List RowRef            -- stack rows failing their march
  badPages   : List (Nat × Nat)       -- bulk pages failing: package, 2 MiB page
  badSensors : List Nat               -- core sensors failing their self-check
  badFieldSensors : List Nat          -- field sensors failing their self-check
  links      : List (Nat × LinkState) -- ports whose link has trained
  margins    : List (Nat × Option Nat) -- start without a base: core, highest step code holding (none: fails 600 MHz)
  idleW      : Nat                    -- start without a base: measured idle power
  noBase     : Bool                   -- neither base area qualifies, R698
  missing    : Option Nat             -- first SEQ that no readable record holds, R695
  badCheck   : Option Nat             -- SEQ of a CHECKPOINT whose hash does not match, R696
  perst      : List Nat               -- ports whose PERST# is released
  deriving DecidableEq, Repr

/-- What a scrub read finds in a row or granule (R368, R371). -/
inductive EccResult where
  | clean | corrected | uncorrectable
  deriving DecidableEq, Repr

/-- What the code of a memory granule showed to a read that served a command or a record (R368, R371, R398, R401): a byte
of a stack site or of a bulk package, and the outcome. -/
structure MemHit where
  bulk   : Bool
  unit   : Nat
  offset : Nat
  found  : EccResult
  deriving DecidableEq, Repr

/-- A turn of a mover at a chunk: the mover, and what the codes of the memory that the chunk reads show. -/
structure MoverTurn where
  mover : Nat
  reads : List MemHit := []
  deriving DecidableEq, Repr

/-- A turn of the memory agent at a record of a peer: the record's TSN, and what the codes of the memory that it reads show. -/
structure RecordTurn where
  tsn   : Word
  reads : List MemHit := []
  deriving DecidableEq, Repr

/-- One of the read requests that a mover's host read makes: the read's tag and the request's place in it. -/
structure HostAsk where
  tag    : Nat
  access : Nat
  deriving DecidableEq, Repr

/-- What happens to a core command while it runs that its operands do not decide: an uncorrectable word of a core's
SRAM (R92) or of an expander (R309), the corrected ones, by core and by expander, and what the codes of the memory it
reads show. -/
structure RunHw where
  coreSram : Option Nat
  expSram  : Option Nat
  coreCorr : List Nat := []
  expCorr  : List Nat := []
  reads    : List MemHit := []
  deriving DecidableEq, Repr

/-- What a ring peer served for one item of a ring step (R301, R303, R629). -/
inductive RemoteVerdict where
  | served | refused | lost
  deriving DecidableEq, Repr

/-- The shard of a ring peer as its responder served it for one item of the list: per key-value head the two scales
of plain FP8, and for each page whether it is valid and the bytes of its positions, D x e bytes each. -/
structure RemoteShard where
  verdict : RemoteVerdict
  kscales : List Word
  vscales : List Word
  kvalid  : List (List Bool)
  vvalid  : List (List Bool)
  keys    : List Bytes
  values  : List Bytes
  deriving DecidableEq, Repr

/-- The counts a command's units measured (R28, R455): cycle counts are reported by the units, no result depends on
them (R18). -/
structure Meas where
  busiest   : Nat
  busy      : Nat
  core      : Nat
  stall     : List Nat
  interfere : Nat
  freq      : Word
  others    : List (Nat × Nat)        -- other context, interference cycles (R453)
  deriving DecidableEq, Repr

/-- The answer of a host to the reads of a mover's chunk (R387, R556): the bytes, or an error completion of one of them. -/
inductive HostAnswer where
  | data (bytes : Bytes)
  | error (access : Nat)
  deriving DecidableEq, Repr

/-- A unit that takes a configuration descriptor at its apply point (R523, Table 12 of 10). -/
inductive ConfigUnit where
  | core (n : Nat)
  | expander (q : Nat)
  | mover (m : Nat)
  | site (s : Nat)
  | package (b : Nat)
  | portGroup (g : Nat)
  | hostPort (p : Nat)
  | scheduler
  | platform
  deriving DecidableEq, Repr

/-- A temperature sensor of Table 5 of 14. -/
inductive Sensor where
  | core (n : Nat)
  | field (f : Nat)
  | bulk (b : Nat)
  | coolant
  deriving DecidableEq, Repr

/-- What a sensor gives: a reading in degrees Celsius, or a failure (failed self-check or three missing readings). -/
inductive Reading where
  | celsius (t : Nat)
  | failed
  deriving DecidableEq, Repr

/-- Who caused activity units of a window (Table 7 of 14): a context, or a command of a step context, whose units R26 divides
among the owners of its items. -/
inductive ActivityOwner where
  | ctx (c : Nat)
  | items (c : Nat) (index : Word)
  deriving DecidableEq, Repr

/-- A frame as it stood on the wire, from the destination address through the FCS, with the verdicts of the FEC and the FCS,
which the lanes compute (R609), and the port group's clock. -/
structure WireFrame where
  fecOk  : Bool
  fcsOk  : Bool
  bytes  : Bytes
  at_ms  : Nat
  deriving DecidableEq, Repr

/-- The commands and events of opcode_table.json, in the table's order. -/
inductive Instr where
  | fundamentalReset (lowUs : Nat)
  | hotswapOpen (cause : HotswapCause)
  | hotswapClose (millivolts : Nat) (wasBelow10V : Bool)
  | moduleStart (inp : StartInputs)
  | recoveryGo (value : Word)
  | recoveryDone
  | pcieConfigRequestRetry (port : Nat)
  | portLinkDown (port : Nat)
  | portHotReset (port : Nat) (how : ResetKind) (link : Option LinkState)
  | slotSeal (slot : SlotRef) (word : Word)
  | scanRound (sram : EccResult)
  | heldMessageRelease
  | ccxWatchdog
  | claim (slot : SlotRef)
  | electionClose
  | handover (slot : SlotRef)
  | handoverResign (slot : SlotRef)
  | accept (slot : SlotRef)
  | handoverOfferExpire
  | portThaw (slot : SlotRef)
  | dmaWindowOpen (slot : SlotRef)
  | dmaWindowClose (slot : SlotRef)
  | dmaWindowCloseDone (port : Nat) (window : Nat)
  | queryCaps (slot : SlotRef)
  | listSet (slot : SlotRef)
  | listExtend (slot : SlotRef)
  | partitionSet (slot : SlotRef)
  | partitionApply
  | ctxCreate (slot : SlotRef)
  | ctxGrant (slot : SlotRef)
  | ctxRevoke (slot : SlotRef)
  | ctxDestroy (slot : SlotRef)
  | stepAdd (slot : SlotRef)
  | stepAddUpdate (slot : SlotRef)
  | stepRetire (slot : SlotRef)
  | ptCommitCreate (slot : SlotRef)
  | ptCommitEdit (slot : SlotRef)
  | ptCommitDestroy (slot : SlotRef)
  | memMapAllocate (slot : SlotRef)
  | memMapShare (slot : SlotRef)
  | memUnmap (slot : SlotRef)
  | memUnmapApply (ctx : Nat)
  | repairQuery (slot : SlotRef)
  | repairApply (slot : SlotRef)
  | loopback (slot : SlotRef)
  | loopbackDone (errors : List Nat)
  | fabricConfigGlobal (slot : SlotRef)
  | fabricConfigPort (slot : SlotRef)
  | fabricConfigSubport (slot : SlotRef)
  | fabricAdmitAddAnchor (slot : SlotRef)
  | fabricAdmitRemoveAnchor (slot : SlotRef)
  | fabricAdmitSetOwnChain (slot : SlotRef)
  | fabricAdmitAddPeer (slot : SlotRef)
  | fabricAdmitRemovePeer (slot : SlotRef)
  | fabricAdmitRekey (slot : SlotRef)
  | peerThaw (slot : SlotRef)
  | powerPolicy (slot : SlotRef)
  | fwStage (slot : SlotRef)
  | fwStageDone
  | fwActivateTry (slot : SlotRef)
  | fwActivateConfirm (slot : SlotRef)
  | fwActivateRaiseSvn (slot : SlotRef)
  | attestReport (slot : SlotRef)
  | attestIdentityChain (slot : SlotRef)
  | journalCompact (slot : SlotRef)
  | compaction
  | serviceModeEnter (slot : SlotRef)
  | serviceModeLeave (slot : SlotRef)
  | matmul (ctx : Nat) (hw : RunHw)
  | matmulElementwise (ctx : Nat) (hw : RunHw)
  | convolve (ctx : Nat) (hw : RunHw)
  | maxPool (ctx : Nat) (hw : RunHw)
  | avgPool (ctx : Nat) (hw : RunHw)
  | upNearest (ctx : Nat) (hw : RunHw)
  | upBilinear (ctx : Nat) (hw : RunHw)
  | regroup (ctx : Nat) (hw : RunHw)
  | gnStats (ctx : Nat) (hw : RunHw)
  | gnApply (ctx : Nat) (hw : RunHw)
  | attend (ctx : Nat) (hw : RunHw) (remote : List RemoteShard)
  | eltwise (ctx : Nat) (hw : RunHw)
  | moveCopy (ctx : Nat)
  | moveTranspose (ctx : Nat)
  | moveFill (ctx : Nat)
  | expand (ctx : Nat) (hw : RunHw)
  | packpassBuild (ctx : Nat) (hw : RunHw)
  | packpassEncode (ctx : Nat) (hw : RunHw)
  | packpassReencode (ctx : Nat) (hw : RunHw)
  | fabricPutWrite (ctx : Nat)
  | fabricPutFetchAdd (ctx : Nat)
  | fabricGet (ctx : Nat)
  | stepBuild (ctx : Nat)
  | semSignal (ctx : Nat)
  | semSignalInit (ctx : Nat)
  | semWait (ctx : Nat)
  | semWaitRecheck
  | semTimeout (ctx : Nat)
  | phase (ctx : Nat)
  | stats (ctx : Nat)
  | nop (ctx : Nat)
  | commandComplete (ctx : Nat) (index : Nat) (meas : Meas)
  | moverChunk (turn : MoverTurn)
  | hostReadCompletion (tag : Nat) (answer : HostAnswer)
  | hostCompletionTimeout (ask : HostAsk)
  | sliceEnd (part : Nat)
  | turnTake (part : Nat) (overrunUs : Nat)
  | evictionWaitTimeout (ctx : Nat)
  | teardownFinish (ctx : Nat)
  | configApply (unit : ConfigUnit)
  | registerWrite (port : Option Nat) (offset : Nat) (bytes : Bytes)
  | hpcEventsClear (port : Nat) (value : Word)
  | apertureArm (port : Nat) (seg : Nat) (value : Word)
  | apertureDisarm (port : Nat) (seg : Nat) (value : Word)
  | apertureWrite (port : Nat) (offset : Nat) (bytes : Bytes)
  | apertureRead (port : Nat) (offset : Nat) (length : Nat)
  | msixUnmask (port : Nat) (vector : Nat)
  | counterLowRead (port : Nat) (offset : Nat)
  | debugArm (port : Nat) (value : Word)
  | debugDiscard (port : Nat) (value : Word)
  | fabPrbsCtlWrite (port : Nat) (fabPort : Nat) (value : Word)
  | sbBoardLimitWrite (value : Word)
  | sbStatusRead
  | coolantReading
  | powerSample (milliwatts : Nat) (settled : Bool)
  | powerWindowEnd (activity : List (ActivityOwner × Nat))
  | sensorReading (sensor : Sensor) (reading : Reading)
  | stackTempReading (site : Nat) (celsius : Nat)
  | scrubRead (bulk : Bool) (unit : Nat) (offset : Nat) (found : EccResult)
  | stackRowRemap (row : RowRef) (uncorrectable : Bool)
  | pageReplace (ctx : Nat) (page : Nat)
  | poweredHourTick (margins : List (Nat × Option Nat))
  | subportUp (link : Nat)
  | subportBringupRetry (link : Nat)
  | subportFecLockLoss (link : Nat)
  | subportErrorWindow (link : Nat) (uncorrectable : Nat) (corrected : Nat) (symbols : Nat)
  | lldpTimer (link : Nat)
  | frameReceive (link : Nat) (frame : WireFrame)
  | frameTransmit (device : Nat)
  | hello (device : Nat) (session : Word)
  | reply (device : Nat) (session : Word)
  | confirm (device : Nat) (session : Word)
  | rekeyHello (device : Nat) (session : Word)
  | handshakeRetryTimer (device : Nat)
  | epochGraceExpire (device : Nat)
  | writeRecord (device : Nat) (tsn : Word)
  | pushRecord (device : Nat) (tsn : Word)
  | readRecord (device : Nat) (turn : RecordTurn)
  | fetchAddRecord (device : Nat) (turn : RecordTurn)
  | seqReadRecord (device : Nat) (turn : RecordTurn)
  | seqReleaseRecord (device : Nat) (tsn : Word)
  | readDataRecord (device : Nat)
  | faResultRecord (device : Nat)
  | statusRecord (device : Nat)
  | ackRecord (device : Nat)
  | creditRecord (device : Nat)
  | ackTimer (device : Nat)
  | retransmitTimeout (device : Nat) (tsn : Word)
  | sessionTimeout (device : Nat)
  | rateInterval (device : Nat)
  | prbsCheckerLock (lane : Nat) (pattern : BitVec 1)
  | prbsCheckerLockLoss (lane : Nat) (errors : Nat)
  deriving DecidableEq, Repr

end Sys2Proof
end

