-- ==== Sys2Proof/Config.lean ====
section
/-! DEFINITION. What an implementation fixes and the manual leaves open: every constant here is opaque, so no
proof can see a value of it, and a statement about it holds for every value. -/
namespace Sys2Proof

/-- A byte the manual leaves unspecified (R24, R41, R87, R129, R191, R205, R391, the second step of Table 8 of
09): one fresh value for each count of `State.free`. Log entry 3. -/
opaque Config.freeByte : Nat → Byte

/-- The refresh rate a bulk package's controller sets at a temperature, as the LPDDR5X standard provides (R397). -/
opaque Config.bulkRefresh : Nat → Nat

/-- How many NAND blocks fail while an operation of the store is carried out, each to be replaced from the spare area
(R688). -/
opaque Config.nandFailures : Nat → Nat

/-- A choice the manual leaves to the firmware or to the hardware (the first unit of R361, the page taken, the
mover of R385): used only modulo the number of allowed candidates. Log entry 4. -/
opaque Config.choice : Nat → Nat

/-- A 32-bit value the manual calls random or leaves open (SESSION of R601, a work-area word of R185). Log
entry 3. -/
opaque Config.freeWord : Nat → Word

/-- Random bytes chosen by the module (NONCE and EPH of R601). Log entry 5. -/
opaque Config.freeBytes : Nat → Nat → Bytes

/-- The signature of the identity key over a message (R714, R718): never readable, so a free value. -/
opaque Config.sm2Sign : Bytes → Bytes

/-- The 38 bytes derived by the SM2 key exchange (R601, R602), whose private keys no one reads: of the two names, identity
keys, ephemeral points and nonces, the initiator's first. Log entry 5. -/
opaque Config.sessionKeys : Bytes → Bytes

/-- The 32-byte confirmation value of the key exchange (R601), of the direction's code and the same values. Log entry 5. -/
opaque Config.confirmValue : Nat → Bytes → Bytes

/-- The VERSION, body digest, signer key and signature of the image a module leaves manufacture with (R761). Log entry 6. -/
opaque Config.shippedVersion : Word
opaque Config.shippedDigest : Bytes
opaque Config.shippedKey : Bytes
opaque Config.shippedSignature : Bytes

/-- The SM3 digest of the boot ROM, fixed per die revision (R716). -/
opaque Config.romDigest : Bytes

/-- The identity public key, x then y (R714). -/
opaque Config.identityKey : Bytes

/-- The identity certificate and Obeleri's intermediate, DER (R715, R718), at most 4,096 bytes. -/
opaque Config.identityChain : Bytes

/-- The signer hash fused into the die (R702). -/
opaque Config.signerHash : Bytes


end Sys2Proof
end

