-- ==== Sys2Proof/Machine/Bits.lean ====
section
/-! DEFINITION. Bytes, little-endian fields and byte runs (00_scope.md, R11, R12). -/
namespace Sys2Proof.Machine

open Sys2Proof

/-- Byte `i` of a run; a position beyond it reads zero. -/
def byteAt (b : Bytes) (i : Nat) : Byte := b.getD i 0

/-- The first `n` bytes of a run, zeros beyond its end. -/
def takePad : Nat → Bytes → Bytes
  | 0, _ => []
  | n + 1, [] => 0 :: takePad n []
  | n + 1, b :: bs => b :: takePad n bs

/-- `n` bytes of a run from `off`, zero beyond its end. -/
def sliceBytes (b : Bytes) (off n : Nat) : Bytes := takePad n (b.drop off)

/-- The little-endian value of a run (R11). -/
def leVal : Bytes → Nat
  | [] => 0
  | b :: bs => b.toNat + 256 * leVal bs

/-- The `n`-byte little-endian field at `off` of a layout (R11). -/
def leAt (b : Bytes) (off n : Nat) : Nat := leVal (sliceBytes b off n)

/-- `n` bytes, little-endian, of a value (R11). -/
def leBytes : Nat → Nat → Bytes
  | 0, _ => []
  | n + 1, v => BitVec.ofNat 8 v :: leBytes n (v / 256)

/-- The big-endian value of a run: Beykai headers and admission payloads (R593). -/
def beVal (b : Bytes) : Nat := leVal b.reverse

/-- The `n`-byte big-endian field at `off` (R593). -/
def beAt (b : Bytes) (off n : Nat) : Nat := beVal (sliceBytes b off n)

/-- `n` bytes, big-endian, of a value (R593). -/
def beBytes (n v : Nat) : Bytes := (leBytes n v).reverse

/-- Every byte from `lo` to `hi - 1` is zero (a reserved range, R12). -/
def zeroRange (b : Bytes) (lo hi : Nat) : Bool := (sliceBytes b lo (hi - lo)).all (· == 0)

/-- The bits `hi:lo` of a value. -/
def bitsOf (v hi lo : Nat) : Nat := v / 2 ^ lo % 2 ^ (hi - lo + 1)

/-- Bit `i` of a value. -/
def bitOf (v i : Nat) : Bool := v / 2 ^ i % 2 == 1

/-- `n` zero bytes. -/
def zeros (n : Nat) : Bytes := List.replicate n 0

/-- `n / d` rounded up. -/
def cdiv (n d : Nat) : Nat := (n + d - 1) / d

/-- Position `i` of a list replaced. -/
def setAt {α : Type} (l : List α) (i : Nat) (a : α) : List α := l.set i a

/-- Position `i` of a list changed. -/
def modifyAt {α : Type} (l : List α) (i : Nat) (f : α → α) : List α := l.modify i f

/-- A run overwritten from `off`, its length kept. -/
def putBytes : Bytes → Nat → Bytes → Bytes
  | [], _, _ => []
  | x :: xs, off + 1, new => x :: putBytes xs off new
  | x :: xs, 0, [] => x :: xs
  | _ :: xs, 0, y :: ys => y :: putBytes xs 0 ys

/-- A 32-bit counter that stops at 0xFFFF_FFFF. -/
def satInc (w : Word) (n : Nat) : Word := if w.toNat + n ≥ 0xFFFFFFFF then 0xFFFFFFFF else w + BitVec.ofNat 32 n

/-- A packed integer from (value, width) fields, lowest first: used for register field maps. -/
def packFields : List (Nat × Nat) → Nat
  | [] => 0
  | (v, w) :: fs => v % 2 ^ w + 2 ^ w * packFields fs

/-- 1 for true. -/
def bit (b : Bool) : Nat := if b then 1 else 0

end Sys2Proof.Machine
end

