-- ==== Sys2Proof/Machine/Codes.lean ====
section
/-! DEFINITION. The error codes (Table 5 of 16, R14, R15): SUBSYS in bits 15:8, CAUSE in bits 7:0. -/
namespace Sys2Proof.Machine

open Sys2Proof

namespace Err

def success : Code := 0x0000
def hpcNotPresent : Code := 0x0101
def notOwner : Code := 0x0102
def claimInvalid : Code := 0x0103
def handoverInvalid : Code := 0x0104
def thawInvalid : Code := 0x0105
def dmaWindowInvalid : Code := 0x0106
def frozenOwWrite : Code := 0x0107
def frozenMalformed : Code := 0x0108
def frozenAperture : Code := 0x0109
def frozenMailbox : Code := 0x010A
def msgMalformed : Code := 0x0202
def msgWrongMailbox : Code := 0x0203
def listInvalid : Code := 0x0204
def listOverrun : Code := 0x0205
def descHeaderInvalid : Code := 0x0206
def capsInvalid : Code := 0x0207
def debugLocked : Code := 0x0208
def debugArmInvalid : Code := 0x0209
def ccxSramUncorrectable : Code := 0x020A
def ccxWatchdog : Code := 0x020B
def ctxInvalid : Code := 0x0302
def ctxLimit : Code := 0x0303
def ctxAllotment : Code := 0x0304
def partitionInvalid : Code := 0x0305
def stepInvalid : Code := 0x0306
def stepTableFull : Code := 0x0307
def stepNotMapped : Code := 0x0308
def stepBuildInvalid : Code := 0x0309
def semInvalid : Code := 0x030A
def semOverflow : Code := 0x030B
def semTimeout : Code := 0x030C
def statsInvalid : Code := 0x030D
def coreNotPresent : Code := 0x0401
def exNotPresent : Code := 0x0701
def moveRange : Code := 0x0802
def moveWindowInvalid : Code := 0x0803
def moveHostFault : Code := 0x0804
def segmentInvalid : Code := 0x0805
def stmNotPresent : Code := 0x0901
def addrNotMapped : Code := 0x0902
def addrReadOnly : Code := 0x0903
def memUncorrectable : Code := 0x0904
def mapInvalid : Code := 0x0905
def mapAllotment : Code := 0x0906
def mapCapacity : Code := 0x0907
def repairInvalid : Code := 0x0908
def repairNoSpare : Code := 0x0909
def loopbackUnavailable : Code := 0x090A
def btmNotPresent : Code := 0x0A01
def bulkUncorrectable : Code := 0x0A04
def fabNotPresent : Code := 0x0B01
def shapeRange : Code := 0x0402
def listRange : Code := 0x0403
def layoutInvalid : Code := 0x0404
def modeInvalid : Code := 0x0405
def ksplitRequired : Code := 0x0406
def flagsConflict : Code := 0x0407
def accCapacity : Code := 0x0408
def intermediateInvalid : Code := 0x0409
def tripleInvalid : Code := 0x040A
def coreSramUncorrectable : Code := 0x040B
def formatMismatch : Code := 0x0410
def formatNotOperand : Code := 0x0411
def formatReserved : Code := 0x0412
def nanTrapped : Code := 0x0413
def scaleInvalid : Code := 0x0414
def convGeometry : Code := 0x0415
def windowTooLarge : Code := 0x0416
def regroupInvalid : Code := 0x0417
def opkindInvalid : Code := 0x0418
def groupsInvalid : Code := 0x0419
def chainRange : Code := 0x0502
def stageInvalid : Code := 0x0503
def stageFormat : Code := 0x0504
def stagePlacement : Code := 0x0505
def chainNeedsCompleteRow : Code := 0x0506
def chainNoOutput : Code := 0x0507
def statMismatch : Code := 0x0508
def prologueTooLarge : Code := 0x0509
def eltwiseRange : Code := 0x050A
def headShapeInvalid : Code := 0x0602
def seqInvalid : Code := 0x0603
def seqRange : Code := 0x0604
def maskInvalid : Code := 0x0605
def pageNotValid : Code := 0x0606
def ringInvalid : Code := 0x0607
def ringStepTooLong : Code := 0x0608
def ptEditInvalid : Code := 0x0609
def ptVersionConflict : Code := 0x060A
def ptBusy : Code := 0x060B
def ptCapacity : Code := 0x060C
def ringPeerLost : Code := 0x060D
def seqMismatch : Code := 0x060E
def packedInvalid : Code := 0x0702
def adapterInvalid : Code := 0x0703
def expandOverrun : Code := 0x0704
def expandShort : Code := 0x0705
def blockHeaderInvalid : Code := 0x0706
def blockCheckFailed : Code := 0x0707
def tableInvalid : Code := 0x0708
def tableStale : Code := 0x0709
def tableInUse : Code := 0x070A
def packStreamFull : Code := 0x070B
def expandRange : Code := 0x070C
def expSramUncorrectable : Code := 0x070D
def fabricConfigInvalid : Code := 0x0B02
def fabricBusy : Code := 0x0B03
def admitInvalid : Code := 0x0B04
def certInvalid : Code := 0x0B05
def fabricRange : Code := 0x0B06
def hallAddrInvalid : Code := 0x0B07
def hallRefused : Code := 0x0B08
def hallNoWindow : Code := 0x0B09
def hallSessionLost : Code := 0x0B0A
def hallNoSession : Code := 0x0B0B
def peerThawInvalid : Code := 0x0B0C
def peerFrozenCredit : Code := 0x0B0D
def peerFrozenMalformed : Code := 0x0B0E
def peerFrozenRefusals : Code := 0x0B0F
def powerPolicyInvalid : Code := 0x0C02
def phaseInvalid : Code := 0x0C03
def thermalStop : Code := 0x0C04
def journalFull : Code := 0x0C05
def journalFailed : Code := 0x0C06
def fwImageInvalid : Code := 0x0C07
def fwSignatureInvalid : Code := 0x0C08
def fwRollbackRefused : Code := 0x0C09
def fwStateInvalid : Code := 0x0C0A
def attestInvalid : Code := 0x0C0B
def serviceModeInvalid : Code := 0x0C0C
def fwNoneBootable : Code := 0x0C0D
def startFailed : Code := 0x0C0E

end Err

end Sys2Proof.Machine
end

