-- ==== Sys2Proof/Machine/State.lean ====
section
/-! DEFINITION. The module's whole state as plain data: every register, store, buffer, counter, mode and pin the spec
names, the queue of waiting commands, and the few fields of the model's own that INVENTORY.md names. -/
namespace Sys2Proof.Machine

open Sys2Proof

/-- Why a step stops with a fault. No command of this block raises one: every access the spec calls illegal has an
effect of its own (a fault record, a freeze, a refusal in a reply), so the constructor only closes the type. -/
inductive Fault where
  /-- An address outside every tier; raised by no command. Safe. -/
  | outsideTiers
  deriving DecidableEq, Repr

/-- Why a step refuses a command. -/
inductive Refusal where
  /-- The command has no meaning in this model yet; raised by its arm of `exec`. Safe. -/
  | notModelled (mnemonic : String)
  deriving DecidableEq, Repr

/-- The three parts of Table 2 of 00. -/
inductive Part where
  | f | s | l
  deriving DecidableEq, Repr

/-- Where the module stands between power and ready (R722, R745, R747, R753). -/
inductive Phase where
  | unpowered | inReset | ready | startHalted | recovery
  deriving DecidableEq, Repr

/-- A memory tier. -/
inductive Tier where
  | stack | bulk
  deriving DecidableEq, Repr

/-- What the module has sent out, oldest first: the model's own record of its outputs. -/
inductive Output where
  | msix (port : Nat) (vector : Nat)
  | hostWrite (port : Nat) (addr : Nat) (noSnoop relaxed : Bool) (bytes : Bytes)
  | hostRead (tag : Nat) (port : Nat) (addr : Nat) (length : Nat) (noSnoop relaxed : Bool)
  | readData (port : Nat) (bytes : Bytes)
  | retryStatus (port : Nat)
  | sideband (value : Word)
  | advertisement (link : Nat) (solicited : Bool)
  | frame (link : Nat) (bytes : Bytes)
  | thermTrip
  deriving DecidableEq, Repr

/-- Pins and the hot-swap switch (R745, R747, R752). -/
structure Pins where
  pwrOk     : Bool
  resetSeen : Bool          -- MOD_RESET_N asserted since the switch opened, R745
  thermTrip : Bool          -- THERM_TRIP_N asserted, R752
  deriving DecidableEq, Repr

/-- One compute core: CORE_INFO (R93), its ECC counter (R92), role epoch (R456) and clock (R658). -/
structure Core where
  present   : Bool
  withdrawn : Bool          -- R666
  fusedMax  : BitVec 4
  curMax    : BitVec 4
  nextMax   : Option (BitVec 4)   -- a lowered CUR_MAX waiting for the apply point, R664
  nextOff   : Bool          -- a withdrawal waiting for the apply point, R666
  mode      : BitVec 3
  busy      : Bool
  ctx       : BitVec 10
  ecc       : Nat
  epoch     : Word
  freqKhz   : Nat           -- frequency of the last command, R660
  changeStall : Bool        -- a frequency change to be counted as power stall, R659
  deriving DecidableEq, Repr

/-- One expander: EXP_INFO (R310) and the pairs its factor store holds, least recently used first (R342). -/
structure Expander where
  present : Bool
  tables  : List (Nat × Nat × Nat)    -- decoder slots: tensor descriptor, table, GEN
  factors : List (Nat × Nat × Nat)    -- adapter address, tensor address, bytes
  eccCorr : BitVec 8
  epoch   : Word
  deriving DecidableEq, Repr

/-- One stack site's controller and repair state (R393, R398 to R406). -/
structure Site where
  present   : Bool
  temp      : Nat
  refresh   : Nat                     -- step of Table 9 of 08: 0 1x, 1 2x, 2 4x, 3 4x with throttle
  corrected : List (Nat × Nat)        -- channel, corrected errors since the start
  rowReads  : List (Nat × Nat × Nat × Nat)  -- channel, bank, row, reads with a corrected error
  used      : List (Nat × Nat × Nat)  -- channel, bank, row remapped to a spare (survives every reset)
  deriving DecidableEq, Repr

/-- One bulk package. -/
structure Package where
  present : Bool
  temp    : Nat
  refresh : Nat := 0                  -- refresh rate set from the reported temperature, R397
  deriving DecidableEq, Repr

/-- One mapping of a context (R356, R360): `pages` are physical page bases in order; `source` is the mapping a
share was made from. -/
structure Mapping where
  id       : Nat
  ctx      : Nat
  base     : Nat
  length   : Nat
  tier     : Tier
  psize    : Nat
  readOnly : Bool
  pages    : List Nat
  charged  : Nat                      -- context the pages are charged to, R362
  source   : Option Nat
  deriving DecidableEq, Repr

/-- A MEM_UNMAP accepted and waiting for the commands that began before it (R365). -/
structure PendingUnmap where
  ctx    : Nat                        -- context named by the message
  ids    : List Nat                   -- mappings it removes, aliases included
  pages  : Nat                        -- pages of CTX it removes, for the reply
  waits  : List (Nat × Nat)           -- begun commands (context, ordinal) still to end
  affected : List Nat                 -- contexts it has still to be applied to
  seq    : Nat                        -- TAKE_SEQ of the message that waits
  ord    : Nat := 0                   -- ordinal of its acceptance
  deriving DecidableEq, Repr

/-- A page retired for corrected errors that mappings still hold: its copy, and whether the copy is complete (R402). -/
structure PendingPage where
  old     : Nat
  new     : Nat
  size    : Nat
  copied  : Bool
  deriving DecidableEq, Repr

/-- A context's command list (R507, R508). -/
structure CmdList where
  base  : Nat
  cap   : Nat
  start : Word
  stop  : Word                        -- END
  next  : Word                        -- index of the next command to begin
  begun : Word                        -- CMD_BEGUN
  done  : Word                        -- CMD_DONE
  ended : List Word                   -- completed indices at or above CMD_DONE
  deriving DecidableEq, Repr

/-- The fault record (Table 9 of 09). -/
structure FaultRec where
  code     : Code
  outcome  : Nat
  cmdCtx   : Nat
  cmdIndex : Word
  opcode   : Byte
  item     : Nat
  entry    : Word
  detail   : Bytes
  deriving DecidableEq, Repr

/-- The command statistics record (Table 11 of 09). -/
structure CmdRec where
  index     : Word
  opcode    : Byte
  mode      : Nat
  plan      : Nat
  p         : Nat
  cores     : Nat
  busiest   : Nat
  chainTag  : Word
  partLo    : List Nat
  busy      : Nat
  core      : Nat
  stall     : List Nat
  interfere : Nat
  nan       : Nat
  freq      : Word
  shares    : List (Nat × Nat) := []        -- the model's own: rows of its items by owning context, R26
  deriving DecidableEq, Repr

/-- An item of a STEP_BUILD: item number, step-table entry, owning context (R466). -/
structure BuildItem where
  item  : Nat
  entry : Nat
  ctx   : Nat
  born  : Nat := 0                    -- the entry's ordinal, which tells entries of one place apart
  deriving DecidableEq, Repr

/-- A run of physical bytes a begun command writes, with the context that owns its item. -/
structure OutRun where
  owner  : Nat
  addr   : Nat
  length : Nat
  deriving DecidableEq, Repr

/-- What an item of a ring step reads from a peer: the device, the item and its place in the list, the physical runs it
writes, and the SEQ_READs that serve it, each with the bytes it asks for (R303, R629). -/
structure RingRead where
  device : Nat
  item   : Nat
  outs   : List OutRun
  part   : Nat := 0
  asks   : List (Bytes × Nat) := []
  deriving DecidableEq, Repr

/-- A command begun and not completed (R425 to R429, R437). -/
structure Begun where
  index     : Word
  ord       : Nat                     -- ordinal of its beginning
  opcode    : Byte
  desc      : Bytes
  core      : Bool                    -- core stream
  transfer  : Bool                    -- transfer stream
  long      : Bool
  preempted : Bool
  irq       : Bool
  policy    : Nat
  outs      : List OutRun
  tensors   : List Nat                -- packed-tensor descriptors it names (physical address)
  waiting   : Bool                    -- SEM_WAIT, or the wait of R332, R333; with `preempted`, a core command whose wait is over
  record    : CmdRec
  cls       : Nat                     -- its own class, R660
  unitMode  : Nat                     -- MODE of CORE_INFO while it occupies cores
  cores     : List Nat
  build     : Option (List BuildItem) -- items of the last STEP_BUILD before it, R466
  hw        : RunHw                   -- what its units meet once it runs
  list      : Option Bytes := none    -- its operand list as read when it began, R109
  ring      : List RingRead := []     -- what its items read from ring peers, R303, R629
  turn      : Nat := 0                -- the context's turn in which it began, R453
  deriving DecidableEq, Repr

/-- The state of a context (Table 3 of 09). -/
inductive CtxState where
  | idle | ready | running | blocked | paused | halted | closing | dead
  deriving DecidableEq, Repr

/-- One context (09). -/
structure Ctx where
  num        : Nat
  state      : CtxState
  step       : Bool                   -- KIND 1
  partition  : Nat
  home       : Nat
  vector     : Nat
  grants     : List (Nat × Nat)       -- port, vector
  nanTrap    : Bool
  savePages  : List Nat               -- physical pages of the save area, R418
  policy     : Nat                    -- 1 tear down, 2 halt
  sliceUs    : Nat
  stackAllot : Nat
  bulkAllot  : Nat
  resident   : Bool
  stateSince : Nat                    -- ordinal of the state's beginning, R432
  lastBegan  : Nat                    -- ordinal of the last command begun, R432
  debtUs     : Nat
  list       : Option CmdList
  begun      : List Begun
  records    : List CmdRec            -- the last 64 completed commands, newest first, R455
  nanCount   : Word
  cls        : Nat                    -- class of the last PHASE, P0 before any, R660
  busy       : Nat
  interfere  : Nat
  turnBusy   : Nat                    -- of the turn running
  turnIntf   : Nat
  turnOthers : List (Nat × Nat)       -- interference of the turn by other context
  slowdown   : Word                   -- over the last finished turn
  topOther   : Word
  fault      : FaultRec
  build      : Option (List BuildItem)
  mailbox    : Bool                   -- false once released, R446, R505
  closing    : List Nat               -- ordinals of other contexts' commands the tear-down waits for, R449
  turnNo     : Nat := 0               -- turns finished
  lastBusy   : Nat := 0               -- of the last finished turn
  lastIntf   : Nat := 0
  lastOthers : List (Nat × Nat) := []
  deriving DecidableEq, Repr

/-- A SEM_WAIT that waits (R477, R478), in order of beginning. -/
structure Waiter where
  ctx     : Nat
  index   : Word
  addr    : Nat                       -- physical address of the count
  value   : Nat
  peek    : Bool
  timeout : Nat
  deriving DecidableEq, Repr

/-- A partition's turn (R434 to R441). -/
structure Turn where
  holder   : Option Nat
  last     : Nat                      -- context that held the last turn
  overran  : Bool                     -- the last turn ended at a slice end with another context READY, R439
  deriving DecidableEq, Repr

/-- State of a step-table entry (Table 14 of 09). -/
inductive EntryState where
  | active | finished | closing
  deriving DecidableEq, Repr

/-- The fields a STEP_ADD update sets at the next step boundary (R459). -/
structure EntryUpdate where
  kind     : Nat
  noise    : Word
  guidance : Word
  priority : Nat
  adapter  : Nat
  user     : Bytes
  deriving DecidableEq, Repr

/-- A step-table entry in use (Table 14 of 09). -/
structure Entry where
  index     : Nat
  model     : Word
  shape     : Nat
  kind      : Nat
  state     : EntryState
  last      : Nat
  reason    : Nat
  retireReq : Bool
  noroom    : Nat
  stepIndex : Nat
  stepCount : Nat
  noise     : Word
  guidance  : Word
  priority  : Nat
  condCount : Nat
  latent    : Nat
  condAddr  : Nat
  adapter   : Nat
  ctx       : Nat
  stepCtx   : Nat
  user      : Bytes
  list      : Nat
  item      : Nat
  buildSeq  : Word
  mark      : Bool                    -- the mark of R25
  itemFault : Bool                    -- its item was faulted under R24 since it was placed, R22
  update    : Option EntryUpdate
  born      : Nat := 0                -- ordinal of its STEP_ADD
  deriving DecidableEq, Repr

/-- One version of a sequence's page table (R252): entries not listed are invalid (0). -/
structure PtVersion where
  version : Word
  entries : List (Nat × BitVec 64)
  length  : Nat
  kscales : List Word
  vscales : List Word
  deriving DecidableEq, Repr

/-- A walk under way on a version: of a local ATTEND (context, ordinal of the command) or of a ring peer (device,
WALK) (R264, R270, R629). -/
inductive Walk where
  | local (version : Word) (ctx : Nat) (ord : Nat)
  | peer (version : Word) (device : Nat) (walk : Word)
  deriving DecidableEq, Repr

/-- A sequence (R249 to R270). -/
structure Sequence where
  handle    : Nat
  ctx       : Nat
  fmt       : Nat
  hkv       : Nat
  d         : Nat
  cap       : Nat
  kld       : Nat
  vld       : Nat
  ringShare : Bool
  bound     : Option Nat
  current   : PtVersion
  pending   : Option PtVersion
  retiring  : List PtVersion
  walks     : List Walk
  gone      : Bool                    -- destroyed, its buffers held by walks, R262
  deriving DecidableEq, Repr

/-- One segment of a MOVE under way (R383 to R390). -/
structure MoveSeg where
  index  : Nat
  src    : Nat
  dst    : Nat
  len0   : Nat
  len1   : Nat
  len2   : Nat
  ss1    : Nat
  ds1    : Nat
  ss2    : Nat
  ds2    : Nat
  item   : Nat
  owner  : Nat                        -- context that owns the item, R24
  total  : Nat                        -- chunks
  next   : Nat                        -- next chunk not yet dealt
  whole  : List Nat                   -- chunks written whole
  stopped : Bool
  deriving DecidableEq, Repr

/-- What a mover job does. -/
inductive JobKind where
  | copy | transpose | fill
  deriving DecidableEq, Repr

/-- Work the firmware gives the movers, in chunks of 64 KiB: the ZERO fill of a mapping, with its pages, their size, and the
reply its MEM_MAP waits for (R361); the copy of a page (R402); the save and the restore of a context's cores (R437). -/
inductive FwWork where
  | fill (map : Nat) (pages : List Nat) (psize : Nat) (seq : Nat) (reply : Bytes)
  | copy (old : Nat) (new : Nat)
  | save (ctx : Nat)
  | restore (ctx : Nat)
  deriving DecidableEq, Repr

/-- A piece of that work: the chunks it has, and the next not yet dealt. -/
structure FwJob where
  work  : FwWork
  total : Nat
  next  : Nat
  deriving DecidableEq, Repr

/-- A waiting command of the movers (R385); one of the firmware's own names no context. -/
structure Job where
  id    : Nat
  ctx   : Nat
  index : Word
  epoch : Word                        -- context epoch at the beginning, R456
  kind  : JobKind
  esize : Nat
  fill  : Word
  segs  : List MoveSeg
  fw    : Option FwJob := none
  deriving DecidableEq, Repr

/-- A chunk held by the host port complex (R386). -/
structure Held where
  port  : Nat
  win   : Nat
  job   : Nat
  seg   : Nat
  chunk : Nat
  released : Bool                     -- performed before every chunk not yet dealt
  mover : Nat := 0                    -- mover that took it
  deriving DecidableEq, Repr

/-- A host read a mover waits for (R387, R556). -/
structure HostRead where
  tag   : Nat
  port  : Nat
  win   : Nat
  epoch : Word
  job   : Nat
  seg   : Nat
  chunk : Nat
  mover : Nat
  deriving DecidableEq, Repr

/-- An aperture segment (R546 to R548). -/
structure Segment where
  baseLo  : Word
  baseHi  : Word
  base    : Nat                       -- in force
  armedCtx : Nat                      -- in force
  armedWrite : Bool                   -- in force
  valid   : Bool
  write   : Bool                      -- as last written
  refused : Bool
  ctx     : BitVec 10                 -- as last written
  deriving DecidableEq, Repr

/-- An open DMA window (R551). -/
structure Window where
  index    : Nat
  read     : Bool
  write    : Bool
  noSnoop  : Bool
  relaxed  : Bool
  hostAddr : Nat
  length   : Nat
  closing  : List Nat                 -- TAKE_SEQ of each close that waits, R555
  deriving DecidableEq, Repr

/-- An MSI-X table entry that differs from its reset value (R543). -/
structure MsixEntry where
  vector  : Nat
  addrLo  : Word
  addrHi  : Word
  data    : Word
  control : Word
  deriving DecidableEq, Repr

/-- Configuration space before a host has set it: BAR2 of 64 GiB, 128-byte payloads, 512-byte read requests, MSI-X enabled
and unmasked. Log entry 11. -/
def PortConfig.reset : PortConfig := { bar2Gib := 64, payload := 128, readReq := 512, msixOn := true, msixMask := false }

/-- One host port (11). -/
structure Port where
  present   : Bool
  linkUp    : Bool
  speed     : BitVec 3
  width     : BitVec 5
  flit      : Bool
  frozen    : Bool
  cause     : Code
  freezeAddr : BitVec 64
  events    : BitVec 5
  eventEn   : Word
  discards  : Word
  malformed : Nat
  epoch     : Word
  segs      : List Segment
  windows   : List Window
  msix      : List MsixEntry
  pba       : List Nat
  mgmt      : List Bytes
  boxes     : List (Nat × List Bytes)
  latches   : List (Nat × Word)       -- offset of a low word, latched high word, R613
  perstOff  : Bool                    -- PERST# released
  cfg       : PortConfig := PortConfig.reset  -- what the host set in configuration space, R534, R543
  deriving DecidableEq, Repr

/-- A claim of an open election (R561, R563). -/
structure Claim where
  port     : Nat
  priority : Nat
  seq      : Nat                      -- TAKE_SEQ of the CLAIM that waits
  alive    : Bool                     -- not hot-reset since
  deriving DecidableEq, Repr

/-- Ownership, election and hand-over (R557 to R570). -/
structure Ownership where
  owner    : Option Nat
  electing : Bool
  claims   : List Claim
  offer    : Option (Nat × Nat)       -- source, target
  deriving DecidableEq, Repr

/-- How far a taken message has come (R496). -/
inductive MsgState where
  | held | waiting
  deriving DecidableEq, Repr

/-- A message taken and not yet replied (R493 to R497). -/
structure Msg where
  port   : Nat
  box    : Option Nat
  slot   : Nat
  seq    : Nat
  tag    : BitVec 16
  notify : Bool
  opcode : BitVec 16
  body   : Bytes
  state  : MsgState
  discard : Bool                      -- its reply is discarded, R504, R505
  freezes : Bool := false             -- the third malformed one: its port is frozen once it is replied, R500
  deriving DecidableEq, Repr

/-- The control complex (10). -/
structure Ccx where
  halted    : Bool
  haltCode  : Code
  service   : Bool
  heartbeat : BitVec 8
  takeSeq   : Nat                     -- TAKE_SEQ of the next take
  msgs      : List Msg
  dbgCode   : Code
  dbgApplied : BitVec 8
  dbgWaiting : List Nat               -- port groups that have not yet applied the last arm
  eccCorr   : Nat := 0                -- corrected errors of its SRAM, R483
  deriving DecidableEq, Repr

/-- A fabric port (R578, R589) with its test register, live and staged (R526, R736). -/
structure FabPort where
  present  : Bool
  mode     : Nat
  breakout : Nat
  media    : Nat
  vlan     : Bool
  vid      : Nat
  pcp      : Nat
  prbs     : Word                     -- live
  staged   : Option Word
  armed    : Option Word              -- armed and waiting for the apply point
  armOrd   : Nat := 0                 -- ordinal of that arm, R525
  deriving DecidableEq, Repr

/-- A subport by link index 8p + s (R583, R586). -/
structure Subport where
  up       : Bool
  training : Bool
  fecLock  : Bool
  encap    : Bool
  noLldp   : Bool
  ipv6     : BitVec 128
  nextHop  : BitVec 48
  badRun   : Nat                      -- consecutive bad 1 ms windows, R584
  counters : List Nat                 -- Table 13 of 12, in order from TX_FRAMES
  deriving DecidableEq, Repr

/-- A fabric configuration form accepted and waiting for port groups (R590). -/
structure FabPending where
  body   : Bytes
  groups : List Nat
  seq    : Nat                        -- TAKE_SEQ of the message that waits
  ord    : Nat := 0                   -- ordinal of its issue, R525
  deriving DecidableEq, Repr

/-- One request of a requester (R623 to R638). -/
structure Req where
  tsn    : Word                       -- given at the first send, R635
  kind   : Nat                        -- record type, Table 3 of 13
  ordered : Bool
  aux    : Word
  addr   : Nat
  ld     : Nat
  data   : Bytes
  cost   : Nat
  sent   : Nat                        -- times sent
  lastLink : Nat
  acked  : Bool
  got    : List (Nat × Nat)           -- READ: offset, bytes arrived
  ctx    : Nat
  index  : Word
  epoch  : Word                       -- context epoch at the issue
  item   : Nat
  part   : Nat                        -- position of the item in the command's list
  localVa : Nat
  after  : Bool                       -- a DONE_ADDR fetch-and-add held until its items are acknowledged, R225, R633
  dead   : Bool                       -- its item has faulted
  due    : Bool := false              -- its retransmission waits for a path, R622
  want   : Nat := 0                   -- bytes a SEQ_READ asks for, R629
  deriving DecidableEq, Repr

/-- A record accepted and not yet applied, or a response not yet sent. -/
structure InRec where
  kind   : Nat
  ordered : Bool
  status : Code
  tsn    : Word
  aux    : Word
  addr   : Nat
  ld     : Nat
  data   : Bytes
  dup    : Bool                       -- a copy of a request already received, R637
  mixed  : List (Nat × Nat) := []     -- hall ranges that unordered requests touched while it waited, R630
  deriving DecidableEq, Repr

/-- The receive window of one epoch and sending link (R608). -/
structure PnWindow where
  epoch : Word
  link  : Nat
  high  : Nat
  seen  : List Nat
  deriving DecidableEq, Repr

/-- A handshake under way with a peer, opening a session or rekeying one (R601, R603, R606). -/
structure Handshake where
  id        : Word
  rekey     : Bool
  initiator : Bool
  tries     : Nat
  nonce     : Bytes                   -- 32 bytes sent
  eph       : Bytes                   -- 64 bytes sent
  keys      : Bytes                   -- 38 bytes of R602, derived by a responder and not yet installed
  link      : Option Nat              -- link that carried the last admission frame
  chain     : Bytes                   -- the peer's chain
  sent      : Bytes := []             -- the admission payload last sent, sent again as it stands, R600
  heard     : Bytes := []             -- the HELLO answered, by a responder
  expect    : Bytes := []             -- the confirmation value a responder awaits
  anchors   : List Bytes := []        -- the anchors installed when it began, R600
  deriving DecidableEq, Repr

/-- A session that is up with a peer (12, 13). -/
structure Session where
  id        : Word
  epoch     : Word
  initiator : Bool
  keys      : Bytes                   -- 38 bytes of R602, of the epoch in force
  chain     : Bytes                   -- the peer's chain, R599
  prevOk    : Bool                    -- frames of the previous epoch still accepted, R608
  prevKeys  : Bytes := []             -- keys of the previous epoch
  prevInit  : Bool := false           -- the role they were derived in
  home      : Nat                     -- home port group, R620
  pn        : List (Nat × Nat)        -- link, packets sent in this epoch
  windows   : List PnWindow
  nextTsn   : Word
  reqs      : List Req
  consumed  : Word
  seen      : Word
  srtt      : Nat                     -- nanoseconds
  rttvar    : Nat
  samples   : List Nat                -- the last 1,024 round-trip samples, newest first
  rate      : Rat                     -- r, in bits per second
  alpha     : Rat
  quiet     : Nat
  eceIn     : Bool                    -- an accepted frame of the interval had ECE
  ceNote    : Bool                    -- accepted a CE-marked frame since the last ECE, R625
  retx      : Nat
  cum       : Word
  beyond    : List Word               -- performed or refused above CUM
  returned  : Word
  issued    : Word
  faCache   : List (Word × Bytes)
  refused   : Nat                     -- refused requests in a row, R652
  inbox     : List InRec
  toSend    : List InRec              -- responses not yet sent
  ackDue    : Bool := false           -- an ACK and a CREDIT wait for a path, R622
  rota      : List (Nat × Nat) := []  -- frames placed on each path of the rotation, R622
  deriving DecidableEq, Repr

/-- An admission message handed to the control complex (R609). -/
structure AdmitIn where
  link    : Nat
  session : Word
  epoch   : Word
  payload : Bytes
  deriving DecidableEq, Repr

/-- An admission frame not yet sent. -/
structure AdmitOut where
  session : Word
  epoch   : Word
  payload : Bytes
  deriving DecidableEq, Repr

/-- A peer entry (R597) with its freeze, its session and the requests that wait for one. -/
structure Peer where
  device   : Nat
  pin      : Option Bytes
  mac      : BitVec 48
  ipv6     : BitVec 128
  subports : BitVec 192
  frozen   : Option Code
  session  : Option Session
  waiting  : List Req                 -- issued while no session is up
  hs       : Option Handshake
  admitIn  : List AdmitIn
  admitOut : List AdmitOut := []      -- admission frames that wait for a path, R622
  deriving DecidableEq, Repr

/-- The settings of FABRIC_CONFIG GLOBAL (Table 4 of 12). -/
structure FabGlobal where
  device     : Option Nat
  etherType  : BitVec 16
  udpPort    : BitVec 16
  hopLimit   : BitVec 8
  dscp       : BitVec 8
  maxPayload : Nat
  deriving DecidableEq, Repr

/-- The fabric engine (12, 13). -/
structure Fabric where
  glob       : FabGlobal              -- as last accepted
  groups     : List FabGlobal         -- as each port group last applied it, R590
  macBase    : BitVec 48
  ports      : List FabPort
  subs       : List Subport
  anchors    : List (Nat × Bytes)
  ownChain   : Bytes
  peers      : List Peer
  admits     : List (Nat × Nat)       -- port group, time in ms of an admission frame passed, R609
  pending    : List FabPending
  removing   : List (Nat × Nat × List Nat)  -- TAKE_SEQ, device, groups still to apply REMOVE_PEER, R599
  lanes      : List (Bool × BitVec 31)      -- LOCK, ERRORS of each link lane, R738
  past       : List Req := []         -- acknowledged requests of sessions that have ended, R656
  deriving DecidableEq, Repr

/-- The platform unit's power settings and energy counters (14). -/
structure Plt where
  capW       : Nat                    -- the owner's setting
  classLimit : Nat
  boardW     : Nat
  capInForce : Nat
  policyWait : List (Nat × Nat × Nat) -- CAP_W and CLASS_LIMIT waiting for the next window, TAKE_SEQ
  idleW      : Nat
  inputUj    : Nat                    -- PLT_INPUT_ENERGY, in microjoules
  ctxUj      : List (Nat × Nat)       -- context number, microjoules since its CTX_CREATE
  destroyed  : List Nat               -- numbers whose counter has left the sums, R683
  energySeq  : Word
  exceeded   : Word
  hours      : Nat
  lastMeanW  : Nat                    -- PLT_SB_POWER
  boardReg   : Word                   -- PLT_SB_BOARD_LIMIT
  coolantReg : Word                   -- PLT_SB_COOLANT
  coolantVal : Nat                    -- tenths of the last value written with VALID 1
  coolantFresh : Bool                 -- rewritten since the last reading taken
  coolantStale : Nat                  -- readings taken without a rewrite
  coolantEver  : Bool
  coolantWait  : Nat                  -- readings since the release of the reset
  sbSeen     : BitVec 4               -- PLT_SB_STATUS[31:28] at the carrier's last read
  bistDone   : Bool
  noBase     : Bool
  sitesFailed : BitVec 8
  quadsFailed : Nat
  coresFailed : Nat
  pkgsFailed  : Word
  fabsFailed  : BitVec 24
  deriving DecidableEq, Repr

/-- The duties of the brake and of the thermal throttles (R671, R675, R677, R678). -/
structure Heat where
  dp         : Nat
  sinceRise  : Nat                    -- samples since D_p last rose
  sample     : Nat                    -- samples taken in this window
  energyNj   : Nat                    -- energy of those samples, in nanojoules
  dj         : List Nat               -- per core
  djFailed   : List Nat               -- cores whose sensor failed
  df         : List Nat               -- per field
  dfFailed   : List Nat               -- fields whose sensor failed
  hotFields  : List Nat               -- fields whose throttle signal holds, R395
  coolantFailed : Bool
  coreTemp   : List Nat               -- latest junction reading per core
  stopped    : Bool                   -- thermal stop
  deriving DecidableEq, Repr

/-- A journal record (Table 2 of 15): `key` is the bytes of its key, R691. -/
structure JRec where
  seq     : Nat
  kind    : Nat
  key     : List Nat
  baseGen : Nat
  body    : Bytes
  deriving DecidableEq, Repr

/-- A base image and its BASE_COMMIT (R697). -/
structure BaseImage where
  gen     : Nat
  lastSeq : Nat
  image   : List JRec
  deriving DecidableEq, Repr

/-- The state of a firmware slot (Table 7 of 15). -/
inductive SlotState where
  | empty | staged | trial | good | bad
  deriving DecidableEq, Repr

/-- A firmware slot with its image's header fields (Table 6 of 15). -/
structure FwSlot where
  state   : SlotState
  tries   : Nat
  header  : Bytes                     -- the first 256 bytes of the image
  digest  : Bytes                     -- BODY_DIGEST as read back
  version : Word
  svn     : Nat
  valid   : Bool                      -- the signature, digest and header rules of R702 but MIN_SVN
  deriving DecidableEq, Repr

/-- An FW_STAGE under way (R707). -/
structure Staging where
  seq  : Nat
  slot : Nat
  image : FwSlot
  deriving DecidableEq, Repr

/-- The persistent store and the root of trust (15). -/
structure Store where
  journal   : List JRec               -- records in the journal, oldest first
  unerased  : Nat                     -- units of folded records not yet erased
  written   : Nat                     -- units written since manufacture: the place of the next record
  base      : Option BaseImage        -- base in force
  area      : Nat                     -- base area in force, 0 or 1
  lastSeq   : Nat                     -- highest SEQ written
  chain     : Bytes                   -- running hash since the last checkpoint, R694
  sinceCp   : Nat                     -- records since the last checkpoint
  compacting : Bool
  compactS  : Nat                     -- S of Table 5
  compactWait : List Nat              -- TAKE_SEQ of each JOURNAL_COMPACT that waits
  damaged   : Bool
  badBlocks : BitVec 16
  fw0       : FwSlot
  fw1       : FwSlot
  preferred : Nat
  running   : Option Nat
  minSvn    : Nat
  measured  : Bytes                   -- chain of R716
  hdrDigest : Bytes
  slotState : Nat                     -- the running slot's state at the start, 2 or 3
  staging   : Option Staging
  committed : Bool                    -- a base has been committed since the start
  ops       : Nat := 0                -- operations of the store, which tell their failures apart, R688
  deriving DecidableEq, Repr

/-- Firmware recovery (R753, R754). -/
structure Recovery where
  control : Word
  status  : Word
  serving : Bool
  outcome : Code
  target  : Option (Nat × FwSlot)
  deriving DecidableEq, Repr

/-- A LOOPBACK in progress (R407, R735). -/
structure LoopRun where
  seq  : Nat
  site : Nat
  mask : Nat
  deriving DecidableEq, Repr

/-- A PARTITION_SET accepted and waiting (R414). -/
structure PendingPartition where
  seq   : Nat
  masks : List (BitVec 128)
  affected : List Nat
  deriving DecidableEq, Repr

/-- The bytes of both tiers: the written cells in canonical form, and the pieces of 64 KiB whose other bytes are
unspecified (firmware objects, R359, and saved core state, R437, lie in them), each with its place among the free
values. A byte in neither reads zero (R759). -/
structure Memory where
  cells   : List Host.Cell
  smudged : List (Nat × Nat)
  deriving DecidableEq, Repr

/-- A change of memory issued within a step: one byte; a range filled with zeros (R361); a piece of 64 KiB whose bytes become
unspecified. -/
inductive MemOp where
  | byte (addr : Nat) (value : Byte)
  | zero (lo : Nat) (length : Nat)
  | smudge (lo : Nat) (place : Nat)
  deriving DecidableEq, Repr

/-- The whole module. -/
structure State where
  pending   : List Instr              -- commands waiting, first in first out
  mem       : Memory                  -- physical bytes of both tiers
  heat      : Heat
  wr        : List MemOp              -- changes issued within the step, newest first; empty between steps
  part      : Part
  phase     : Phase
  pins      : Pins
  split     : Nat
  cores     : List Core
  exps      : List Expander
  sites     : List Site
  pkgs      : List Package
  retired   : List Nat                -- physical bases of retired pages (2 MiB units)
  maps      : List Mapping
  nextMap   : Nat
  unmaps    : List PendingUnmap
  pageMoves : List PendingPage
  fwPages   : List Nat                -- stack pages that hold the firmware's objects (R758)
  partitions : List (BitVec 128)
  partWait  : Option PendingPartition
  turns     : List Turn
  ctxs      : List Ctx
  ctxEpochs : List (Nat × Word)       -- role epoch of each context number ever used, R456
  waiters   : List Waiter
  stale     : Word                    -- WSS_STALE
  entries   : List Entry
  buildSeqs : List (Nat × Word)       -- per context number, R472
  seqs      : List Sequence
  nextSeq   : Nat
  jobs      : List Job
  nextJob   : Nat
  held      : List Held
  hostReads : List HostRead
  nextTag   : Nat
  ports     : List Port
  own       : Ownership
  ccx       : Ccx
  fab       : Fabric
  plt       : Plt
  store     : Store
  rcv       : Recovery
  loop      : Option LoopRun
  out       : List Output
  free      : Nat                     -- count of free values taken
  ord       : Nat                     -- count of events that begin something, for the orders of R432
  deriving DecidableEq, Repr

/-! ### Reset values -/

/-- A core at reset: CORE_INFO reads MODE 0, BUSY 0, CTX 0x3FF (Table 2 of 03); fuses as log entry 6 says. -/
def Core.reset (present : Bool) : Core :=
  { present := present, withdrawn := false, fusedMax := 0, curMax := 0, nextMax := none, nextOff := false, mode := 0,
    busy := false, ctx := 0x3FF, ecc := 0, epoch := 0, freqKhz := 600000, changeStall := false }

def Expander.reset (present : Bool) : Expander :=
  { present := present, tables := [], factors := [], eccCorr := 0, epoch := 0 }

def Site.reset (present : Bool) : Site :=
  { present := present, temp := 0, refresh := 0, corrected := [], rowReads := [], used := [] }

def Segment.reset : Segment :=
  { baseLo := 0, baseHi := 0, base := 0, armedCtx := 0, armedWrite := false, valid := false, write := false,
    refused := false, ctx := 0 }

/-- A slot of zeros (R504). -/
def Slot.zero : Bytes := List.replicate 256 0

/-- A host port at reset (Tables 5 to 8 of 11). -/
def Port.reset (present : Bool) : Port :=
  { present := present, linkUp := false, speed := 0, width := 0, flit := false, frozen := false, cause := 0,
    freezeAddr := 0, events := 0, eventEn := 0, discards := 0, malformed := 0, epoch := 0,
    segs := List.replicate 16 Segment.reset, windows := [], msix := [], pba := [],
    mgmt := List.replicate 8 Slot.zero, boxes := [], latches := [], perstOff := false }

def FabPort.reset (present : Bool) : FabPort :=
  { present := present, mode := 0, breakout := 0, media := 0, vlan := false, vid := 0, pcp := 0, prbs := 0,
    staged := none, armed := none }

def Subport.reset : Subport :=
  { up := false, training := false, fecLock := false, encap := false, noLldp := false, ipv6 := 0, nextHop := 0,
    badRun := 0, counters := List.replicate 27 0 }

/-- The duties at a start: all 64 (R671, R675). -/
def Heat.reset : Heat :=
  { dp := 64, sinceRise := 10, sample := 0, energyNj := 0, dj := List.replicate 128 64, djFailed := [],
    df := List.replicate 4 64, dfFailed := [], hotFields := [], coolantFailed := false,
    coreTemp := List.replicate 128 0, stopped := false }

def Ccx.reset : Ccx :=
  { halted := false, haltCode := 0, service := false, heartbeat := 0, takeSeq := 1, msgs := [], dbgCode := 0,
    dbgApplied := 0, dbgWaiting := [] }

/-- Table 4 of 12, "until first set". -/
def FabGlobal.reset : FabGlobal :=
  { device := none, etherType := 0x88B5, udpPort := 49511, hopLimit := 64, dscp := 0, maxPayload := 8192 }

/-- The fabric engine at reset: every port disabled (R588). -/
def Fabric.reset : Fabric :=
  { glob := FabGlobal.reset, groups := List.replicate 6 FabGlobal.reset, macBase := 0x020000000000,
    ports := List.replicate 24 (FabPort.reset true), subs := List.replicate 192 Subport.reset, anchors := [],
    ownChain := [], peers := [], admits := [], pending := [], removing := [], lanes := List.replicate 192 (false, 0) }

/-- The platform unit at reset: the cap 3,000 W (R667), no declaration (BOARD_W 1,200 W, R750). -/
def Plt.reset : Plt :=
  { capW := 3000, classLimit := 0, boardW := 1200, capInForce := 1200, policyWait := [], idleW := 1100, inputUj := 0,
    ctxUj := [], destroyed := [], energySeq := 0, exceeded := 0, hours := 0, lastMeanW := 0, boardReg := 0,
    coolantReg := 0, coolantVal := 0, coolantFresh := false, coolantStale := 0, coolantEver := false, coolantWait := 0, sbSeen := 0,
    bistDone := false, noBase := false, sitesFailed := 0, quadsFailed := 0, coresFailed := 0, pkgsFailed := 0,
    fabsFailed := 0 }

def FwSlot.empty : FwSlot :=
  { state := .empty, tries := 0, header := [], digest := [], version := 0, svn := 0, valid := false }

/-- The header of the image as shipped (Table 6 of 15): its VERSION, digest, key and signature are the release's. Log
entry 6. -/
def shippedHeader : Bytes :=
  leBytes 4 1 ++ leBytes 4 Config.shippedVersion.toNat ++ leBytes 4 0 ++ leBytes 4 4096 ++ leBytes 1 7 ++ zeros 15 ++
    sliceBytes Config.shippedDigest 0 32 ++ sliceBytes Config.shippedKey 0 64 ++ sliceBytes Config.shippedSignature 0 64 ++
    zeros 64

/-- Slot 0 as shipped: one valid image, GOOD, whose header gives its VERSION (R761). Log entry 6. -/
def FwSlot.shipped : FwSlot :=
  { state := .good, tries := 0, header := shippedHeader, digest := sliceBytes Config.shippedDigest 0 32,
    version := Config.shippedVersion, svn := 0, valid := true }

/-- The store as manufactured: a base of generation 1 in area 0 (R697), slot 0 GOOD and PREFERRED (R761). -/
def Store.shipped : Store :=
  { journal := [], unerased := 0, written := 0, base := some { gen := 1, lastSeq := 0, image := [] }, area := 0, lastSeq := 0,
    chain := [], sinceCp := 0, compacting := false, compactS := 0, compactWait := [], damaged := false,
    badBlocks := 0, fw0 := FwSlot.shipped, fw1 := FwSlot.empty, preferred := 0, running := none, minSvn := 0,
    measured := [], hdrDigest := [], slotState := 0, staging := none, committed := false }

/-- The module right after the release of a fundamental reset of a module as shipped: nothing has started, every
register stands at its reset value, and the next event of its life is MODULE_START. Log entry 1. -/
def State.reset : State :=
  { pending := [], mem := { cells := [], smudged := [] }, heat := Heat.reset, wr := [], part := .f, phase := .inReset,
    pins := { pwrOk := true, resetSeen := false, thermTrip := false }, split := 0,
    cores := List.replicate 128 (Core.reset true), exps := List.replicate 32 (Expander.reset true),
    sites := List.replicate 8 (Site.reset true),
    pkgs := List.replicate 32 { present := true, temp := 0 },
    retired := [], maps := [], nextMap := 0, unmaps := [], pageMoves := [], fwPages := [],
    partitions := [], partWait := none, turns := [], ctxs := [], ctxEpochs := [], waiters := [], stale := 0,
    entries := [], buildSeqs := [], seqs := [], nextSeq := 1, jobs := [], nextJob := 0, held := [], hostReads := [],
    nextTag := 0, ports := List.replicate 4 (Port.reset false),
    own := { owner := none, electing := false, claims := [], offer := none }, ccx := Ccx.reset, fab := Fabric.reset,
    plt := Plt.reset, store := Store.shipped,
    rcv := { control := 0, status := 0, serving := false, outcome := 0, target := none }, loop := none, out := [],
    free := 0, ord := 0 }

end Sys2Proof.Machine
end

