-- ==== Sys2Proof/Machine/Ops.lean ====
section
/-! DEFINITION. The named operations: bytes of memory, device virtual addresses, contexts and ports, free values and
choices, what the module sends, and the shells that end a step. -/
namespace Sys2Proof.Machine

open Sys2Proof

/-! ### Bytes of memory (08) -/

/-- Bytes of a 2 MiB page. -/
def bigPage : Nat := 2 ^ 21

/-- Bytes of a 64 KiB bulk page. -/
def smallPage : Nat := 2 ^ 16

/-- Physical address of byte `o` of stack site `site`; the numbering over sites is log entry 9. -/
def stackAddr (site o : Nat) : Nat := site * 2 ^ 36 + o

/-- Physical address of byte `o` of bulk package `b`. Log entry 9. -/
def bulkAddr (b o : Nat) : Nat := 2 ^ 40 + b * 2 ^ 36 + o

/-- What an unlisted byte reads as: zero (R759), or an unspecified byte in a page the firmware has written. Log
entry 10. -/
def Memory.blank (m : Memory) (a : Nat) : Byte :=
  match m.smudged.find? fun p => decide (p.1 ≤ a) && decide (a < p.1 + smallPage) with
  | some p => Config.freeByte (p.2 + (a - p.1))
  | none => 0

/-- The listed byte at an address. -/
def cellsGet : List Host.Cell → Nat → Option Byte
  | [], _ => none
  | (k, v) :: cs, a => if k = a then some v else cellsGet cs a

/-- The cells with the byte at `a` set to `b`, where an unlisted byte reads `d`. -/
def cellsPut (d : Byte) : List Host.Cell → Nat → Byte → List Host.Cell
  | [], a, b => if b = d then [] else [(a, b)]
  | (k, v) :: cs, a, b =>
    if a < k then (if b = d then (k, v) :: cs else (a, b) :: (k, v) :: cs)
    else if a = k then (if b = d then cs else (a, b) :: cs)
    else (k, v) :: cellsPut d cs a b

/-- The cells outside a range. -/
def cellsOutside (lo n : Nat) (cs : List Host.Cell) : List Host.Cell :=
  cs.filter fun c => !(decide (lo ≤ c.1) && decide (c.1 < lo + n))

/-- The byte of memory at a physical address. -/
def Memory.get (m : Memory) (a : Nat) : Byte := (cellsGet m.cells a).getD (m.blank a)

/-- One change of memory carried out. -/
def Memory.apply (m : Memory) : MemOp → Memory
  | .byte a b => { m with cells := cellsPut (m.blank a) m.cells a b }
  | .zero lo n =>
    { cells := cellsOutside lo n m.cells,
      smudged := m.smudged.filter fun p => !(decide (lo ≤ p.1) && decide (p.1 + smallPage ≤ lo + n)) }
  | .smudge lo k =>
    { cells := cellsOutside lo smallPage m.cells,
      smudged := (lo, k) :: m.smudged.filter fun p => decide (p.1 ≠ lo) }

/-- The changes of a step carried out, the oldest first. -/
def Memory.writeAll (m : Memory) : List MemOp → Memory
  | [] => m
  | op :: ops => (Memory.writeAll m ops).apply op

/-- Addresses strictly rising. -/
def cellsSorted : List Host.Cell → Bool
  | [] => true
  | [_] => true
  | (a, _) :: (b, v) :: cs => decide (a < b) && cellsSorted ((b, v) :: cs)

/-- The canonical form: addresses strictly rising, and no entry equal to what the address reads as unlisted. -/
def Memory.wf (m : Memory) : Bool := cellsSorted m.cells && m.cells.all fun c => c.2 != m.blank c.1

/-- A byte among the changes not yet carried out, the newest first. -/
def pendingByte : List MemOp → Nat → Option Byte
  | [], _ => none
  | .byte k v :: ops, a => if k = a then some v else pendingByte ops a
  | .zero lo n :: ops, a => if lo ≤ a ∧ a < lo + n then some 0 else pendingByte ops a
  | .smudge lo k :: ops, a =>
    if lo ≤ a ∧ a < lo + smallPage then some (Config.freeByte (k + (a - lo))) else pendingByte ops a

/-- The byte at a physical address, as every change issued so far left it. -/
def State.loadByte (s : State) (a : Nat) : Byte := (pendingByte s.wr a).getD (s.mem.get a)

/-- A byte written at a physical address. -/
def State.storeByte (s : State) (a : Nat) (b : Byte) : State := { s with wr := .byte a b :: s.wr }

/-- `n` bytes from a physical address. -/
def State.loadBytes (s : State) (a n : Nat) : Bytes := (List.range n).map fun i => s.loadByte (a + i)

/-- A run written at a physical address. -/
def State.storeBytes (s : State) : Nat → Bytes → State
  | _, [] => s
  | a, b :: bs => State.storeBytes (s.storeByte a b) (a + 1) bs

/-! ### Free values and choices -/

/-- A run of `n` unspecified bytes written from a physical address (R24, R41, R376, R449). Log entry 3. -/
def State.scramble (s : State) (a n : Nat) : State :=
  { s.storeBytes a ((List.range n).map fun i => Config.freeByte (s.free + i)) with free := s.free + n }

/-- One of `n` allowed choices (log entry 4); the only candidate when there is one. -/
def State.choose (s : State) (n : Nat) : Nat × State :=
  if n ≤ 1 then (0, s) else (Config.choice s.free % n, { s with free := s.free + 1 })

/-! ### Contexts -/

/-- The context of a number. -/
def State.ctx? (s : State) (n : Nat) : Option Ctx := s.ctxs.find? fun c => c.num == n

/-- A context changed. -/
def State.updCtx (s : State) (n : Nat) (f : Ctx → Ctx) : State :=
  { s with ctxs := s.ctxs.map fun c => if c.num = n then f c else c }

/-- A context number's epoch (R456); a number never used stands at 0. -/
def State.ctxEpoch (s : State) (n : Nat) : Word :=
  match s.ctxEpochs.find? fun p => p.1 == n with
  | some p => p.2
  | none => 0

/-- A context number's epoch raised (R456). -/
def State.raiseCtxEpoch (s : State) (n : Nat) : State :=
  { s with ctxEpochs := (n, s.ctxEpoch n + 1) :: s.ctxEpochs.filter fun p => p.1 != n }

/-- A context that is neither CLOSING nor DEAD (R757). -/
def Ctx.live (c : Ctx) : Bool := c.state != .closing && c.state != .dead

/-- The context of a number when it is live. -/
def State.liveCtx? (s : State) (n : Nat) : Option Ctx := (s.ctx? n).filter Ctx.live

/-- Whether a port holds a grant of a context (R421). -/
def Ctx.granted (c : Ctx) (p : Nat) : Bool := c.grants.any fun g => g.1 == p

/-! ### Device virtual addresses (R356 to R358) -/

/-- The mapping of a context that holds an address. -/
def State.mapping? (s : State) (ctx va : Nat) : Option Mapping :=
  s.maps.find? fun m => m.ctx == ctx && decide (m.base ≤ va) && decide (va < m.base + m.length)

/-- The physical address of a device virtual address in a mapping. -/
def Mapping.phys (m : Mapping) (va : Nat) : Nat :=
  m.pages.getD ((va - m.base) / m.psize) 0 + (va - m.base) % m.psize

/-- Whether an access to one byte is allowed, and where it lands (R357, R358). -/
def State.translate (s : State) (ctx va : Nat) (write : Bool) : Except Code Nat :=
  match s.mapping? ctx va with
  | none => .error Err.addrNotMapped
  | some m => if write && m.readOnly then .error Err.addrReadOnly else .ok (m.phys va)

/-- The first byte of a range that may not be accessed, with its code (R358). Whole mappings are stepped over, so the
range's length does not matter; `fuel` bounds the mappings met. -/
def State.rangeFault (s : State) (ctx : Nat) (write : Bool) : Nat → Nat → Nat → Option (Code × Nat)
  | _, _, 0 => none
  | 0, va, _ => some (Err.addrNotMapped, va)
  | fuel + 1, va, n =>
    match s.mapping? ctx va with
    | none => some (Err.addrNotMapped, va)
    | some m =>
      if write && m.readOnly then some (Err.addrReadOnly, va)
      else
        let room := m.base + m.length - va
        if n ≤ room then none else s.rangeFault ctx write fuel (va + room) (n - room)

/-- The first fault of an access to `n` bytes, none when it is allowed. -/
def State.accessFault (s : State) (ctx va n : Nat) (write : Bool) : Option (Code × Nat) :=
  s.rangeFault ctx write (s.maps.length + 1) va n

/-- Whether every byte of a range is mapped. -/
def State.mapped (s : State) (ctx va n : Nat) : Bool := (s.accessFault ctx va n false).isNone

/-- The physical address of a byte known to be mapped. -/
def State.physOf (s : State) (ctx va : Nat) : Nat :=
  match s.translate ctx va false with
  | .ok a => a
  | .error _ => 0

/-- `n` bytes read through a context's mappings, or the first fault. -/
def State.vread (s : State) (ctx va n : Nat) : Except (Code × Nat) Bytes :=
  match s.accessFault ctx va n false with
  | some f => .error f
  | none => .ok ((List.range n).map fun i => s.loadByte (s.physOf ctx (va + i)))

/-- A run stored byte by byte at addresses already checked. -/
def State.vstore (s : State) (ctx : Nat) : Nat → Bytes → State
  | _, [] => s
  | va, b :: bs => State.vstore (s.storeByte (s.physOf ctx va) b) ctx (va + 1) bs

/-- A run written through a context's mappings, or the first fault; a write that faults writes nothing. -/
def State.vwrite (s : State) (ctx va : Nat) (bs : Bytes) : Except (Code × Nat) State :=
  match s.accessFault ctx va bs.length true with
  | some f => .error f
  | none => .ok (s.vstore ctx va bs)

/-- The physical runs of a virtual range, cut at page ends; `fuel` bounds the pages. -/
def State.physRuns (s : State) (ctx : Nat) : Nat → Nat → Nat → List (Nat × Nat)
  | 0, _, _ => []
  | fuel + 1, va, n =>
    if n = 0 then []
    else
      match s.mapping? ctx va with
      | none => []
      | some m =>
        let room := m.psize - (va - m.base) % m.psize
        if n ≤ room then [(m.phys va, n)]
        else (m.phys va, room) :: s.physRuns ctx fuel (va + room) (n - room)

/-- A virtual range whose bytes become unspecified, where they may be written (R41, R391). -/
def State.scrambleVa (s : State) (ctx va n : Nat) : State :=
  (List.range n).foldl (fun t i =>
    match s.translate ctx (va + i) true with
    | .ok a => t.scramble a 1
    | .error _ => t) s

/-! ### Ports and what the module sends (11) -/

/-- A host port. -/
def State.port (s : State) (p : Nat) : Port := s.ports.getD p (Port.reset false)

/-- A host port changed. -/
def State.updPort (s : State) (p : Nat) (f : Port → Port) : State := { s with ports := s.ports.modify p f }

/-- Something sent. -/
def State.emit (s : State) (o : Output) : State := { s with out := s.out ++ [o] }

/-- An MSI-X table entry; an entry never written is masked, as PCI Express resets it. Log entry 11. -/
def Port.msixEntry (q : Port) (v : Nat) : MsixEntry :=
  (q.msix.find? fun e => e.vector == v).getD { vector := v, addrLo := 0, addrHi := 0, data := 0, control := 1 }

/-- A vector is masked, by its own bit or by the function's (R543). -/
def Port.vectorMasked (q : Port) (v : Nat) : Bool := q.cfg.msixMask || (q.msixEntry v).control.getLsbD 0

/-- A vector sent, or its pending bit set while it is masked (R543); nothing goes toward a frozen port or one whose
link is down (R503, R573), nor while the host has not enabled MSI-X. -/
def State.sendVector (s : State) (p v : Nat) : State :=
  let q := s.port p
  if !q.present || !q.linkUp || q.frozen || !q.cfg.msixOn then s
  else if q.vectorMasked v then
    s.updPort p fun q => { q with pba := if q.pba.contains v then q.pba else q.pba ++ [v] }
  else s.emit (.msix p v)

/-- A context's vector on its home port (R450, R476, R518); a DEAD context has none (R446). -/
def State.sendCtxVector (s : State) (n : Nat) : State :=
  match s.ctx? n with
  | some c => if c.state = .dead then s else s.sendVector c.home c.vector
  | none => s

/-- An event bit set on one port, with vector 0 when it rises enabled (R542). -/
def State.portEvent (s : State) (p bit : Nat) : State :=
  let q := s.port p
  if !q.present || !q.linkUp || q.events.getLsbD bit then s
  else
    let s1 := s.updPort p fun q => { q with events := q.events ||| BitVec.twoPow 5 bit }
    if q.eventEn.getLsbD bit then s1.sendVector p 0 else s1

/-- An event bit set on every present port whose link is up (R542). -/
def State.allEvent (s : State) (bit : Nat) : State :=
  (List.range 4).foldl (fun t p => t.portEvent p bit) s

/-- Bits of HPC_EVENTS (Table 7 of 11). -/
def evOwnerChanged : Nat := 0
def evElectionOpen : Nat := 1
def evOffered : Nat := 2
def evPeerFrozen : Nat := 3
def evThawed : Nat := 4

/-- A write of a port discarded and counted (R537). -/
def State.discard (s : State) (p : Nat) : State :=
  s.updPort p fun q => { q with discards := satInc q.discards 1 }

/-! ### Standing conditions -/

/-- The module has started, its firmware runs and is not halted (R485). -/
def State.running (s : State) : Bool := s.phase == .ready && !s.ccx.halted

/-- The host ports serve their windows: the module is ready, or its start has ended in a halt (R725). Log entry 49. -/
def State.hostsServed (s : State) : Bool := s.phase == .ready || s.phase == .startHalted

/-- A port whose requests reach the module: present, with its link up (R536). -/
def Port.reaches (q : Port) : Bool := q.present && q.linkUp

/-- Whether a port answers transfers toward its windows (R386). -/
def Port.answers (q : Port) : Bool := q.reaches && !q.frozen

/-- The part has a fabric (Table 2 of 00). -/
def State.hasFabric (s : State) : Bool := s.part == .f

/-- The part has expanders (Table 2 of 00). -/
def State.hasExpanders (s : State) : Bool := s.part != .l

/-- The control complex halted with a code (R485). A halt that stands keeps its code. -/
def State.haltCcx (s : State) (code : Code) : State :=
  if s.ccx.halted then s else { s with ccx := { s.ccx with halted := true, haltCode := code } }

/-- The next event ordinal. -/
def State.tick (s : State) : State := { s with ord := s.ord + 1 }

/-! ### The shells that end a step -/

/-- A step's state: the changes of memory are carried out, and neither the queue nor the duties move. -/
def done (s t : State) : Host.Outcome State Fault Refusal :=
  .next { t with mem := s.mem.writeAll t.wr, wr := [], pending := s.pending, heat := s.heat }

/-- The same for the events that change the duties (14). -/
def doneHeat (s t : State) : Host.Outcome State Fault Refusal :=
  .next { t with mem := s.mem.writeAll t.wr, wr := [], pending := s.pending }

/-- The same for the events that lose every state but the store (R747): memory starts again from zeros (R759). -/
def doneReset (s t : State) : Host.Outcome State Fault Refusal :=
  .next { t with mem := { cells := [], smudged := [] }, wr := [], pending := s.pending }

end Sys2Proof.Machine
end

