-- ==== Sys2Proof/Machine/Fp.lean ====
section
/-! DEFINITION. Number formats and their one rounding (02_number_formats.md, R48 to R51, R74 to R78). A value is
exact: a NaN, an infinity, or sign, integer and power of two; nothing rounds but `roundMag`. -/
namespace Sys2Proof.Machine

open Sys2Proof

/-- An exact value of any format: `fin neg m e` is (-1)^neg x m x 2^e, with a signed zero when m is 0. -/
inductive Val where
  | nan
  | inf (neg : Bool)
  | fin (neg : Bool) (m : Nat) (e : Int)
  deriving DecidableEq, Repr

/-- How a format encodes its specials (Table 2 of 02). -/
inductive Specials where
  | ieee    -- infinity with M = 0, NaN with M not 0, E all ones
  | e4m3    -- NaN in the all-ones pattern only
  | none
  deriving DecidableEq, Repr

/-- An element encoding of Table 2 of 02. -/
structure Fmt where
  ebits : Nat
  mbits : Nat
  bias  : Nat
  spec  : Specials
  nan   : Nat          -- the pattern written, R49
  deriving DecidableEq, Repr

def fp32 : Fmt := { ebits := 8, mbits := 23, bias := 127, spec := .ieee, nan := 0x7FC00000 }
def bf16 : Fmt := { ebits := 8, mbits := 7, bias := 127, spec := .ieee, nan := 0x7FC0 }
def fp16 : Fmt := { ebits := 5, mbits := 10, bias := 15, spec := .ieee, nan := 0x7E00 }
def e4m3 : Fmt := { ebits := 4, mbits := 3, bias := 7, spec := .e4m3, nan := 0x7F }
def e5m2 : Fmt := { ebits := 5, mbits := 2, bias := 15, spec := .ieee, nan := 0x7E }
def e2m3 : Fmt := { ebits := 2, mbits := 3, bias := 1, spec := .none, nan := 0 }
def e3m2 : Fmt := { ebits := 3, mbits := 2, bias := 3, spec := .none, nan := 0 }
def e2m1 : Fmt := { ebits := 2, mbits := 1, bias := 1, spec := .none, nan := 0 }

namespace Fmt

/-- Bits of an element. -/
def width (f : Fmt) : Nat := 1 + f.ebits + f.mbits

/-- Magnitude bits of the largest finite value (Table 2 of 02). -/
def maxFinite (f : Fmt) : Nat :=
  match f.spec with
  | .ieee => (2 ^ f.ebits - 1) * 2 ^ f.mbits - 1
  | .e4m3 => 2 ^ (f.ebits + f.mbits) - 2
  | .none => 2 ^ (f.ebits + f.mbits) - 1

end Fmt

/-- The value of an element's bits (R48, R50, R51). -/
def decodeVal (f : Fmt) (bits : Nat) : Val :=
  let neg := bitOf bits (f.ebits + f.mbits)
  let mag := bits % 2 ^ (f.ebits + f.mbits)
  let ex := mag / 2 ^ f.mbits
  let man := mag % 2 ^ f.mbits
  if f.spec = .ieee ∧ ex = 2 ^ f.ebits - 1 then
    if man = 0 then .inf neg else .nan
  else if f.spec = .e4m3 ∧ mag = 2 ^ (f.ebits + f.mbits) - 1 then .nan
  else if ex = 0 then .fin neg man (1 - (f.bias : Int) - f.mbits)
  else .fin neg (2 ^ f.mbits + man) ((ex : Int) - f.bias - f.mbits)

/-- The one rounding: the magnitude bits, unbounded above, of m x 2^e to the format, to nearest with ties to even
(R74). `sticky` says that the exact value lies strictly between m x 2^e and (m + 1) x 2^e; m must then hold at least
two bits more than the format keeps. -/
def roundMag (f : Fmt) (m : Nat) (e : Int) (sticky : Bool) : Nat :=
  if m = 0 then 0 else
  let top : Int := (Nat.log2 m : Int) + e
  let q : Int := max top (1 - (f.bias : Int)) - f.mbits
  let sh : Int := q - e
  let sig : Nat :=
    if sh ≤ 0 then m * 2 ^ (-sh).toNat
    else
      let k := sh.toNat
      let lo := m % 2 ^ k
      let half := 2 ^ (k - 1)
      let fl := m / 2 ^ k
      if lo > half ∨ (lo = half ∧ (sticky ∨ fl % 2 = 1)) then fl + 1 else fl
  ((q + f.mbits + f.bias - 1) * (2 ^ f.mbits : Nat) + sig).toNat

/-- Sign and magnitude put together. -/
def withSign (f : Fmt) (neg : Bool) (mag : Nat) : Nat := if neg then 2 ^ (f.ebits + f.mbits) + mag else mag

/-- What an overflow of a conversion writes (R75, R77, R78). -/
inductive Overflow where
  | infinity      -- BF16, FP16, FP32
  | saturate      -- the default form of FP8 and MX elements
  | nonSat        -- the flagged form: E4M3 to NaN, E5M2 to infinity, the small formats saturate
  deriving DecidableEq, Repr

/-- The bits of the format's infinity or of what stands for it under an overflow rule. -/
def overflowBits (f : Fmt) (o : Overflow) : Nat :=
  match o, f.spec with
  | .infinity, _ => f.maxFinite + 1
  | .saturate, _ => f.maxFinite
  | .nonSat, .ieee => f.maxFinite + 1
  | .nonSat, .e4m3 => f.nan
  | .nonSat, .none => f.maxFinite

/-- Overflow of E4M3 without saturation is the positive NaN pattern (R49, R78); every other overflow keeps its sign. -/
def overflowSigned (f : Fmt) (o : Overflow) (neg : Bool) : Nat :=
  if o = .nonSat ∧ f.spec = .e4m3 then f.nan else withSign f neg (overflowBits f o)

/-- Bits of sign and a magnitude already rounded. -/
def finishBits (f : Fmt) (o : Overflow) (neg : Bool) (mag : Nat) : Nat :=
  if mag > f.maxFinite then overflowSigned f o neg else withSign f neg mag

/-- An exact value rounded once to a format (R74 to R78). -/
def encodeVal (f : Fmt) (o : Overflow) : Val → Nat
  | .nan => f.nan
  | .inf neg => overflowSigned f o neg
  | .fin neg m e => finishBits f o neg (roundMag f m e false)

/-! ### Exact operations -/

def Val.isNan : Val → Bool
  | .nan => true
  | _ => false

def Val.isZero : Val → Bool
  | .fin _ m _ => m == 0
  | _ => false

def Val.neg : Val → Val
  | .nan => .nan
  | .inf s => .inf (!s)
  | .fin s m e => .fin (!s) m e

/-- Signed integer at the scale 2^e. -/
def toInt (neg : Bool) (m : Nat) : Int := if neg then -(m : Int) else m

/-- Exact product (R66); zero times infinity is NaN (R69). -/
def Val.mul : Val → Val → Val
  | .nan, _ => .nan
  | _, .nan => .nan
  | .inf s, .inf t => .inf (s != t)
  | .inf s, .fin t m _ => if m = 0 then .nan else .inf (s != t)
  | .fin t m _, .inf s => if m = 0 then .nan else .inf (s != t)
  | .fin s m e, .fin t n d => .fin (s != t) (m * n) (e + d)

/-- Exact sum under the IEEE 754 rules for infinities, NaN and signed zero (R71). -/
def Val.add : Val → Val → Val
  | .nan, _ => .nan
  | _, .nan => .nan
  | .inf s, .inf t => if s = t then .inf s else .nan
  | .inf s, .fin _ _ _ => .inf s
  | .fin _ _ _, .inf t => .inf t
  | .fin s m e, .fin t n d =>
    let lo := min e d
    let a : Int := toInt s m * (2 ^ (e - lo).toNat : Nat) + toInt t n * (2 ^ (d - lo).toNat : Nat)
    if a = 0 then .fin (if m = 0 ∧ n = 0 then s && t else false) 0 0
    else .fin (a < 0) a.natAbs lo

/-- Multiplication by a power of two. -/
def Val.scale (k : Int) : Val → Val
  | .fin s m e => .fin s m (e + k)
  | v => v

/-- A value as a comparable pair: NaN compares with nothing. Less-than of the extended reals, zeros equal. -/
def Val.lt : Val → Val → Bool
  | .nan, _ => false
  | _, .nan => false
  | .inf true, .inf true => false
  | .inf true, _ => true
  | _, .inf true => false
  | .inf false, _ => false
  | _, .inf false => true
  | .fin s m e, .fin t n d =>
    let lo := min e d
    decide (toInt s m * (2 ^ (e - lo).toNat : Nat) < toInt t n * (2 ^ (d - lo).toNat : Nat))

/-- Sign of a value, true for negative. -/
def Val.sign : Val → Bool
  | .nan => false
  | .inf s => s
  | .fin s _ _ => s

/-- The larger value, +0 above -0, NaN if either is NaN (R179, R216). -/
def Val.max (a b : Val) : Val :=
  if a.isNan || b.isNan then .nan
  else if Val.lt a b then b
  else if Val.lt b a then a
  else if a.sign then b else a

/-! ### FP32 words -/

/-- The exact value of an FP32 word. -/
def Word.val (w : Word) : Val := decodeVal fp32 w.toNat

/-- An exact value rounded once to FP32. -/
def rnd32 (v : Val) : Word := BitVec.ofNat 32 (encodeVal fp32 .infinity v)

/-- FP32 from sign, integer, exponent and sticky. -/
def rndSticky32 (neg : Bool) (m : Nat) (e : Int) (sticky : Bool) : Word :=
  BitVec.ofNat 32 (finishBits fp32 .infinity neg (roundMag fp32 m e sticky))

def fadd (a b : Word) : Word := rnd32 (Val.add (Word.val a) (Word.val b))
def fsub (a b : Word) : Word := rnd32 (Val.add (Word.val a) (Val.neg (Word.val b)))
def fmul (a b : Word) : Word := rnd32 (Val.mul (Word.val a) (Word.val b))
def fneg (a : Word) : Word := if (Word.val a).isNan then 0x7FC00000 else a ^^^ 0x80000000
def fisNan (a : Word) : Bool := (Word.val a).isNan
def flt (a b : Word) : Bool := Val.lt (Word.val a) (Word.val b)

/-- The larger of two FP32 words, +0 above -0, NaN if either is NaN. -/
def fmax (a b : Word) : Word :=
  if fisNan a || fisNan b then 0x7FC00000
  else if flt a b then b
  else if flt b a then a
  else if (Word.val a).sign then b else a

def fzero : Word := 0
def fone : Word := 0x3F800000
def fnan : Word := 0x7FC00000
def fposInf : Word := 0x7F800000
def fnegInf : Word := 0xFF800000

/-- A natural number rounded to FP32 (R187, R219). -/
def fofNat (n : Nat) : Word := rnd32 (.fin false n 0)

/-- Positive, normal and finite: what R57 asks of a tensor scale, a factor or an epsilon. -/
def fposNormal (w : Word) : Bool := decide (0x00800000 ≤ w.toNat ∧ w.toNat < 0x7F800000)

/-- Finite. -/
def ffinite (w : Word) : Bool := decide (w.toNat % 0x80000000 < 0x7F800000)

/-- A positive quotient num / den as integer, exponent and sticky, at least 64 bits long. -/
def quotParts (num den : Nat) : Nat × Int × Bool :=
  let k := 64 + Nat.log2 den
  (num * 2 ^ k / den, -(k : Int), num * 2 ^ k % den != 0)

/-- Correctly rounded FP32 quotient (R195). -/
def fdiv (a b : Word) : Word :=
  match Word.val a, Word.val b with
  | .nan, _ => fnan
  | _, .nan => fnan
  | .inf _, .inf _ => fnan
  | .inf s, .fin t _ _ => if s != t then fnegInf else fposInf
  | .fin s _ _, .inf t => if s != t then 0x80000000 else 0
  | .fin s m e, .fin t n d =>
    if n = 0 then (if m = 0 then fnan else if s != t then fnegInf else fposInf)
    else if m = 0 then (if s != t then 0x80000000 else 0)
    else
      let (q, k, st) := quotParts m n
      rndSticky32 (s != t) q (k + e - d) st

/-- The integer square root, one bit after the other from the highest. -/
def isqrt (n : Nat) : Nat :=
  (List.range (Nat.log2 n / 2 + 1)).foldr (fun i r => if (r + 2 ^ i) * (r + 2 ^ i) ≤ n then r + 2 ^ i else r) 0

/-- 1 / sqrt(x), together correctly rounded to FP32 (R187, R195, R219). -/
def frsqrt (a : Word) : Word :=
  match Word.val a with
  | .nan => fnan
  | .inf s => if s then fnan else 0
  | .fin s m e =>
    if m = 0 then (if s then fnegInf else fposInf)
    else if s then fnan
    else
      let (m2, e2) := if e % 2 = 0 then (m, e) else (2 * m, e - 1)
      let k := 80 + Nat.log2 m2
      let q := 2 ^ (2 * k) / m2
      let r := isqrt q
      rndSticky32 false r (-(k : Int) - e2 / 2) (r * r * m2 != 2 ^ (2 * k))

end Sys2Proof.Machine
end

