-- ==== Sys2Proof/Machine/Sched.lean ====
section
/-! DEFINITION. Streams, context states, residency and turns (09, R425 to R442). -/
namespace Sys2Proof.Machine

open Sys2Proof

/-- The stream a command belongs to (Table 4 of 09). -/
inductive Stream where
  | core | transfer | join | neither
  deriving DecidableEq, Repr

/-- Stream of an opcode (Table 4 of 09, Table 9 of 10). -/
def streamOf (op : Byte) : Stream :=
  match op.toNat with
  | 1 | 2 | 3 | 4 | 10 => .core
  | 5 | 6 | 7 | 8 | 9 => .transfer
  | 11 | 12 | 14 => .join
  | _ => .neither

/-- Device virtual address of command `i` of a list (R507). -/
def CmdList.place (l : CmdList) (i : Word) : Nat := l.base + i.toNat % l.cap * 128

/-- OPCODE byte of the next command, none when its place is not mapped. -/
def State.nextOpcode (s : State) (c : Nat) (l : CmdList) : Option Byte :=
  match s.accessFault c (l.place l.next) 128 false with
  | some _ => none
  | none => some (s.loadByte (s.physOf c (l.place l.next)))

/-- A later command of the context is held: an unmap waits (R365). -/
def State.ctxHeld (s : State) (c : Nat) : Bool := s.unmaps.any fun u => u.affected.contains c

/-- A later core command of the context is held: a PARTITION_SET waits (R414). -/
def State.coreHeld (s : State) (c : Nat) : Bool :=
  match s.partWait with
  | some p => p.affected.contains c
  | none => false

/-- A begun command that runs: neither pre-empted nor waiting. -/
def Begun.live (b : Begun) : Bool := !b.preempted && !b.waiting

/-- A begun command whose wait blocks its context: a SEM_WAIT (R428), or the wait of a BUILD or an ENCODE (R332). The wait
of R333 holds its own stream only. -/
def Begun.blocks (b : Begun) : Bool :=
  b.waiting && (b.opcode == 12 || (b.opcode == 7 && decide ((byteAt b.desc 16).toNat ≤ 1)))

/-- The next command may begin, the turn and the holds of R365 and R414 apart (R427 to R429). -/
def State.couldBegin (s : State) (c : Ctx) : Bool :=
  match c.list with
  | none => false
  | some l =>
    l.next != l.stop && !(c.begun.any Begun.blocks) &&
      match s.nextOpcode c.num l with
      | none => true
      | some op =>
        match streamOf op with
        | .core => !(c.begun.any fun b => b.core)
        | .transfer => !(c.begun.any fun b => b.transfer)
        | .join => op == 12 || l.done == l.next
        | .neither => true

/-- The next command of a context is of the core stream. -/
def State.nextIsCore (s : State) (c : Ctx) : Bool :=
  match c.list with
  | none => false
  | some l => (s.nextOpcode c.num l).any fun op => streamOf op == .core

/-- The next command may begin, the turn apart (R365, R414, R427 to R429). -/
def State.canBegin (s : State) (c : Ctx) : Bool :=
  s.couldBegin c && !s.ctxHeld c.num && !(s.coreHeld c.num && s.nextIsCore c)

/-- The list stands at its end. -/
def Ctx.atEnd (c : Ctx) : Bool :=
  match c.list with
  | none => true
  | some l => l.next == l.stop

/-- The state a context's commands give it (Table 3 of 09); READY stands for both READY and RUNNING. A command that only a
message holds makes its context READY (R511), and a context keeps its turn while its core command runs. Log entry 12. -/
def State.wish (s : State) (c : Ctx) : CtxState :=
  if c.begun.any fun b => b.blocks && !b.preempted then .blocked
  else if s.couldBegin c then .ready
  else if c.begun.any fun b => b.preempted then .ready
  else if c.atEnd then (if c.begun.isEmpty then .idle else .blocked)
  else if c.state = .running ∧ (c.begun.any fun b => b.core && b.live) = true then .ready
  else .blocked

/-- The states that follow a context's commands; PAUSED, HALTED, CLOSING and DEAD do not. -/
def CtxState.ordinary : CtxState → Bool
  | .idle => true
  | .ready => true
  | .running => true
  | .blocked => true
  | _ => false

/-- The slow-down ratio in FP32 (R453). -/
def slowdownRatio (busy intf : Nat) : Word :=
  if busy = 0 then fone
  else if busy ≤ intf then fposInf
  else
    let (q, k, st) := quotParts busy (busy - intf)
    rndSticky32 false q k st

/-- Interference cycles added per other context. -/
def addOthers (a b : List (Nat × Nat)) : List (Nat × Nat) :=
  b.foldl (fun acc p =>
    if (acc.any fun q => q.1 == p.1) = true then (acc.map fun q => if q.1 = p.1 then (q.1, q.2 + p.2) else q)
    else acc ++ [p]) a

/-- The context of most interference, the lower number winning ties, 0xFFFF_FFFF for none (R453). -/
def topOther (l : List (Nat × Nat)) : Word :=
  match l.foldl (fun best p =>
      match best with
      | none => if p.2 = 0 then none else some p
      | some q => if p.2 > q.2 ∨ (p.2 = q.2 ∧ p.1 < q.1) then some p else some q) (none : Option (Nat × Nat)) with
  | none => 0xFFFFFFFF
  | some q => BitVec.ofNat 32 q.1

/-- The figures of the last finished turn (R453). -/
def Ctx.figures (c : Ctx) : Ctx :=
  { c with slowdown := slowdownRatio c.lastBusy c.lastIntf, topOther := Machine.topOther c.lastOthers }

/-- A turn ends: its figures become those of the last finished one (R451, R453). -/
def Ctx.endTurn (c : Ctx) : Ctx :=
  ({ c with lastBusy := c.turnBusy, lastIntf := c.turnIntf, lastOthers := c.turnOthers, turnBusy := 0, turnIntf := 0,
            turnOthers := [], turnNo := c.turnNo + 1 } : Ctx).figures

/-- The cycles of a command that began in a turn: they count in that turn, the running one or the last finished. Log entry
4. -/
def Ctx.charge (c : Ctx) (turn busy intf : Nat) (others : List (Nat × Nat)) : Ctx :=
  let x := { c with busy := c.busy + busy, interfere := c.interfere + intf }
  if turn = c.turnNo then
    { x with turnBusy := c.turnBusy + busy, turnIntf := c.turnIntf + intf, turnOthers := addOthers c.turnOthers others }
  else if turn + 1 = c.turnNo then
    ({ x with lastBusy := c.lastBusy + busy, lastIntf := c.lastIntf + intf,
              lastOthers := addOthers c.lastOthers others } : Ctx).figures
  else x

/-- A turn without its holder, when the context held it. -/
def Turn.without (t : Turn) (c : Nat) (overran : Bool) : Turn :=
  if t.holder == some c then { holder := none, last := c, overran := overran } else t

/-- A turn given up by a context (R434). -/
def State.dropTurn (s : State) (c : Nat) (overran : Bool) : State :=
  if s.turns.any fun t => t.holder == some c then
    { s.updCtx c Ctx.endTurn with turns := s.turns.map fun t => t.without c overran }
  else s

/-- A context's state set, with the moment it began (R432); a context that stops RUNNING gives up its turn (R434,
R442). -/
def State.setCtxState (s : State) (c : Nat) (st : CtxState) : State :=
  match s.ctx? c with
  | none => s
  | some x =>
    if x.state = st then s
    else
      let s1 := (s.updCtx c fun x => { x with state := st, stateSince := s.ord }).tick
      if x.state = .running then s1.dropTurn c false else s1

/-- One context's state brought up to its commands. -/
def State.settleCtx (s : State) (c : Nat) : State :=
  match s.ctx? c with
  | none => s
  | some x =>
    if !x.state.ordinary then s
    else
      let w := s.wish x
      if w = .ready ∧ x.state = .running then s else s.setCtxState c w

/-- Contexts that hold a resident slot. -/
def State.residents (s : State) : List Ctx := s.ctxs.filter fun c => c.resident

/-- The context of a list whose value of `f` is least; the earlier in the list wins ties. -/
def leastBy (f : Ctx → Nat) : List Ctx → Option Ctx
  | [] => none
  | c :: cs =>
    match leastBy f cs with
    | none => some c
    | some d => if f d < f c then some d else some c

/-- The resident context R432 evicts first: BLOCKED, PAUSED or HALTED, its state begun longest ago. -/
def State.evictable (s : State) : Option Ctx :=
  leastBy (fun c => c.stateSince)
    (s.residents.filter fun c => c.state == .blocked || c.state == .paused || c.state == .halted)

/-- READY contexts without a slot, the longest waiting first (R431, R432). -/
def State.waitingForSlot (s : State) : Option Ctx :=
  leastBy (fun c => c.stateSince) (s.ctxs.filter fun c => c.state == .ready && !c.resident)

/-- Admissions of R431 and evictions of R432; `fuel` bounds them. -/
def State.giveSlots : Nat → State → State
  | 0, s => s
  | fuel + 1, s =>
    match s.waitingForSlot with
    | none => s
    | some c =>
      if s.residents.length < 64 then
        State.giveSlots fuel (s.updCtx c.num fun x => { x with resident := true })
      else
        match s.evictable with
        | none => s
        | some v =>
          State.giveSlots fuel
            ((s.updCtx v.num fun x => { x with resident := false }).updCtx c.num fun x => { x with resident := true })

/-- Every context's state and residency brought up to its commands. -/
def State.settle (s : State) : State :=
  let s1 := s.ctxs.foldl (fun t c => t.settleCtx c.num) s
  State.giveSlots s1.ctxs.length s1

/-! ### Turns (R434 to R442) -/

/-- A partition's turn. -/
def State.turn (s : State) (p : Nat) : Turn := s.turns.getD p { holder := none, last := 1023, overran := false }

/-- A partition's turn changed. -/
def State.updTurn (s : State) (p : Nat) (f : Turn → Turn) : State := { s with turns := s.turns.modify p f }

/-- Resident READY contexts of a partition, in ascending order of number. -/
def State.readyOf (s : State) (p : Nat) : List Nat :=
  (List.range 1024).filter fun n =>
    match s.ctx? n with
    | some c => c.partition == p && c.resident && c.state == .ready
    | none => false

/-- The same contexts starting after the one that held the last turn (R434). -/
def State.turnOrder (s : State) (p : Nat) : List Nat :=
  let r := s.readyOf p
  let l := (s.turn p).last
  (r.filter fun n => decide (l < n)) ++ r.filter fun n => decide (n ≤ l)

/-- The save of a context's cores is under way (R437). -/
def State.saving (s : State) (n : Nat) : Bool :=
  s.jobs.any fun j => match j.fw with
    | some w => w.work == .save n
    | none => false

/-- No core command of a context of the partition runs, and none is being saved (R436, R437). -/
def State.partitionFree (s : State) (p : Nat) : Bool :=
  !(s.ctxs.any fun c => c.partition == p && (s.saving c.num || c.begun.any fun b => b.core && b.live))

/-- The pass of R441: contexts in turn order, each with debt of at least its slice passing while another is READY; the
first that takes the turn, its debt spent on its slice (R435, log entry 13), with the debts after the passes. `fuel`
bounds the rounds. -/
def passTurns : Nat → List (Nat × Nat × Nat) → Option (Nat × List (Nat × Nat × Nat))
  | 0, _ => none
  | _, [] => none
  | _, [(n, _, sl)] => some (n, [(n, 0, sl)])
  | fuel + 1, (n, d, sl) :: rest =>
    if d < sl then some (n, (n, 0, sl) :: rest)
    else passTurns fuel (rest ++ [(n, d - sl, sl)])

/-- Enough rounds for every pass of R441. -/
def passFuel (l : List (Nat × Nat × Nat)) : Nat :=
  l.foldl (fun a x => a + x.2.1 / (max x.2.2 1) + 1) 1

end Sys2Proof.Machine
end

