-- ==== Sys2Proof/Machine/Faults.lean ====
section
/-! DEFINITION. Faults of contexts and items, halts, the first steps of a tear-down, and the freezing of ports (09,
R443 to R450; 11, R572 to R574). -/
namespace Sys2Proof.Machine

open Sys2Proof

/-- No item, in a fault record or an operand list. -/
def noItem : Nat := 0xFFFF

/-- No entry, in a fault record. -/
def noEntry : Word := 0xFFFFFFFF

/-! ### Cores and expanders -/

/-- A core's occupant set; a change of occupant raises the core's role epoch (R93, R456). -/
def Core.occupy (c : Core) (busy : Bool) (ctx : BitVec 10) (mode : BitVec 3) : Core :=
  { c with busy := busy, ctx := ctx, mode := mode,
           epoch := if c.ctx = ctx ∧ c.busy = busy then c.epoch else c.epoch + 1 }

/-- A core freed: MODE 0, BUSY 0, CTX 0x3FF (Table 2 of 03). -/
def Core.release (c : Core) : Core := c.occupy false 0x3FF 0

/-- Every core a context occupies freed. -/
def State.releaseCores (s : State) (n : Nat) : State :=
  { s with cores := s.cores.map fun c => if c.busy ∧ c.ctx = BitVec.ofNat 10 n then c.release else c }

/-- A core counts as present: fused in, not excluded at the start and not withdrawn (R4, R666). -/
def Core.here (c : Core) : Bool := c.present && !c.withdrawn

/-- Core numbers of a partition that are present (R414). -/
def State.partCores (s : State) (p : Nat) : List Nat :=
  let mask := s.partitions.getD p 0
  (List.range 128).filter fun i => mask.getLsbD i && (s.cores.getD i (Core.reset false)).here

/-- Quads that hold a core of a partition and whose expander is present (R351). -/
def State.partQuads (s : State) (p : Nat) : List Nat :=
  let cs := s.partCores p
  (List.range 32).filter fun q =>
    (cs.any fun c => c / 4 == q) && (s.exps.getD q (Expander.reset false)).present

/-- Expander requests of a context discarded: the epoch of each of its quads' expanders rises (R348, R456). -/
def State.discardExpander (s : State) (p : Nat) : State :=
  let qs := s.partQuads p
  { s with exps := s.exps.mapIdx fun i e => if qs.contains i then { e with epoch := e.epoch + 1 } else e }

/-! ### Firmware objects (R758) -/

/-- Bytes of every firmware-owned object other than save areas. -/
def State.fwBytes (s : State) : Nat :=
  (s.maps.foldl (fun a m => a + 8 * m.pages.length) 0) + (s.seqs.foldl (fun a q => a + 48 * q.hkv * q.cap) 0) +
    128 * s.entries.length

/-- The firmware's pages cut to what its objects need, after objects were freed (log entry 16). -/
def State.shrinkFw (s : State) : State := { s with fwPages := s.fwPages.take (cdiv s.fwBytes bigPage) }

/-! ### Page walks (R264, R270) -/

/-- The walk of a local command. -/
def Walk.ofCommand (c ord : Nat) : Walk → Bool
  | .local _ k o => k == c && o == ord
  | .peer _ _ _ => false

/-- The version a walk reads. -/
def Walk.version : Walk → Word
  | .local v _ _ => v
  | .peer v _ _ => v

/-- A retiring version stays while a walk is on it (R261). -/
def Sequence.trim (q : Sequence) : Sequence :=
  { q with retiring := q.retiring.filter fun v => q.walks.any fun w => w.version == v.version }

/-- Sequences with walks taken away, retiring buffers freed, and destroyed sequences gone once no walk is on them
(R262). -/
def State.dropWalks (s : State) (f : Walk → Bool) : State :=
  ({ s with seqs := (s.seqs.map fun q => { q with walks := q.walks.filter fun w => !f w }.trim).filter fun q =>
      !(q.gone && q.walks.isEmpty) } : State).shrinkFw

/-! ### Work the firmware gives the movers (R385) -/

/-- Work of the firmware's added to the movers'. -/
def State.addFwJob (s : State) (w : FwWork) (total : Nat) : State :=
  { s with nextJob := s.nextJob + 1, jobs := s.jobs ++
      [{ id := s.nextJob, ctx := 1024, index := 0, epoch := 0, kind := .fill, esize := 1, fill := 0, segs := [],
         fw := some { work := w, total := total, next := 0 } }] }

/-! ### Abandoning the begun commands of a context (Table 8 of 09, steps 1 and 2) -/

/-- The outputs of a begun command become unspecified. -/
def State.scrambleOuts (s : State) (outs : List OutRun) : State :=
  outs.foldl (fun t o => t.scramble o.addr o.length) s

/-- The chunks of a context's MOVEs not yet dealt never are; dealt ones complete and held ones stay held (R445). -/
def State.stopJobs (s : State) (n : Nat) : State :=
  let stop (j : Job) : Job := { j with segs := j.segs.map fun g => { g with next := g.total, stopped := true } }
  let keeps (j : Job) : Bool := (s.held.any fun h => h.job == j.id) || s.hostReads.any fun r => r.job == j.id
  { s with jobs := (s.jobs.map fun j => if j.ctx = n then stop j else j).filter fun j => j.ctx != n || keeps j }

/-- The cycles a context's abandoned command occupied cores, of them the interference cycles, and the context they were
waited on for: the spec counts them (R451, R453) and no completion reports them, so all three are free. Log entry 4. -/
def State.chargeAbandoned (s : State) (n turn : Nat) : State :=
  let others := (s.ctxs.filter fun c => c.num != n).map fun c => c.num
  let k := (Config.freeWord s.free).toNat
  let i := if others.isEmpty then 0 else min k (Config.freeWord (s.free + 1)).toNat
  let (j, s1) := ({ s with free := s.free + 2 } : State).choose others.length
  s1.updCtx n fun c => c.charge turn k i [(others.getD j 0, i)]

/-- The saves and restores of a context's cores given up. -/
def State.dropSaves (s : State) (n : Nat) : State :=
  { s with jobs := s.jobs.filter fun j => match j.fw with
      | some w => w.work != .save n && w.work != .restore n
      | none => true }

/-- Begun commands abandoned, semaphore waits dropped. -/
def State.abandon (s : State) (n : Nat) : State :=
  match s.ctx? n with
  | none => s
  | some c =>
    let s1 := c.begun.foldl (fun t b => (t.scrambleOuts b.outs).dropWalks (Walk.ofCommand n b.ord)) s
    let s2 := ((s1.stopJobs n).dropSaves n).releaseCores n
    let s3 := if c.begun.any fun b => !b.tensors.isEmpty then s2.discardExpander c.partition else s2
    let s4 := match c.begun.find? fun b => b.core && !b.cores.isEmpty with
      | some b => s3.chargeAbandoned n b.turn
      | none => s3
    { (s4.updCtx n fun x => { x with begun := [] }) with waiters := s4.waiters.filter fun w => w.ctx != n }

/-- A job's segments of a stopped owner stop. -/
def Job.dropOwner (n : Nat) (j : Job) : Job :=
  { j with segs := j.segs.map fun g => if g.owner = n then { g with stopped := true } else g }

/-- A held chunk of another context's command whose segment belongs to a context. -/
def State.heldFor (s : State) (n : Nat) (h : Held) : Bool :=
  s.jobs.any fun j => j.id == h.job && j.ctx != n && (j.segs[h.seg]?.any fun g => g.owner == n)

/-- No further read or write is issued for the items of a stopped context in other contexts' begun commands, so their
outputs become unspecified (R448). -/
def State.dropItems (s : State) (n : Nat) : State :=
  s.ctxs.foldl (fun t c =>
    if c.num = n then t
    else c.begun.foldl (fun u b => u.scrambleOuts (b.outs.filter fun o => o.owner == n)) t)
    { s with jobs := s.jobs.map (Job.dropOwner n), held := s.held.filter fun h => !s.heldFor n h }

/-- Every mapping made from one of the given mappings, however many shares away; `fuel` bounds the chain. -/
def State.aliasIds (s : State) : Nat → List Nat → List Nat
  | 0, ids => ids
  | fuel + 1, ids =>
    let more := (s.maps.filter fun m =>
      !ids.contains m.id && match m.source with
        | some k => ids.contains k
        | none => false).map fun m => m.id
    if more.isEmpty then ids else s.aliasIds fuel (ids ++ more)

/-- The mappings a removal of the given mappings takes with it (R364). -/
def State.closureOf (s : State) (ids : List Nat) : List Nat := s.aliasIds s.maps.length ids

/-- Contexts that hold one of the mappings. -/
def State.holdersOf (s : State) (ids : List Nat) : List Nat :=
  ((s.maps.filter fun m => ids.contains m.id).map fun m => m.ctx).dedup

/-- Begun commands of a context, as (context, ordinal). -/
def State.begunOf (s : State) (n : Nat) : List (Nat × Nat) :=
  match s.ctx? n with
  | some c => c.begun.map fun b => (n, b.ord)
  | none => []

/-- Aperture segments that name a context lose VALID (R548); `p` none means on every port. -/
def State.disarmSegs (s : State) (n : Nat) (p : Option Nat) : State :=
  { s with ports := s.ports.mapIdx fun i q =>
      if p = none ∨ p = some i then
        { q with segs := q.segs.map fun g =>
            if g.valid ∧ g.armedCtx = n then { g with valid := false } else g }
      else q }

/-- Table 8 of 09, steps 1 and 2: the context is CLOSING, its commands are abandoned and its epoch rises (R456); the
commands of other contexts that alias its pages are noted for step 4. -/
def State.beginTearDown (s : State) (n : Nat) : State :=
  match s.ctx? n with
  | none => s
  | some c =>
    if !c.live then s
    else
      let own := (s.maps.filter fun m => m.ctx == n).map fun m => m.id
      let others := (s.holdersOf (s.closureOf own)).filter fun k => k != n
      let waits := (others.map fun k => (s.begunOf k).map fun p => p.2).flatten
      let s1 := ((s.abandon n).dropItems n).setCtxState n .closing
      (((s1.updCtx n fun x => { x with closing := waits }).raiseCtxEpoch n).disarmSegs n none).settle

/-- The halt of a context: the first two steps of Table 8 of 09 with state HALTED (R444). -/
def State.haltCtx (s : State) (n : Nat) : State :=
  match s.ctx? n with
  | none => s
  | some c =>
    if c.state = .halted ∨ !c.live then s
    else (((s.abandon n).dropItems n).setCtxState n .halted).settle

/-! ### Reporting a fault -/

/-- What a fault record holds beside its outcome (Table 9 of 09). -/
structure FaultInfo where
  code     : Code
  cmdCtx   : Nat
  cmdIndex : Word
  opcode   : Byte
  item     : Nat := noItem
  entry    : Word := noEntry
  detail   : Bytes := []
  deriving DecidableEq, Repr

/-- The record of no fault (Table 9 of 09). -/
def FaultRec.none : FaultRec :=
  { code := 0, outcome := 0, cmdCtx := 0, cmdIndex := 0, opcode := 0, item := 0, entry := 0, detail := [] }

/-- A fault of a context: its outcome under R443 (`override` is a command's non-zero FAULT_POLICY), its record when it
is the first (R450), the vector, and the tear-down or halt (R444). -/
def State.ctxFault (s : State) (n : Nat) (f : FaultInfo) (override : Nat) : State :=
  match s.ctx? n with
  | none => s
  | some c =>
    if !c.live then s
    else
      let outcome := if (if override = 0 then c.policy else override) = 2 then 2 else 1
      let r : FaultRec :=
        { code := f.code, outcome := outcome, cmdCtx := f.cmdCtx, cmdIndex := f.cmdIndex, opcode := f.opcode,
          item := f.item, entry := f.entry, detail := f.detail }
      let s1 :=
        if c.fault.outcome = 0 then (s.updCtx n fun x => { x with fault := r }).sendCtxVector n else s
      if outcome = 2 then s1.haltCtx n else s1.beginTearDown n

/-- The entry an item of a STEP_BUILD was made from. -/
def BuildItem.names (b : BuildItem) (e : Entry) : Bool := b.entry == e.index && b.born == e.born

/-- The entries that a STEP_BUILD placed and that are still active are marked (R25). -/
def State.markPlaced (s : State) (build : Option (List BuildItem)) : State :=
  match build with
  | none => s
  | some items =>
    { s with entries := s.entries.map fun e =>
        if e.state = .active ∧ (items.any fun b => b.names e) then { e with mark := true } else e }

/-- A fault of a command whose record names no item: of the issuing context, with the marks of R25 when it is a step
context; `build` is the last STEP_BUILD before the command in list order. -/
def State.commandFault (s : State) (n : Nat) (build : Option (List BuildItem)) (f : FaultInfo) (override : Nat) :
    State :=
  match s.ctx? n with
  | none => s
  | some c => (if c.step then s.markPlaced build else s).ctxFault n f override

/-- The item of a number among the items of a STEP_BUILD (R466). -/
def findItem (build : Option (List BuildItem)) (item : Nat) : Option BuildItem :=
  build.bind fun items => items.find? fun b => b.item == item

/-- The item of a number in a step context's last STEP_BUILD (R466). -/
def Ctx.buildItem? (c : Ctx) (item : Nat) : Option BuildItem := findItem c.build item

/-- In a step context an item other than 0xFFFF must name an item of the last build (R467). -/
def Ctx.itemOk (c : Ctx) (item : Nat) : Bool := !c.step || item == noItem || (c.buildItem? item).isSome

/-- The context that owns an item: in a step context the entry's owner, else the issuing context (R24, R467). -/
def Ctx.itemOwner (c : Ctx) (item : Nat) : Nat :=
  if c.step && item != noItem then
    match c.buildItem? item with
    | some b => b.ctx
    | none => c.num
  else c.num

/-- A context for which no further read or write is issued and no fault is reported (R448). -/
def State.stopped (s : State) (n : Nat) : Bool :=
  match s.ctx? n with
  | some c => c.state == .halted || !c.live
  | none => true

/-- A fault of an item among the items of a STEP_BUILD (R24, R443, R448, R467). -/
def State.itemFaultAt (s : State) (n : Nat) (build : Option (List BuildItem)) (item : Nat) (f : FaultInfo)
    (override : Nat) : State :=
  match s.ctx? n with
  | none => s
  | some c =>
    if c.step then
      if item = noItem then s.commandFault n build f override
      else
        match findItem build item with
        | none => s.commandFault n build f override
        | some b =>
          if s.stopped b.ctx then s
          else
            let s1 := { s with entries := s.entries.map fun (e : Entry) =>
              if (b.names e) = true then { e with itemFault := true } else e }
            s1.ctxFault b.ctx { f with item := item, entry := BitVec.ofNat 32 b.entry }
              (if b.ctx = n then override else 0)
    else s.ctxFault n { f with item := item } override

/-! ### Ownership and freezing (11) -/

/-- Ownership lapses: OWNER_CHANGED, an election opens, offers and claims end (R565, R566, R570). -/
def State.lapse (s : State) : State :=
  ((({ s with own := { owner := none, electing := true, claims := [], offer := none } }).allEvent
    evOwnerChanged).allEvent evElectionOpen)

/-- Home contexts of a port that run are PAUSED (R30, R32). -/
def State.pauseHome (s : State) (p : Nat) : State :=
  (s.ctxs.foldl (fun t c => if c.home = p ∧ c.state.ordinary then t.setCtxState c.num .paused else t) s).settle

/-- Paused home contexts take the state their commands give (R575). -/
def State.unpauseHome (s : State) (p : Nat) : State :=
  (s.ctxs.foldl (fun t c => if c.home = p ∧ c.state = .paused then t.setCtxState c.num (t.wish c) else t) s).settle

/-- A host read issued since the last rise of its port's epoch (R456). -/
def HostRead.current (r : HostRead) (s : State) : Bool := r.epoch == (s.port r.port).epoch

/-- The chunk of a host read, held. -/
def HostRead.hold (r : HostRead) : Held :=
  { port := r.port, win := r.win, job := r.job, seg := r.seg, chunk := r.chunk, released := false, mover := r.mover }

/-- The reads under way from a port that stops answering: their chunks are held (R386), and their completions, when they
come, are stale (R456). Log entry 17. -/
def State.holdReads (s : State) (p : Nat) : State :=
  { s with held := s.held ++ (s.hostReads.filter fun r => r.port == p && r.current s).map HostRead.hold }

/-- A port frozen with a cause and an address (R572 to R574, R565, R456). A frozen port freezes no further. -/
def State.freezePort (s : State) (p : Nat) (cause : Code) (addr : Nat) : State :=
  if (s.port p).frozen then s
  else
    let s1 := (s.holdReads p).updPort p fun q =>
      { q with frozen := true, cause := cause, freezeAddr := BitVec.ofNat 64 addr, epoch := q.epoch + 1 }
    let s2 :=
      match s1.own.owner with
      | some o => if o = p then s1.lapse else s1.portEvent o evPeerFrozen
      | none => s1
    s2.pauseHome p

/-- A write that freezes the port: discarded, counted, and the port frozen (R537, R549, R540, R13). -/
def State.freezeWrite (s : State) (p : Nat) (cause : Code) (addr : Nat) : State :=
  (s.discard p).freezePort p cause addr

end Sys2Proof.Machine
end

