-- ==== Sys2Proof/Machine/Flags.lean ====
section
/-! DEFINITION. The status and flag words the module computes from its state: CORE_INFO, EXP_INFO, CCX_STATUS,
CCX_DBG_STATUS, HPC_PORT_STATUS, HPC_FREEZE, and the records of a context and of a command. -/
namespace Sys2Proof.Machine

open Sys2Proof

/-- A register word from its fields, lowest first. -/
def regWord (fs : List (Nat × Nat)) : Word := BitVec.ofNat 32 (packFields fs)

/-- CORE_INFO of a core (Table 2 of 03). -/
def Core.info (c : Core) : Word :=
  regWord [(c.ctx.toNat, 10), (bit c.busy, 1), (0, 9), (c.mode.toNat, 3), (c.curMax.toNat, 4), (c.fusedMax.toNat, 4),
    (bit c.present, 1)]

/-- Bytes of factors held, in units of 64 KiB (Table 2 of 07). -/
def Expander.factorUse (e : Expander) : Nat := cdiv (e.factors.foldl (fun a f => a + f.2.2) 0) 65536

/-- The cores of a quad with requests at their expander, as bits: those that a command drawing packed weights runs on. -/
def State.expActive (s : State) (q : Nat) : Nat :=
  ((List.range 4).map fun i => bit (s.ctxs.any fun c => c.begun.any fun b =>
    b.live && !b.tensors.isEmpty && b.cores.contains (4 * q + i)) * 2 ^ i).sum

/-- EXP_INFO of expander `q` (Table 2 of 07); an absent expander reads 0. -/
def State.expInfo (s : State) (q : Nat) : Word :=
  let e := s.exps.getD q (Expander.reset false)
  if !e.present then 0
  else regWord [(e.eccCorr.toNat, 8), (e.factorUse, 8), (0, 4), (e.tables.length, 4), (s.expActive q, 4), (0, 3), (1, 1)]

/-- CCX_STATUS (Table 1 of 10). -/
def State.ccxStatus (s : State) : Word :=
  regWord [(s.ccx.heartbeat.toNat, 8), (s.ccx.haltCode.toNat, 16), (0, 2), (s.own.owner.getD 0, 2),
    (bit s.own.owner.isSome, 1), (bit s.own.electing, 1), (bit s.ccx.service, 1), (bit s.ccx.halted, 1)]

/-- A staged copy of any FAB_PRBS_CTL remains (Table 14 of 10). -/
def State.staged (s : State) : Bool := s.fab.ports.any fun f => f.staged.isSome

/-- CCX_DBG_STATUS (Table 14 of 10). -/
def State.dbgStatus (s : State) : Word :=
  regWord [(bit s.staged, 1), (bit !s.ccx.dbgWaiting.isEmpty, 1), (0, 6), (s.ccx.dbgApplied.toNat, 8),
    (s.ccx.dbgCode.toNat, 16)]

/-- Contexts granted to a port (R539). -/
def State.grantCount (s : State) (p : Nat) : Nat := (s.ctxs.filter fun c => c.granted p).length

/-- HPC_PORT_STATUS of a port (Table 5 of 11). -/
def State.portStatus (s : State) (p : Nat) : Word :=
  let q := s.port p
  let offered := match s.own.offer with
    | some o => o.2 == p
    | none => false
  regWord [(0, 7), (s.grantCount p, 9), (p, 2), (bit offered, 1), (bit (s.own.claims.any fun c => c.port == p), 1),
    (bit (s.own.owner == some p), 1), (bit q.frozen, 1), (bit q.flit, 1), (q.width.toNat, 5), (q.speed.toNat, 3),
    (bit q.linkUp, 1)]

/-- HPC_FREEZE of a port (Table 6 of 11). -/
def State.hpcFreeze (s : State) (p : Nat) : Word :=
  let q := s.port p
  regWord [(q.malformed, 2), (0, 14), (q.cause.toNat, 16)]

/-- A fault record's 64 bytes (Table 9 of 09). -/
def FaultRec.bytes (f : FaultRec) : Bytes :=
  leBytes 2 f.code.toNat ++ leBytes 1 f.outcome ++ zeros 1 ++ leBytes 4 f.cmdCtx ++ leBytes 4 f.cmdIndex.toNat ++
    [f.opcode] ++ zeros 1 ++ leBytes 2 f.item ++ leBytes 4 f.entry.toNat ++ zeros 12 ++ sliceBytes f.detail 0 32

/-- Code of a context state (Table 3 of 09). -/
def CtxState.code : CtxState → Nat
  | .idle => 0
  | .ready => 1
  | .running => 2
  | .blocked => 3
  | .paused => 4
  | .halted => 5
  | .closing => 6
  | .dead => 7

/-- A context's 128-byte status record (Table 10 of 09). -/
def State.statusRecord (s : State) (c : Ctx) : Bytes :=
  let b := match c.list with
    | some l => (l.begun, l.done)
    | none => (0, 0)
  leBytes 4 c.num ++ leBytes 1 c.state.code ++ leBytes 1 (bit c.resident) ++ leBytes 1 c.partition ++
    leBytes 1 c.home ++ leBytes 4 (s.ctxEpoch c.num).toNat ++ leBytes 4 c.nanCount.toNat ++ leBytes 4 c.debtUs ++
    leBytes 4 b.1.toNat ++ leBytes 4 b.2.toNat ++ leBytes 4 c.slowdown.toNat ++
    leBytes 4 (slowdownRatio c.busy c.interfere).toNat ++ leBytes 4 c.topOther.toNat ++ leBytes 8 c.busy ++
    leBytes 8 c.interfere ++ zeros 8 ++ c.fault.bytes

/-- A kept command's 128-byte statistics record (Table 11 of 09). -/
def CmdRec.bytes (r : CmdRec) : Bytes :=
  leBytes 4 r.index.toNat ++ [r.opcode] ++ leBytes 1 r.mode ++ leBytes 1 r.plan ++ leBytes 1 r.p ++
    leBytes 2 r.cores ++ leBytes 1 1 ++ leBytes 1 r.busiest ++ leBytes 4 r.chainTag.toNat ++
    ((List.range 8).map fun i => leBytes 2 (r.partLo.getD i 0)).flatten ++ leBytes 8 r.busy ++ leBytes 8 r.core ++
    ((List.range 7).map fun i => leBytes 8 (r.stall.getD i 0)).flatten ++ leBytes 8 r.interfere ++ leBytes 4 r.nan ++
    leBytes 4 r.freq.toNat ++ zeros 8

/-- The command record of an index, or the form of one that is not kept (R455). -/
def Ctx.recordBytes (c : Ctx) (i : Word) : Bytes :=
  match c.records.find? fun r => r.index == i with
  | some r => r.bytes
  | none => leBytes 4 i.toNat ++ zeros 124

end Sys2Proof.Machine
end

