-- ==== Sys2Proof/Machine/Forms.lean ====
section
/-! DEFINITION. The Tlalis message set (Tables 5 and 6 of 10): every message form with its class, sender, body refusal,
reserved bytes and context fields. -/
namespace Sys2Proof.Machine

open Sys2Proof

/-- A message form: an opcode of Table 6 of 10 with the value of its body's selector. -/
inductive Form where
  | claim | handover | handoverResign | accept | portThaw | dmaOpen | dmaClose | queryCaps | listSet | listExtend
  | partitionSet | ctxCreate | ctxGrant | ctxRevoke | ctxDestroy | stepAdd | stepUpdate | stepRetire
  | ptCreate | ptEdit | ptDestroy | mapAllocate | mapShare | memUnmap | repairQuery | repairApply | loopback
  | fabGlobal | fabPort | fabSubport | addAnchor | removeAnchor | setOwnChain | addPeer | removePeer | rekey
  | peerThaw | powerPolicy | fwStage | fwTry | fwConfirm | fwRaise | attestReport | attestChain | journalCompact
  | serviceEnter | serviceLeave
  deriving DecidableEq, Repr

/-- A message opcode of Table 6 of 10 is defined. -/
def opcodeDefined (op : Nat) : Bool :=
  [0x0101, 0x0102, 0x0103, 0x0104, 0x0105, 0x0201, 0x0202, 0x0203, 0x0301, 0x0302, 0x0303, 0x0304, 0x0307, 0x0308,
   0x0601, 0x0901, 0x0902, 0x0903, 0x0904, 0x0905, 0x0B01, 0x0B02, 0x0B03, 0x0C01, 0x0C02, 0x0C03, 0x0C04, 0x0C05,
   0x0C06].contains op

/-- The form at a position of a list, none beyond it: a reserved selector value. -/
def pickForm (l : List Form) (i : Nat) : Option Form := l[i]?

/-- The form an opcode and a body select; none for a reserved opcode or a reserved selector value (R498). -/
def formOf (op : Nat) (b : Bytes) : Option Form :=
  let o := (byteAt b 0).toNat
  match op with
  | 0x0101 => some .claim
  | 0x0102 => some (if o = 0xFF then .handoverResign else .handover)
  | 0x0103 => some .accept
  | 0x0104 => some .portThaw
  | 0x0105 => pickForm [.dmaOpen, .dmaClose] o
  | 0x0201 => some .queryCaps
  | 0x0202 => some .listSet
  | 0x0203 => some .listExtend
  | 0x0301 => some .partitionSet
  | 0x0302 => some .ctxCreate
  | 0x0303 => pickForm [.ctxGrant, .ctxRevoke] (byteAt b 5).toNat
  | 0x0304 => some .ctxDestroy
  | 0x0307 => pickForm [.stepAdd, .stepUpdate] o
  | 0x0308 => some .stepRetire
  | 0x0601 => pickForm [.ptCreate, .ptEdit, .ptDestroy] o
  | 0x0901 => pickForm [.mapAllocate, .mapShare] o
  | 0x0902 => some .memUnmap
  | 0x0903 => some .repairQuery
  | 0x0904 => some .repairApply
  | 0x0905 => some .loopback
  | 0x0B01 => pickForm [.fabGlobal, .fabPort, .fabSubport] o
  | 0x0B02 => pickForm [.addAnchor, .removeAnchor, .setOwnChain, .addPeer, .removePeer, .rekey] o
  | 0x0B03 => some .peerThaw
  | 0x0C01 => some .powerPolicy
  | 0x0C02 => some .fwStage
  | 0x0C03 => pickForm [.fwTry, .fwConfirm, .fwRaise] o
  | 0x0C04 => pickForm [.attestReport, .attestChain] o
  | 0x0C05 => some .journalCompact
  | 0x0C06 => pickForm [.serviceEnter, .serviceLeave] o
  | _ => none

/-- Who may send a message (Table 6 of 10). -/
inductive Sender where
  | any | owner | serviceOwner | holder | mapper | attester
  deriving DecidableEq, Repr

/-- What Table 6 of 10 says of an opcode: class C, sender, body refusal. -/
structure MsgKind where
  classC  : Bool
  sender  : Sender
  refusal : Code
  deriving DecidableEq, Repr

/-- Table 6 of 10. -/
def msgKind (op : Nat) : MsgKind :=
  match op with
  | 0x0101 => ⟨false, .any, Err.claimInvalid⟩
  | 0x0102 => ⟨false, .owner, Err.handoverInvalid⟩
  | 0x0103 => ⟨false, .any, Err.handoverInvalid⟩
  | 0x0104 => ⟨false, .owner, Err.thawInvalid⟩
  | 0x0105 => ⟨false, .any, Err.dmaWindowInvalid⟩
  | 0x0201 => ⟨false, .any, Err.capsInvalid⟩
  | 0x0202 => ⟨true, .holder, Err.listInvalid⟩
  | 0x0203 => ⟨true, .holder, Err.listInvalid⟩
  | 0x0301 => ⟨false, .owner, Err.partitionInvalid⟩
  | 0x0302 => ⟨false, .owner, Err.ctxInvalid⟩
  | 0x0303 => ⟨false, .owner, Err.ctxInvalid⟩
  | 0x0304 => ⟨false, .owner, Err.ctxInvalid⟩
  | 0x0307 => ⟨true, .holder, Err.stepInvalid⟩
  | 0x0308 => ⟨true, .holder, Err.stepInvalid⟩
  | 0x0601 => ⟨true, .holder, Err.seqInvalid⟩
  | 0x0901 => ⟨false, .mapper, Err.mapInvalid⟩
  | 0x0902 => ⟨false, .mapper, Err.mapInvalid⟩
  | 0x0903 => ⟨false, .any, Err.repairInvalid⟩
  | 0x0904 => ⟨false, .owner, Err.repairInvalid⟩
  | 0x0905 => ⟨false, .serviceOwner, Err.repairInvalid⟩
  | 0x0B01 => ⟨false, .owner, Err.fabricConfigInvalid⟩
  | 0x0B02 => ⟨false, .owner, Err.admitInvalid⟩
  | 0x0B03 => ⟨false, .owner, Err.peerThawInvalid⟩
  | 0x0C01 => ⟨false, .owner, Err.powerPolicyInvalid⟩
  | 0x0C02 => ⟨false, .owner, Err.fwImageInvalid⟩
  | 0x0C03 => ⟨false, .owner, Err.fwStateInvalid⟩
  | 0x0C04 => ⟨false, .attester, Err.attestInvalid⟩
  | 0x0C05 => ⟨false, .owner, Err.msgMalformed⟩
  | 0x0C06 => ⟨false, .owner, Err.serviceModeInvalid⟩
  | _ => ⟨false, .any, Err.msgMalformed⟩

/-- Owner-only messages (R496). -/
def MsgKind.ownerOnly (k : MsgKind) : Bool := k.sender == .owner || k.sender == .serviceOwner

/-- The reserved byte ranges of a form's body, as (first, one past the last). -/
def Form.reserved (f : Form) : List (Nat × Nat) :=
  match f with
  | .claim | .handover | .handoverResign | .accept | .portThaw | .queryCaps | .serviceEnter | .serviceLeave =>
    [(1, 240)]
  | .dmaOpen | .dmaClose => [(3, 8), (24, 240)]
  | .listSet => [(4, 8), (24, 240)]
  | .listExtend => [(8, 240)]
  | .partitionSet => [(1, 8), (136, 240)]
  | .ctxCreate => [(13, 14), (32, 240)]
  | .ctxGrant | .ctxRevoke => [(8, 240)]
  | .ctxDestroy => [(4, 240)]
  | .stepAdd | .stepUpdate => [(3, 4), (60, 64), (112, 240)]
  | .stepRetire => [(8, 240)]
  | .ptCreate | .ptEdit | .ptDestroy => [(3, 4), (52, 56), (64, 240)]
  | .mapAllocate | .mapShare => [(5, 8), (40, 240)]
  | .memUnmap => [(4, 8), (24, 240)]
  | .repairQuery => [(2, 240)]
  | .repairApply => [(8, 240)]
  | .loopback => [(3, 4), (8, 240)]
  | .fabGlobal => [(1, 4), (14, 240)]
  | .fabPort => [(9, 240)]
  | .fabSubport => [(5, 8), (30, 240)]
  | .addAnchor | .removeAnchor | .setOwnChain | .addPeer | .removePeer | .rekey =>
    [(3, 4), (6, 8), (12, 16), (28, 32), (70, 72), (112, 240)]
  | .peerThaw => [(2, 240)]
  | .powerPolicy => [(4, 240)]
  | .fwStage => [(4, 8), (20, 240)]
  | .fwTry | .fwConfirm | .fwRaise => [(2, 240)]
  | .attestReport | .attestChain => [(1, 4), (48, 240)]
  | .journalCompact => [(0, 240)]

/-- The reserved bits of a form's body: the byte, and the mask of its bits that are always zero (R12). -/
def Form.reservedBits (f : Form) : List (Nat × Byte) :=
  match f with
  | .mapAllocate | .mapShare => [(3, 0xFC)]
  | .ptCreate | .ptEdit | .ptDestroy => [(2, 0xF8)]
  | .ctxCreate => [(6, 0xFC)]
  | .dmaOpen | .dmaClose => [(2, 0xF0)]
  | .fabGlobal => [(11, 0xC0)]
  | .fabPort => [(5, 0xFE)]
  | .fabSubport => [(4, 0xFE)]
  | .addAnchor | .removeAnchor | .setOwnChain | .addPeer | .removePeer | .rekey => [(2, 0xFC)]
  | .powerPolicy => [(0, 0xF8)]
  | .repairApply => [(3, 0xFE)]
  | _ => []

/-- Every reserved byte and bit of the body is zero (R12, R498, R499). Log entry 52. -/
def Form.reservedOk (f : Form) (b : Bytes) : Bool :=
  (f.reserved.all fun r => zeroRange b r.1 r.2) && f.reservedBits.all fun r => byteAt b r.1 &&& r.2 == 0

/-- The offsets of the context fields a form's body uses (R496, R757). -/
def Form.ctxOffsets (f : Form) : List Nat :=
  match f with
  | .listSet | .listExtend | .ctxCreate | .ctxGrant | .ctxRevoke | .ctxDestroy | .stepRetire | .memUnmap | .fwStage =>
    [0]
  | .stepAdd => [4, 8]
  | .stepUpdate | .ptCreate | .ptEdit | .ptDestroy | .attestReport | .attestChain => [4]
  | .mapAllocate | .addAnchor | .setOwnChain => [8]
  | .mapShare => [8, 12]
  | _ => []

/-- The contexts a message names (R496); a CTX_CREATE with 0xFFFF_FFFF names none. -/
def Form.names (f : Form) (b : Bytes) : List Nat :=
  (f.ctxOffsets.map fun o => leAt b o 4).filter fun n => !(f == .ctxCreate && n == 0xFFFFFFFF)

/-- The contexts that must exist and be neither CLOSING nor DEAD before the body's other checks (R757 and its
exceptions). -/
def Form.mustLive (f : Form) (b : Bytes) : List Nat :=
  match f with
  | .ctxCreate => []
  | .ctxDestroy => []
  | _ => f.names b

end Sys2Proof.Machine
end

