-- ==== Sys2Proof/Machine/Operands.lean ====
section
/-! DEFINITION. The common operand forms: the command header, message bodies, slot headers and the SEAL word (10). -/
namespace Sys2Proof.Machine

open Sys2Proof

/-! ### The common descriptor header (Table 8 of 10) -/

/-- OPCODE of a descriptor. -/
def descOpcode (d : Bytes) : Byte := byteAt d 0

/-- The header keeps Table 8 of 10, with an opcode of Table 9 (R515, R516). -/
def headerOk (d : Bytes) : Bool :=
  let op := (byteAt d 0).toNat
  let cls := (byteAt d 2).toNat
  decide (1 ≤ op) && decide (op ≤ 15) && decide ((byteAt d 1).toNat ≤ 1) && (decide (cls ≤ 7) || cls == 0xFF) &&
    decide ((byteAt d 3).toNat ≤ 2) && leAt d 4 2 == 128 && zeroRange d 6 8

/-- IRQ of the header (R518). -/
def descIrq (d : Bytes) : Bool := (byteAt d 1).getLsbD 0

/-- OPCLASS of the header; none means the class of the last PHASE (R660). -/
def descClass (d : Bytes) : Option Nat := if byteAt d 2 = 0xFF then none else some (byteAt d 2).toNat

/-- FAULT_POLICY of the header; 0 means the context's policy (R443). -/
def descPolicy (d : Bytes) : Nat := (byteAt d 3).toNat

/-- A device virtual address has bits 63:48 zero (R356). -/
def vaOk (a : Nat) : Bool := decide (a < 2 ^ 48)

/-! ### Slots (Tables 2 and 3 of 10) -/

/-- SEAL of a slot. -/
def slotSealWord (b : Bytes) : Word := BitVec.ofNat 32 (leAt b 0 4)

/-- STATE of a SEAL word. -/
def sealState (w : Word) : Nat := w.toNat % 4

/-- TAG of a SEAL word. -/
def sealTag (w : Word) : BitVec 16 := BitVec.ofNat 16 (w.toNat / 65536)

/-- OPCODE of a slot. -/
def slotOpcode (b : Bytes) : BitVec 16 := BitVec.ofNat 16 (leAt b 4 2)

/-- NOTIFY of a slot. -/
def slotNotify (b : Bytes) : Bool := (byteAt b 6).getLsbD 0

/-- The 240-byte body of a slot. -/
def slotBody (b : Bytes) : Bytes := sliceBytes b 16 240

/-- A reserved header bit or byte is non-zero, or STATUS or TAKE_SEQ is not zero (R499). -/
def slotHeaderBad (b : Bytes) : Bool :=
  decide ((byteAt b 6).toNat > 1) || !zeroRange b 7 16 || decide ((leAt b 0 4) / 4 % 2 ^ 14 ≠ 0)

/-- A body of 240 bytes from its first fields. -/
def replyBody (fields : Bytes) : Bytes := fields ++ zeros (240 - fields.length)

end Sys2Proof.Machine
end

