-- ==== Sys2Proof/Machine/Mailbox.lean ====
section
/-! DEFINITION. Mailbox slots: host writes, sealing, taking, the checks of a taken message, holding back, and replies
(10, R487 to R505, R757). -/
namespace Sys2Proof.Machine

open Sys2Proof

/-! ### Slots -/

/-- The slots of a mailbox of a port; none for a context mailbox the port does not hold. -/
def Port.box? (q : Port) (box : Option Nat) : Option (List Bytes) :=
  match box with
  | none => some q.mgmt
  | some c => (q.boxes.find? fun b => b.1 == c).map fun b => b.2

/-- One slot. -/
def State.slot? (s : State) (r : SlotRef) : Option Bytes := ((s.port r.port).box? r.box).bind fun l => l[r.slot]?

/-- One slot replaced. -/
def State.setSlot (s : State) (r : SlotRef) (b : Bytes) : State :=
  s.updPort r.port fun q =>
    match r.box with
    | none => { q with mgmt := q.mgmt.set r.slot b }
    | some c => { q with boxes := q.boxes.map fun x => if x.1 = c then (c, x.2.set r.slot b) else x }

/-- BAR0 offset of a slot (Table 3 of 11). -/
def slotOffset (r : SlotRef) : Nat :=
  match r.box with
  | none => 0x2000 + 256 * r.slot
  | some c => 0x400000 + 1024 * c + 256 * r.slot

/-- A host write to bytes of a slot (R490, R491): discarded while the slot is sealed or taken, and when it would set
STATE to 2 or 3. -/
def State.writeSlot (s : State) (r : SlotRef) (off : Nat) (bs : Bytes) : State :=
  match s.slot? r with
  | none => s.discard r.port
  | some b =>
    let st := sealState (slotSealWord b)
    let new := putBytes b off bs
    if st = 1 ∨ st = 2 ∨ (off = 0 ∧ !bs.isEmpty ∧ sealState (slotSealWord new) ≥ 2) then s.discard r.port
    else s.setSlot r new

/-- A host write that reaches a mailbox: discarded on a frozen port (R573), a freeze on an ungranted context mailbox
(R540), discarded on a released one, else a slot write. -/
def State.hostSlot (s : State) (r : SlotRef) (off : Nat) (bs : Bytes) : State :=
  let q := s.port r.port
  if !q.reaches then s
  else if q.frozen then s.discard r.port
  else
    match r.box with
    | none => s.writeSlot r off bs
    | some c =>
      if !((s.ctx? c).any fun x => x.granted r.port) then
        s.freezeWrite r.port Err.frozenMailbox (slotOffset r + off)
      else s.writeSlot r off bs

/-- SLOT_SEAL: the whole SEAL word in one aligned write (R489). -/
def execSlotSeal (slot : SlotRef) (word : Word) (s : State) : Host.Outcome State Fault Refusal :=
  done s (if s.hostsServed then s.hostSlot slot 0 (leBytes 4 word.toNat) else s)

/-! ### Messages -/

/-- What carrying a message out answers: a reply, or the message waits. -/
inductive Carried where
  | reply (s : State) (status : Code) (body : Bytes)
  | wait (s : State)

/-- A refusal: no effect, an all-zero reply body (R498, R501). -/
def refuse (s : State) (code : Code) : Carried := .reply s code (zeros 240)

/-- Success with a reply body. -/
def accept (s : State) (fields : Bytes) : Carried := .reply s Err.success (replyBody fields)

/-- The form of a message. -/
def Msg.form? (m : Msg) : Option Form := formOf m.opcode.toNat m.body

/-- What Table 6 of 10 says of a message. -/
def Msg.kind (m : Msg) : MsgKind := msgKind m.opcode.toNat

/-- The contexts a message names (R496). -/
def Msg.names (m : Msg) : List Nat :=
  match m.form? with
  | some f => f.names m.body
  | none => []

/-- Whether a port holds a grant of a context number. -/
def State.holds (s : State) (p c : Nat) : Bool := (s.ctx? c).any fun x => x.granted p

/-- The mapping rights of R363 for a message of a port. -/
def State.mapRight (s : State) (m : Msg) : Bool :=
  if s.own.owner = some m.port then true
  else
    match m.form? with
    | some .mapShare =>
      let dst := leAt m.body 8 4
      s.holds m.port (leAt m.body 12 4) &&
        (s.holds m.port dst || (s.ctx? dst).any fun x => x.step)
    | some .mapAllocate => s.holds m.port (leAt m.body 8 4)
    | some _ => s.holds m.port (leAt m.body 0 4)
    | none => true

/-- The context named by the CTX field of a class C message. -/
def classCCtx (op : Nat) (b : Bytes) : Nat :=
  if op = 0x0307 ∨ op = 0x0601 then leAt b 4 4 else leAt b 0 4

/-- Header and mailbox checks, step 1 of R498. -/
def headerRefusal (slot : Bytes) (m : Msg) : Option Code :=
  if !opcodeDefined m.opcode.toNat || slotHeaderBad slot then some Err.msgMalformed
  else
    match m.box with
    | none => none
    | some c =>
      if !m.kind.classC || classCCtx m.opcode.toNat m.body != c then some Err.msgWrongMailbox else none

/-- The sender's rights, step 2 of R498 (Table 6 of 10, R558, R757, R409). -/
def State.senderRefusal (s : State) (m : Msg) : Option Code :=
  let k := m.kind
  match k.sender with
  | .any => none
  | .owner => if s.own.owner = some m.port then none else some Err.notOwner
  | .serviceOwner =>
    if s.own.owner ≠ some m.port then some Err.notOwner
    else if s.ccx.service then none else some Err.loopbackUnavailable
  | .holder => if s.holds m.port (classCCtx m.opcode.toNat m.body) then none else some k.refusal
  | .mapper => if s.mapRight m then none else some k.refusal
  | .attester =>
    if s.own.owner = some m.port ∨ s.holds m.port (leAt m.body 4 4) then none else some k.refusal

/-- The presence of the units a message needs, step 3 of R498 (R4, R5, R366, R406). -/
def State.presenceRefusal (s : State) (m : Msg) : Option Code :=
  let o := (byteAt m.body 0).toNat
  let siteAbsent (n : Nat) : Bool := decide (n < 8) && !(s.sites.getD n (Site.reset false)).present
  match m.opcode.toNat with
  | 0x0903 | 0x0904 | 0x0905 => if siteAbsent o then some Err.stmNotPresent else none
  | 0x0901 =>
    let place := (byteAt m.body 4).toNat
    if o ≠ 0 then none
    else if byteAt m.body 1 = 0 then (if siteAbsent place then some Err.stmNotPresent else none)
    else if byteAt m.body 1 = 1 then
      (if place < 32 ∧ (s.pkgs[place]?.map fun b => b.present) ≠ some true then some Err.btmNotPresent else none)
    else none
  | 0x0B01 =>
    let port := (byteAt m.body 1).toNat
    if !s.hasFabric || ((o == 1 || o == 2) && (s.fab.ports[port]?.map fun f => f.present) == some false) then
      some Err.fabNotPresent
    else none
  | 0x0B02 | 0x0B03 => if s.hasFabric then none else some Err.fabNotPresent
  | _ => none

/-- Steps 1 to 3 of R498, judged at the take (R494). -/
def State.earlyRefusal (s : State) (slot : Bytes) (m : Msg) : Option Code :=
  match headerRefusal slot m with
  | some c => some c
  | none =>
    match s.senderRefusal m with
    | some c => some c
    | none => s.presenceRefusal m

/-- Steps 1 to 3 of R498 and the first part of step 4: the reserved bytes, by the layout the selector gives. -/
def State.takeRefusal (s : State) (slot : Bytes) (m : Msg) : Option Code :=
  match s.earlyRefusal slot m with
  | some c => some c
  | none =>
    match m.form? with
    | none => some m.kind.refusal
    | some f => if f.reservedOk m.body then none else some m.kind.refusal

/-- A message is malformed (R499): its header, its mailbox, or a reserved byte of its body. -/
def malformed (slot : Bytes) (m : Msg) : Bool :=
  (headerRefusal slot m).isSome ||
    match m.form? with
    | some f => !f.reservedOk m.body
    | _ => false

/-! ### Replies (R501 to R505) -/

/-- Vector of a reply: 0 for a management slot, the context's on that port otherwise (R502). -/
def State.replyVector (s : State) (m : Msg) : Nat :=
  match m.box with
  | none => 0
  | some c =>
    match (s.ctx? c).bind fun x => x.grants.find? fun g => g.1 == m.port with
    | some g => g.2
    | none => 0

/-- A reply written: STATUS, body, STATE 3 with the TAG unchanged, then the vector (R501, R502); discarded for a slot
that was reset or released (R504, R505). -/
def State.writeReply (s : State) (m : Msg) (status : Code) (body : Bytes) : State :=
  let r : SlotRef := { port := m.port, box := m.box, slot := m.slot }
  match s.slot? r with
  | none => s
  | some b =>
    if m.discard then s
    else
      let head := leBytes 4 (m.tag.toNat * 65536 + 3) ++ sliceBytes b 4 4 ++ leBytes 2 status.toNat ++
        sliceBytes b 10 6
      let s1 := s.setSlot r (head ++ sliceBytes body 0 240)
      if m.notify then s1.sendVector m.port (s.replyVector m) else s1

/-- A message refused as malformed, or by the first three steps of R498: the reply, then the freeze where it is the
malformed one that brought its port's count to 3 (R500). -/
def State.reply (s : State) (m : Msg) (status : Code) (body : Bytes) : State :=
  let t := s.writeReply m status body
  if m.freezes then
    t.freezePort m.port Err.frozenMalformed (slotOffset { port := m.port, box := m.box, slot := m.slot })
  else t

/-! ### Taking (R492 to R495) -/

/-- The slot whose turn it is in its mailbox: the lowest-numbered sealed one (R492). -/
def lowestSealed (l : List Bytes) : Option Nat :=
  (List.range l.length).find? fun i => sealState (slotSealWord (l.getD i [])) == 1

/-- The next TAKE_SEQ (R495). -/
def nextTakeSeq (n : Nat) : Nat := if n = 0xFFFFFFFF then 1 else n + 1

/-- The message of a slot. -/
def slotMsg (r : SlotRef) (b : Bytes) (seq : Nat) : Msg :=
  { port := r.port, box := r.box, slot := r.slot, seq := seq, tag := sealTag (slotSealWord b), notify := slotNotify b,
    opcode := slotOpcode b, body := slotBody b, state := .held, discard := false }

/-- A slot taken: TAKE_SEQ written, STATE 2, the count of malformed messages moved (R493, R495, R500). -/
def State.markTaken (s : State) (r : SlotRef) (b : Bytes) (bad : Bool) : State :=
  let s1 := s.setSlot r (leBytes 4 ((slotSealWord b).toNat / 4 * 4 + 2) ++ sliceBytes b 4 8 ++
    leBytes 4 s.ccx.takeSeq ++ sliceBytes b 16 240)
  let s2 := s1.updPort r.port fun q =>
    { q with malformed := if bad then (if q.malformed ≥ 2 then 0 else q.malformed + 1) else 0 }
  { s2 with ccx := { s2.ccx with takeSeq := nextTakeSeq s.ccx.takeSeq } }

/-- A message must be held: an earlier waiting or held one names a context it names, or both are owner-only (R496). -/
def State.mustHold (_ : State) (m : Msg) (earlier : List Msg) : Bool :=
  earlier.any fun w => (w.names.any fun n => m.names.contains n) || (w.kind.ownerOnly && m.kind.ownerOnly)

/-- The checks of R757 on the context fields, judged when the message begins (R494). -/
def State.ctxRefusal (s : State) (f : Form) (m : Msg) : Option Code :=
  if (f.mustLive m.body).all fun n => (s.liveCtx? n).isSome then none else some m.kind.refusal

/-- A message begun: step 4 of R498, its reserved bytes, its context fields and its own carrying out; a message that
waits stays with the control complex (R494, R496, R505). -/
def State.begin (s : State) (m : Msg) (carry : Form → State → Msg → Carried) : State :=
  match m.form? with
  | none => s.reply m m.kind.refusal (zeros 240)
  | some f =>
    if !f.reservedOk m.body then s.reply m m.kind.refusal (zeros 240)
    else
      match s.ctxRefusal f m with
      | some c => s.writeReply m c (zeros 240)
      | none =>
        match carry f s m with
        | .reply t st body => t.writeReply m st body
        | .wait t => { t with ccx := { t.ccx with msgs := t.ccx.msgs ++ [{ m with state := .waiting }] } }

/-- What a message does when it is taken, even one that is held: a HANDOVER with TARGET 0xFF lets ownership lapse (R567). -/
def State.takenNow (s : State) (m : Msg) : State :=
  if m.form? = some .handoverResign ∧ Form.handoverResign.reservedOk m.body = true then s.lapse else s

/-- A sealed slot taken and, where nothing holds it, carried out by `carry` (R493 to R500). -/
def State.takeSlot (s : State) (r : SlotRef) (carry : Form → State → Msg → Carried) : State :=
  match s.slot? r with
  | none => s
  | some b =>
    let m0 := slotMsg r b s.ccx.takeSeq
    let bad := malformed b m0
    let m : Msg := { m0 with freezes := bad && decide ((s.port r.port).malformed ≥ 2) }
    let s1 := s.markTaken r b bad
    match s.earlyRefusal b m with
    | some c => s1.reply m c (zeros 240)
    | none =>
      let s2 := s1.takenNow m
      if s2.mustHold m s2.ccx.msgs then { s2 with ccx := { s2.ccx with msgs := s2.ccx.msgs ++ [m] } }
      else s2.begin m carry

/-- The firmware scans a port's mailboxes: it is running, and the port is neither frozen nor down (R492, R503). -/
def State.scans (s : State) (p : Nat) : Bool :=
  let q := s.port p
  s.running && q.reaches && !q.frozen

/-- The row of a message form: the take of one slot whose message is of that form (R493). A slot that is not the next
of its mailbox, or holds another message, is no occasion (log entry 2). -/
def State.takeRow (s : State) (r : SlotRef) (f : Form) (carry : State → Msg → Carried) : State :=
  if !s.scans r.port then s
  else
    match (s.port r.port).box? r.box with
    | none => s
    | some l =>
      if lowestSealed l ≠ some r.slot then s
      else
        let b := l.getD r.slot []
        if formOf (slotOpcode b).toNat (slotBody b) = some f then s.takeSlot r fun _ => carry else s

/-- The waiting message of a TAKE_SEQ replied and let go; no reply is written while the control complex is halted
(R485). -/
def State.replyWaiting (s : State) (seq : Nat) (status : Code) (body : Bytes) : State :=
  if s.ccx.halted then s
  else
    match s.ccx.msgs.find? fun m => m.seq == seq && m.state == .waiting with
    | none => s
    | some m =>
      ({ s with ccx := { s.ccx with msgs := s.ccx.msgs.filter fun x => x.seq != seq } }).writeReply m status body

end Sys2Proof.Machine
end

