-- ==== Sys2Proof/Machine/MemMap.lean ====
section
/-! DEFINITION. Pages, firmware objects, and the messages MEM_MAP and MEM_UNMAP (08, R356 to R366, R758, R759). -/
namespace Sys2Proof.Machine

open Sys2Proof

/-! ### Pages -/

/-- Stack pages of a site (Table 3 of 08). -/
def sitePages : Nat := 32768

/-- Usable bytes of a bulk package (R370). -/
def packageBytes : Nat := 61440 * 2 ^ 20

/-- Site or package of a physical address. -/
def unitOf (a : Nat) : Nat := if a < 2 ^ 40 then a / 2 ^ 36 else (a - 2 ^ 40) / 2 ^ 36

/-- Whether a physical address lies in the bulk tier. -/
def isBulk (a : Nat) : Bool := decide (2 ^ 40 ≤ a)

/-- Sites present, in ascending number. -/
def State.siteList (s : State) : List Nat :=
  (List.range 8).filter fun i => (s.sites.getD i (Site.reset false)).present

/-- Packages present, in ascending number. -/
def State.pkgList (s : State) : List Nat :=
  (List.range 32).filter fun i => (s.pkgs[i]?.map fun b => b.present) == some true

/-- Stack pages in use: mapped, set aside for save areas, holding firmware objects, replacing a page, or retired. -/
def State.usedStack (s : State) : List Nat :=
  (((s.maps.filter fun m => m.tier == .stack).map fun m => m.pages).flatten ++
    (s.ctxs.map fun c => c.savePages).flatten ++ s.fwPages ++
    (s.pageMoves.filter fun p => !isBulk p.new).map (fun p => p.new) ++ s.retired.filter fun a => !isBulk a).dedup

/-- Bulk pages in use, with their bytes. -/
def State.usedBulk (s : State) : List (Nat × Nat) :=
  (((s.maps.filter fun m => m.tier == .bulk).map fun m => m.pages.map fun a => (a, m.psize)).flatten ++
    (s.pageMoves.filter fun p => isBulk p.new).map (fun p => (p.new, p.size)) ++
    (s.retired.filter fun a => isBulk a).map fun a => (a, bigPage)).dedup

/-- Free pages of a stack site. -/
def State.freeStack (s : State) (site : Nat) : Nat :=
  sitePages - (s.usedStack.filter fun a => unitOf a == site).length

/-- Frames of `size` bytes of a package that no page in use touches. -/
def State.freeFrames (s : State) (pkg size : Nat) : Nat :=
  let touched := ((s.usedBulk.filter fun p => unitOf p.1 == pkg).map fun p =>
    (List.range (cdiv p.2 size)).map fun i => (p.1 - bulkAddr pkg 0) / size + i).flatten
  packageBytes / size - touched.dedup.length

/-- Free pages of a unit of a tier, in pages of `size` bytes. -/
def State.freeIn (s : State) (t : Tier) (size u : Nat) : Nat :=
  match t with
  | .stack => s.freeStack u
  | .bulk => s.freeFrames u size

/-- The first of the `n` positions from `start` on, around the end, that passes. -/
def findFrom (n start : Nat) (ok : Nat → Bool) : Option Nat :=
  match (List.range n).find? fun i => ok ((start + i) % n) with
  | some i => some ((start + i) % n)
  | none => none

/-- A free page of a unit: which one is the firmware's choice (log entry 4). -/
def State.takePage (s : State) (t : Tier) (size u : Nat) : Option (Nat × State) :=
  match t with
  | .stack =>
    let used := s.usedStack
    let (c, s1) := s.choose sitePages
    (findFrom sitePages c fun i => !used.contains (stackAddr u (i * bigPage))).map fun i =>
      (stackAddr u (i * bigPage), s1)
  | .bulk =>
    let used := s.usedBulk.filter fun p => unitOf p.1 == u
    let n := packageBytes / size
    let (c, s1) := s.choose n
    (findFrom n c fun i =>
      let a := bulkAddr u (i * size)
      used.all fun p => decide (p.1 + p.2 ≤ a) || decide (a + size ≤ p.1)).map fun i => (bulkAddr u (i * size), s1)

/-! ### Firmware objects (R758) -/

/-- A piece of 64 KiB whose bytes become unspecified. -/
def State.smudge (s : State) (a : Nat) : State :=
  { s with wr := .smudge a s.free :: s.wr, free := s.free + smallPage }

/-- A page given to the firmware: its bytes become unspecified (log entry 10). -/
def State.smudgePage (s : State) (a : Nat) : State :=
  (List.range (bigPage / smallPage)).foldl (fun t i => t.smudge (a + i * smallPage)) s

/-- One more stack page for the firmware, from a site with free pages. -/
def State.addFwPage (s : State) : Option State :=
  let cand := s.siteList.filter fun u => decide (0 < s.freeStack u)
  if cand.isEmpty then none
  else
    let (i, s1) := s.choose cand.length
    (s1.takePage .stack bigPage (cand.getD i 0)).map fun r =>
      { r.2.smudgePage r.1 with fwPages := r.2.fwPages ++ [r.1] }

/-- `n` more pages. -/
def State.addFwPages : Nat → State → Option State
  | 0, s => some s
  | n + 1, s => s.addFwPage.bind (State.addFwPages n)

/-- The firmware's pages brought to what its objects need, packed without gaps (log entry 16); none when no free stack
page remains. -/
def State.fitFw (s : State) : Option State :=
  let need := cdiv s.fwBytes bigPage
  if need ≤ s.fwPages.length then some { s with fwPages := s.fwPages.take need }
  else State.addFwPages (need - s.fwPages.length) s

/-- Bytes charged to a context's stack-tier allotment (R417, R758). -/
def State.stackCharge (s : State) (c : Ctx) : Nat :=
  ((s.maps.filter fun m => m.charged == c.num && m.source.isNone && m.tier == .stack).foldl
      (fun a m => a + m.psize * m.pages.length) 0) +
    bigPage * c.savePages.length +
    ((s.maps.filter fun m => m.ctx == c.num).foldl (fun a m => a + 8 * m.pages.length) 0) +
    ((s.seqs.filter fun q => q.ctx == c.num).foldl (fun a q => a + 48 * q.hkv * q.cap) 0) +
    128 * (s.entries.filter fun e => e.ctx == c.num).length

/-- Bytes charged to a context's bulk-tier allotment (R417). -/
def State.bulkCharge (s : State) (c : Ctx) : Nat :=
  (s.maps.filter fun m => m.charged == c.num && m.source.isNone && m.tier == .bulk).foldl
    (fun a m => a + m.psize * m.pages.length) 0

/-- Whether further charges fit a context's allotments. -/
def State.fits (s : State) (n stack bulk : Nat) : Bool :=
  match s.ctx? n with
  | none => false
  | some c =>
    decide (s.stackCharge c + stack ≤ c.stackAllot) && decide (s.bulkCharge c + bulk ≤ c.bulkAllot)

/-! ### MEM_MAP (R360 to R363, R366) -/

/-- A new range of a context would overlap a mapping of it. -/
def State.overlaps (s : State) (n va len : Nat) : Bool :=
  s.maps.any fun m => m.ctx == n && decide (m.base < va + len) && decide (va < m.base + m.length)

/-- The first units of R361 for which every unit of the rotation has free pages for its share. -/
def firstUnits (units : List Nat) (n : Nat) (free : Nat → Nat) : List Nat :=
  let k := units.length
  (List.range k).filter fun j =>
    (List.range (min k n)).all fun i =>
      let u := units.getD ((j + i) % k) 0
      decide (cdiv (n - i) k ≤ free u)

/-- Pages taken one by one from the units a rotation names. -/
def State.takePages (t : Tier) (size : Nat) : List Nat → State → Option (List Nat × State)
  | [], s => some ([], s)
  | u :: us, s =>
    match s.takePage t size u with
    | none => none
    | some (a, s1) =>
      let used : Mapping :=
        { id := s1.nextMap, ctx := 1024, base := 0, length := size, tier := t, psize := size, readOnly := false,
          pages := [a], charged := 1024, source := none }
      (State.takePages t size us { s1 with maps := s1.maps ++ [used] }).map fun r => (a :: r.1, r.2)

/-- Pages for an allocate: the rotation over the present units, or the one unit of PLACE (R361). -/
def State.allocPages (s : State) (t : Tier) (size place n : Nat) : Option (List Nat × State) :=
  let units := if place ≠ 0xFF then [place] else match t with
    | .stack => s.siteList
    | .bulk => s.pkgList
  let js := firstUnits units n (s.freeIn t size)
  if js.isEmpty then none
  else
    let (i, s1) := s.choose js.length
    let j := js.getD i 0
    let order := (List.range n).map fun p => units.getD ((j + p) % units.length) 0
    (State.takePages t size order s1).map fun r => (r.1, { r.2 with maps := s.maps })

/-- A body of MEM_MAP allocate keeps Table 1 of 08. -/
def mapAllocateOk (b : Bytes) : Bool :=
  let tier := (byteAt b 1).toNat
  let page := (byteAt b 2).toNat
  let place := (byteAt b 4).toNat
  let size := if page = 1 then smallPage else bigPage
  decide (tier ≤ 1) && decide (page ≤ tier) && decide ((byteAt b 3).toNat ≤ 3) &&
    (place == 0xFF || decide (place < (if tier = 0 then 8 else 32))) && leAt b 12 4 == 0 && leAt b 32 8 == 0 &&
    leAt b 16 8 % size == 0 && decide (0 < leAt b 24 8) && leAt b 24 8 % size == 0 &&
    decide (leAt b 16 8 + leAt b 24 8 ≤ 2 ^ 48)

/-- MEM_MAP allocate carried out; with ZERO the reply waits until the movers have filled every page (R361, R366, R385). -/
def carryMapAllocate (s : State) (m : Msg) : Carried :=
  let b := m.body
  let t := if byteAt b 1 = 0 then Tier.stack else Tier.bulk
  let size := if byteAt b 2 = 1 then smallPage else bigPage
  let n := leAt b 8 4
  let va := leAt b 16 8
  let len := leAt b 24 8
  let pages := len / size
  let fl := (byteAt b 3).toNat
  if !mapAllocateOk b || s.overlaps n va len then refuse s Err.mapInvalid
  else if !s.fits n (8 * pages + if t = .stack then len else 0) (if t = .bulk then len else 0) then
    refuse s Err.mapAllotment
  else
    match s.allocPages t size (byteAt b 4).toNat pages with
    | none => refuse s Err.mapCapacity
    | some (ps, s1) =>
      let mp : Mapping :=
        { id := s1.nextMap, ctx := n, base := va, length := len, tier := t, psize := size, readOnly := bitOf fl 0,
          pages := ps, charged := n, source := none }
      match ({ s1 with maps := s1.maps ++ [mp], nextMap := s1.nextMap + 1 }).fitFw with
      | none => refuse s Err.mapCapacity
      | some s2 =>
        let reply := leBytes 4 pages ++ leBytes 1 (unitOf (ps.getD 0 0))
        if bitOf fl 1 then .wait (s2.addFwJob (.fill mp.id ps size m.seq reply) (len / smallPage)) else accept s2 reply

/-- MEM_MAP allocate: new pages for a context (R361). -/
def execMemMapAllocate (slot : SlotRef) (s : State) : Host.Outcome State Fault Refusal :=
  done s (s.takeRow slot .mapAllocate carryMapAllocate)

/-- The parts of a shared range, one for each source mapping: mapping, offset in it, length (R362). -/
def State.shareParts (s : State) (src : Nat) : Nat → Nat → Nat → Option (List (Mapping × Nat × Nat))
  | 0, _, len => if len = 0 then some [] else none
  | fuel + 1, va, len =>
    if len = 0 then some []
    else
      match s.mapping? src va with
      | none => none
      | some m =>
        let n := min len (m.base + m.length - va)
        (s.shareParts src fuel (va + n) (len - n)).map fun r => (m, va - m.base, n) :: r

/-- An alias made while an unmap of its source waits: the unmap takes it too, and waits for the commands of the receiving
context that began before the unmap was accepted (R364, R365). -/
def State.joinUnmaps (s : State) (n : Nat) (ms : List Mapping) : State :=
  let begun := ((s.ctx? n).elim [] fun c => c.begun)
  { s with unmaps := s.unmaps.map fun u =>
      let ids := (ms.filter fun m => m.source.any fun k => u.ids.contains k).map fun m => m.id
      if ids.isEmpty then u
      else
        { u with ids := u.ids ++ ids, affected := if u.affected.contains n then u.affected else u.affected ++ [n],
                 waits := (u.waits ++ (begun.filter fun b => decide (b.ord < u.ord)).map fun b => (n, b.ord)).dedup } }

/-- The mapping a part makes at an address of the receiving context. -/
def sharePart (id n va : Nat) (ro : Bool) (p : Mapping × Nat × Nat) : Mapping :=
  { id := id, ctx := n, base := va, length := p.2.2, tier := p.1.tier, psize := p.1.psize,
    readOnly := ro || p.1.readOnly, pages := (p.1.pages.drop (p.2.1 / p.1.psize)).take (p.2.2 / p.1.psize),
    charged := p.1.charged, source := some p.1.id }

/-- The mappings of a share, at rising addresses and ids. -/
def shareMaps (n : Nat) (ro : Bool) : Nat → Nat → List (Mapping × Nat × Nat) → List Mapping
  | _, _, [] => []
  | id, va, p :: ps => sharePart id n va ro p :: shareMaps n ro (id + 1) (va + p.2.2) ps

/-- Every part is aligned to its page size at both ends and at both addresses (R362). -/
def partsAligned : Nat → List (Mapping × Nat × Nat) → Bool
  | _, [] => true
  | va, p :: ps =>
    p.2.1 % p.1.psize == 0 && p.2.2 % p.1.psize == 0 && va % p.1.psize == 0 && partsAligned (va + p.2.2) ps

/-- MEM_MAP share carried out (R362, R366). -/
def carryMapShare (s : State) (m : Msg) : Carried :=
  let b := m.body
  let n := leAt b 8 4
  let src := leAt b 12 4
  let va := leAt b 16 8
  let len := leAt b 24 8
  let fl := (byteAt b 3).toNat
  let bad := byteAt b 1 != 0 || byteAt b 2 != 0 || byteAt b 4 != 0 || decide (fl > 1) || len == 0 ||
    decide (va + len > 2 ^ 48) || decide (leAt b 32 8 + len > 2 ^ 48)
  if bad then refuse s Err.mapInvalid
  else
    match s.shareParts src (s.maps.length + 1) (leAt b 32 8) len with
    | none => refuse s Err.mapInvalid
    | some ps =>
      if !partsAligned va ps || s.overlaps n va len then refuse s Err.mapInvalid
      else
        let ms := shareMaps n (bitOf fl 0) s.nextMap va ps
        let pages := ms.foldl (fun a x => a + x.pages.length) 0
        if !s.fits n (8 * pages) 0 then refuse s Err.mapAllotment
        else
          match ({ s with maps := s.maps ++ ms, nextMap := s.nextMap + ms.length }).fitFw with
          | none => refuse s Err.mapCapacity
          | some s2 =>
            accept ((s2.joinUnmaps n ms).settle) (leBytes 4 pages ++ leBytes 1 (unitOf ((ms.map fun x => x.pages).flatten.getD 0 0)))

/-- MEM_MAP share: another context's pages mapped (R362). -/
def execMemMapShare (slot : SlotRef) (s : State) : Host.Outcome State Fault Refusal :=
  done s (s.takeRow slot .mapShare carryMapShare)

/-! ### MEM_UNMAP (R364, R365) -/

/-- The work copies to a page. -/
def FwWork.copiesTo (w : FwWork) (page : Nat) : Bool :=
  match w with
  | .copy _ new => new == page
  | _ => false

/-- The copies that some mapping still waits for; the others are over, their pages free or mapped (R402). -/
def State.pruneMoves (s : State) : State :=
  let keep (p : PendingPage) : Bool := s.maps.any fun m => m.pages.contains p.old
  let past := s.pageMoves.filter fun p => !keep p
  { s with pageMoves := s.pageMoves.filter keep,
           jobs := s.jobs.filter fun j => !(past.any fun p => j.fw.any fun w => w.work.copiesTo p.new) }

/-- Mappings taken away; their pages are free once no mapping holds them. -/
def State.removeMaps (s : State) (f : Mapping → Bool) : State :=
  ({ s with maps := s.maps.filter fun m => !f m }).pruneMoves.shrinkFw

/-- The commands an unmap still waits for in a context. -/
def State.stillBegun (s : State) (waits : List (Nat × Nat)) (c : Nat) : Bool :=
  waits.any fun w => w.1 == c && (s.begunOf c).contains w

/-- One unmap applied to one context, and replied once every affected context has it (R365). -/
def State.applyUnmap (s : State) (u : PendingUnmap) (c : Nat) : State :=
  let ids := s.closureOf u.ids
  let u1 := { u with ids := ids, affected := u.affected.filter fun x => x != c }
  let s1 := (s.removeMaps fun m => ids.contains m.id && m.ctx == c)
  let rest := s1.unmaps.map fun x => if x.seq = u.seq then u1 else x
  if u1.affected.isEmpty then
    (({ s1 with unmaps := rest.filter fun x => x.seq != u.seq }).replyWaiting u.seq Err.success
      (replyBody (leBytes 4 u.pages))).settle
  else ({ s1 with unmaps := rest }).settle

/-- MEM_UNMAP carried out: removed at once where no begun command of an affected context stands (R365). -/
def carryMemUnmap (s : State) (m : Msg) : Carried :=
  let b := m.body
  let n := leAt b 0 4
  let va := leAt b 8 8
  let len := leAt b 16 8
  if va % smallPage ≠ 0 ∨ !vaOk va ∨ len = 0 ∨ len % smallPage ≠ 0 then refuse s Err.mapInvalid
  else
    let own := s.maps.filter fun x => x.ctx == n && decide (va ≤ x.base) && decide (x.base + x.length ≤ va + len)
    let ids := s.closureOf (own.map fun x => x.id)
    let pages := own.foldl (fun a x => a + x.pages.length) 0
    let aff := s.holdersOf ids
    let waits := (aff.map s.begunOf).flatten
    if waits.isEmpty then
      accept (s.removeMaps fun x => ids.contains x.id) (leBytes 4 pages)
    else
      let clear := aff.filter fun c => (s.begunOf c).isEmpty
      let s1 := s.removeMaps fun x => ids.contains x.id && clear.contains x.ctx
      let u : PendingUnmap :=
        { ctx := n, ids := ids, pages := pages, waits := waits, affected := aff.filter fun c => !clear.contains c,
          seq := m.seq, ord := s.ord }
      .wait ({ s1 with unmaps := s1.unmaps ++ [u] }).settle

/-- MEM_UNMAP: removes every mapping of a context that lies wholly within a range (R364). -/
def execMemUnmap (slot : SlotRef) (s : State) : Host.Outcome State Fault Refusal :=
  done s (s.takeRow slot .memUnmap carryMemUnmap)

/-- The unmap a context may now take: every command of it that began before has ended (R365). -/
def State.readyUnmap (s : State) (c : Nat) : Option PendingUnmap :=
  s.unmaps.find? fun u => u.affected.contains c && !s.stillBegun u.waits c

/-- MEM_UNMAP_APPLY: a waiting unmap applied to one affected context (R365). -/
def execMemUnmapApply (ctx : Nat) (s : State) : Host.Outcome State Fault Refusal :=
  done s (if !s.running then s else
    match s.readyUnmap ctx with
    | none => s
    | some u => s.applyUnmap u ctx)

end Sys2Proof.Machine
end

