-- ==== Sys2Proof/Machine/Contexts.lean ====
section
/-! DEFINITION. Partitions, the life of a context, command lists and capabilities (09, R411 to R424, R449; 10, R507 to
R522). -/
namespace Sys2Proof.Machine

open Sys2Proof

/-! ### Partitions (R411 to R414, R420) -/

/-- Mask `p` of a PARTITION_SET body. -/
def bodyMask (b : Bytes) (p : Nat) : BitVec 128 := BitVec.ofNat 128 (leAt b (8 + 16 * p) 16)

/-- The cores that exist on the module (R1, R7); a withdrawn core exists until the next start (R666). -/
def State.coreMask (s : State) : BitVec 128 :=
  (List.range 128).foldl (fun m i =>
    if (s.cores.getD i (Core.reset false)).present then m ||| BitVec.twoPow 128 i else m) 0

/-- R413, the reserved bytes apart. -/
def State.partitionBad (s : State) (b : Bytes) : Bool :=
  let n := (byteAt b 0).toNat
  let ms := (List.range 8).map (bodyMask b)
  n == 0 || decide (n > 8) || (ms.drop n).any (fun m => m != 0) || (ms.take n).any (fun m => m == 0) ||
    (ms.take n).any (fun m => m &&& ~~~s.coreMask != 0) ||
    ((List.range n).any fun i => (List.range i).any fun j => bodyMask b i &&& bodyMask b j != 0) ||
    s.ctxs.any fun c => decide (n ≤ c.partition)

/-- Present cores of a mask. -/
def State.maskCores (s : State) (m : BitVec 128) : Nat :=
  ((List.range 128).filter fun i => m.getLsbD i && (s.cores.getD i (Core.reset false)).here).length

/-- Pages of a save area for so many cores (R418). -/
def savePagesFor (cores : Nat) : Nat := cdiv (cores * 10747904) bigPage

/-- Stack pages set aside for a context's save area, from any sites with free pages (R418). -/
def State.takeSavePages : Nat → State → Option (List Nat × State)
  | 0, s => some ([], s)
  | n + 1, s =>
    let cand := s.siteList.filter fun u => decide (0 < s.freeStack u)
    if cand.isEmpty then none
    else
      let (i, s1) := s.choose cand.length
      match s1.takePage .stack bigPage (cand.getD i 0) with
      | none => none
      | some (a, s2) =>
        let s3 := (s2.smudgePage a)
        (State.takeSavePages n { s3 with fwPages := a :: s3.fwPages }).map fun r => (a :: r.1, r.2)

/-- A context's save area enlarged to `n` pages; none where its allotment or the free pages do not allow it. -/
def State.growSave (s : State) (c : Ctx) (n : Nat) : Option State :=
  let more := n - c.savePages.length
  if more = 0 then some s
  else if !s.fits c.num (more * bigPage) 0 then none
  else
    (State.takeSavePages more s).map fun r =>
      ({ r.2 with fwPages := s.fwPages }).updCtx c.num fun x => { x with savePages := x.savePages ++ r.1 }

/-- Every save area of an enlarged partition enlarged (R420). -/
def State.growSaves (s : State) (masks : List (BitVec 128)) : List Ctx → Option State
  | [] => some s
  | c :: cs =>
    if c.savePages.isEmpty then s.growSaves masks cs
    else
      match s.growSave c (savePagesFor (s.maskCores (masks.getD c.partition 0))) with
      | none => none
      | some t => t.growSaves masks cs

/-- A turn for each partition. -/
def turnsFor (n : Nat) (old : List Turn) : List Turn :=
  (List.range n).map fun i => old.getD i { holder := none, last := 1023, overran := false }

/-- Partition of a core in a list of masks. -/
def partOf (masks : List (BitVec 128)) (core : Nat) : Option Nat :=
  (List.range masks.length).find? fun p => (masks.getD p 0).getLsbD core

/-- A PARTITION_SET applied: the masks change, and a core it moves raises its epoch (R414, R456). -/
def State.applyPartition (s : State) (masks : List (BitVec 128)) : State :=
  let cores := s.cores.mapIdx fun i c =>
    if partOf s.partitions i = partOf masks i then c else { c with epoch := c.epoch + 1 }
  { s with partitions := masks, turns := turnsFor masks.length s.turns, cores := cores, partWait := none }

/-- A core command of the context is begun and not ended (R414). -/
def State.coreBegun (s : State) (n : Nat) : Bool := (s.ctx? n).any fun c => c.begun.any fun b => b.core

/-- PARTITION_SET carried out: applied at once where no core command stands in the way (R413, R414, R420). -/
def carryPartitionSet (s : State) (m : Msg) : Carried :=
  if s.partitionBad m.body then refuse s Err.partitionInvalid
  else
    let masks := (List.range (byteAt m.body 0).toNat).map (bodyMask m.body)
    let changed := s.ctxs.filter fun c => s.partitions.getD c.partition 0 != masks.getD c.partition 0
    match s.growSaves masks changed with
    | none => refuse s Err.ctxAllotment
    | some s1 =>
      if changed.any fun c => s1.coreBegun c.num then
        let w : PendingPartition := { seq := m.seq, masks := masks, affected := changed.map fun c => c.num }
        .wait ({ s1 with partWait := some w }).settle
      else accept (s1.applyPartition masks).settle []

/-- PARTITION_SET (R413). -/
def execPartitionSet (slot : SlotRef) (s : State) : Host.Outcome State Fault Refusal :=
  done s (s.takeRow slot .partitionSet carryPartitionSet)

/-- PARTITION_APPLY: the waiting change applied once no core command of an affected context is begun (R414). -/
def State.partitionApply (s : State) : State :=
  match s.partWait with
  | none => s
  | some p =>
    if !s.running ∨ p.affected.any (fun n => s.coreBegun n) then s
    else ((s.applyPartition p.masks).replyWaiting p.seq Err.success (zeros 240)).settle

/-- PARTITION_APPLY (R414). -/
def execPartitionApply (s : State) : Host.Outcome State Fault Refusal := done s s.partitionApply

/-! ### Contexts (R415 to R424) -/

/-- A mailbox given to a port for a context: four slots of zeros. -/
def State.openBox (s : State) (p n : Nat) : State :=
  s.updPort p fun q =>
    { q with boxes := (n, List.replicate 4 Slot.zero) :: q.boxes.filter fun b => b.1 != n }

/-- A message whose reply is discarded when it came from a mailbox that is released (R505). -/
def Msg.drop (p n : Nat) (m : Msg) : Msg :=
  if m.port == p && m.box == some n then { m with discard := true } else m

/-- A context's mailbox released on a port: its sealed slots are discarded, and replies of messages taken from it are
too (R505). -/
def State.closeBox (s : State) (p n : Nat) : State :=
  let s1 := s.updPort p fun q => { q with boxes := q.boxes.filter fun b => b.1 != n }
  { s1 with ccx := { s1.ccx with msgs := s1.ccx.msgs.map (Msg.drop p n) } }

/-- A CTX_CREATE body keeps Table 2 of 09, its context number apart. -/
def State.createOk (s : State) (b : Bytes) : Bool :=
  let slice := leAt b 8 4
  decide ((byteAt b 4).toNat < s.partitions.length) && decide ((byteAt b 5).toNat ≤ 1) &&
    decide ((byteAt b 6).toNat ≤ 3) && decide ((byteAt b 7).toNat ≤ 2) &&
    (slice == 0 || (decide (500 ≤ slice) && decide (slice ≤ 100000))) &&
    decide ((byteAt b 12).toNat < 4) && (s.port (byteAt b 12).toNat).present && decide (leAt b 14 2 ≤ 2047) &&
    leAt b 16 8 % bigPage == 0 && leAt b 24 8 % smallPage == 0

/-- The lowest free context number. -/
def State.freeCtx (s : State) : Option Nat := (List.range 1024).find? fun n => (s.ctx? n).isNone

/-- A new context (R416 to R421, R456); one whose home port is frozen or has its link down is PAUSED (R30, R32). -/
def newCtx (n : Nat) (b : Bytes) (ord : Nat) (paused : Bool) : Ctx :=
  { num := n, state := if paused then .paused else .idle, step := byteAt b 5 == 1, partition := (byteAt b 4).toNat, home := (byteAt b 12).toNat,
    vector := leAt b 14 2, grants := [((byteAt b 12).toNat, leAt b 14 2)], nanTrap := (byteAt b 6).getLsbD 0,
    savePages := [], policy := if byteAt b 7 = 2 then 2 else 1, sliceUs := if leAt b 8 4 = 0 then 4000 else leAt b 8 4,
    stackAllot := leAt b 16 8, bulkAllot := leAt b 24 8, resident := false, stateSince := ord, lastBegan := 0,
    debtUs := 0, list := none, begun := [], records := [], nanCount := 0, cls := 0, busy := 0, interfere := 0,
    turnBusy := 0, turnIntf := 0, turnOthers := [], slowdown := fone, topOther := 0xFFFFFFFF, fault := FaultRec.none,
    build := none, mailbox := true, closing := [] }

/-- CTX_CREATE carried out, its checks in the order of R419. -/
def carryCtxCreate (s : State) (m : Msg) : Carried :=
  let b := m.body
  let n := leAt b 0 4
  let named := n ≠ 0xFFFFFFFF
  if !s.createOk b || (named && (decide (n ≥ 1024) || (s.ctx? n).isSome)) then refuse s Err.ctxInvalid
  else
    let num := if named then some n else s.freeCtx
    match num with
    | none => refuse s Err.ctxLimit
    | some n =>
      let home := (byteAt b 12).toNat
      if s.grantCount home ≥ 256 then refuse s Err.ctxLimit
      else
        let x := newCtx n b s.ord (!(s.port home).answers)
        let s1 := { s with ctxs := s.ctxs ++ [x] }.tick
        let want := if (byteAt b 6).getLsbD 1 then savePagesFor (s.partCores (byteAt b 4).toNat).length else 0
        match s1.growSave x want with
        | none => refuse s Err.ctxAllotment
        | some s2 =>
          let s3 := (s2.raiseCtxEpoch n).openBox home n
          let s4 := { s3 with plt := { s3.plt with
            ctxUj := (n, 0) :: s3.plt.ctxUj.filter (fun x => x.1 != n),
            destroyed := s3.plt.destroyed.filter fun x => x != n } }
          accept s4 (leBytes 4 n ++ leBytes 4 (s4.ctxEpoch n).toNat)

/-- CTX_CREATE (R419). -/
def execCtxCreate (slot : SlotRef) (s : State) : Host.Outcome State Fault Refusal :=
  done s (s.takeRow slot .ctxCreate carryCtxCreate)

/-- CTX_GRANT with GOP 0 carried out (R421). -/
def carryCtxGrant (s : State) (m : Msg) : Carried :=
  let b := m.body
  let n := leAt b 0 4
  let p := (byteAt b 4).toNat
  let v := leAt b 6 2
  if p ≥ 4 ∨ !(s.port p).present ∨ v > 2047 ∨ s.holds p n then refuse s Err.ctxInvalid
  else if s.grantCount p ≥ 256 then refuse s Err.ctxLimit
  else accept ((s.updCtx n fun c => { c with grants := c.grants ++ [(p, v)] }).openBox p n) []

/-- CTX_GRANT, a grant added (R421). -/
def execCtxGrant (slot : SlotRef) (s : State) : Host.Outcome State Fault Refusal :=
  done s (s.takeRow slot .ctxGrant carryCtxGrant)

/-- CTX_GRANT with GOP 1 carried out (R421, R548). -/
def carryCtxRevoke (s : State) (m : Msg) : Carried :=
  let b := m.body
  let n := leAt b 0 4
  let p := (byteAt b 4).toNat
  let home := match s.ctx? n with
    | some c => c.home
    | none => p
  if p = home ∨ !s.holds p n then refuse s Err.ctxInvalid
  else
    let s1 := s.updCtx n fun c => { c with grants := c.grants.filter fun g => g.1 != p }
    accept ((s1.closeBox p n).disarmSegs n (some p)) []

/-- CTX_GRANT, a grant removed (R421). -/
def execCtxRevoke (slot : SlotRef) (s : State) : Host.Outcome State Fault Refusal :=
  done s (s.takeRow slot .ctxRevoke carryCtxRevoke)

/-- The items of a build whose owner's number is freed belong to no context any more (R446). -/
def disown (n : Nat) (build : Option (List BuildItem)) : Option (List BuildItem) :=
  build.map fun l => l.map fun b => if b.ctx = n then { b with ctx := 1024 } else b

/-- A context whose commands no longer know the owner of a number. -/
def Ctx.disown (n : Nat) (c : Ctx) : Ctx :=
  { c with build := Machine.disown n c.build,
           begun := c.begun.map fun b => { b with build := Machine.disown n b.build } }

/-- A DEAD context's number freed: its grants go, and its energy passes into the bucket (R423, R446, R683). -/
def State.freeNumber (s : State) (n : Nat) : State :=
  let s1 := (List.range 4).foldl (fun t p => t.closeBox p n) s
  (({ s1 with ctxs := (s1.ctxs.filter fun (c : Ctx) => c.num != n).map (Ctx.disown n),
              plt := { s1.plt with destroyed := s1.plt.destroyed ++ [n] } }).disarmSegs n none).settle

/-- CTX_DESTROY carried out: a DEAD context's number is freed at once, any other is torn down first (R423). -/
def carryCtxDestroy (s : State) (m : Msg) : Carried :=
  let n := leAt m.body 0 4
  match s.ctx? n with
  | none => refuse s Err.ctxInvalid
  | some c => if c.state = .dead then accept (s.freeNumber n) [] else .wait (s.beginTearDown n)

/-- CTX_DESTROY (R423). -/
def execCtxDestroy (slot : SlotRef) (s : State) : Host.Outcome State Fault Refusal :=
  done s (s.takeRow slot .ctxDestroy carryCtxDestroy)

/-! ### The end of a tear-down (Table 8 of 09, steps 3 to 8) -/

/-- Requests of a peer's session and those that wait for one. -/
def Peer.reqs (p : Peer) : List Req :=
  match p.session with
  | some q => q.reqs ++ p.waiting
  | none => p.waiting

/-- Requests of a context not yet acknowledged (R649). -/
def State.openReqs (s : State) (n : Nat) : Bool :=
  s.fab.peers.any fun p => (p.reqs.any fun r => r.ctx == n && !r.acked)

/-- The context's dealt mover chunks that wait for a host have all ended. -/
def State.readsOut (s : State) (n : Nat) : Bool :=
  s.hostReads.any fun r => r.current s && s.jobs.any fun j => j.id == r.job && j.ctx == n

/-- A begun command of another context with one of these ordinals. -/
def State.ordsBegun (s : State) (n : Nat) (ords : List Nat) : Bool :=
  s.ctxs.any fun c => c.num != n && c.begun.any fun b => ords.contains b.ord

/-- Entries of a torn-down context: finished ones are freed, active ones become closing (Table 8 of 09, step 6). -/
def State.closeEntries (s : State) (n : Nat) : State :=
  { s with entries := (s.entries.filter fun e => !(e.ctx == n && e.state == .finished)).map fun e =>
      if e.ctx = n ∧ e.state = .active then { e with state := .closing } else e }

/-- Sequences of a torn-down context: gone, or held by the walks on them (R270). -/
def State.closeSeqs (s : State) (n : Nat) : State :=
  let t : State := { s with seqs := s.seqs.map fun q => if q.ctx = n then { q with gone := true } else q }
  t.dropWalks fun _ => false

/-- Steps 3 to 8 of a tear-down (Table 8 of 09). -/
def State.finishTearDown (s : State) (n : Nat) : State :=
  let own := (s.maps.filter fun m => m.ctx == n).map fun m => m.id
  let ids := s.closureOf own
  let jobs := (s.jobs.filter fun j => j.ctx == n).map fun j => j.id
  let s1 := { s with maps := s.maps.filter (fun m => !ids.contains m.id),
                     jobs := s.jobs.filter (fun j => j.ctx != n), held := s.held.filter fun h => !jobs.contains h.job }
  let s2 := (s1.closeSeqs n).closeEntries n
  let s3 := (List.range 4).foldl (fun t p => t.closeBox p n) s2
  let s4 := (s3.setCtxState n .dead).updCtx n fun c =>
    { c with savePages := [], resident := false, mailbox := false, closing := [] }
  s4.pruneMoves.shrinkFw.settle

/-- TEARDOWN_FINISH: its occasion is a CLOSING context whose chunks and requests have ended and whose pages no begun
command of another context aliases (R449); a CTX_DESTROY that waits is then replied (R423). -/
def State.teardownFinish (s : State) (n : Nat) : State :=
  match s.ctx? n with
  | none => s
  | some c =>
    if !s.running ∨ c.state ≠ .closing ∨ s.readsOut n ∨ s.openReqs n ∨ s.ordsBegun n c.closing then s
    else
      let s1 := s.finishTearDown n
      match s1.ccx.msgs.find? fun m => m.opcode == 0x0304 && m.state == .waiting && leAt m.body 0 4 == n with
      | none => s1
      | some m => (s1.freeNumber n).replyWaiting m.seq Err.success (zeros 240)

/-- TEARDOWN_FINISH (R449). -/
def execTeardownFinish (ctx : Nat) (s : State) : Host.Outcome State Fault Refusal := done s (s.teardownFinish ctx)

/-! ### Command lists (R507 to R511) -/

/-- LIST_CAP is a power of two from 64 to 1,048,576 (Table 7 of 10). -/
def capOk (n : Nat) : Bool := (List.range 15).any fun i => n == 2 ^ (i + 6)

/-- LIST_SET carried out (R508, R509). -/
def carryListSet (s : State) (m : Msg) : Carried :=
  let b := m.body
  let n := leAt b 0 4
  let base := leAt b 8 8
  let cap := leAt b 16 4
  let start : Word := BitVec.ofNat 32 (leAt b 20 4)
  match s.ctx? n with
  | none => refuse s Err.listInvalid
  | some c =>
    let appended : Bool := match c.list with
      | some l => l.stop != l.done
      | none => false
    if base % 4096 ≠ 0 ∨ !vaOk base ∨ !capOk cap ∨ !s.mapped n base (cap * 128) ∨ !c.begun.isEmpty ∨ appended then
      refuse s Err.listInvalid
    else
      let l : CmdList :=
        { base := base, cap := cap, start := start, stop := start, next := start, begun := start, done := start,
          ended := [] }
      accept (s.updCtx n fun c => { c with list := some l }).settle []

/-- LIST_SET: a context's ring (R508). -/
def execListSet (slot : SlotRef) (s : State) : Host.Outcome State Fault Refusal :=
  done s (s.takeRow slot .listSet carryListSet)

/-- LIST_EXTEND carried out (R509 to R511). -/
def carryListExtend (s : State) (m : Msg) : Carried :=
  let n := leAt m.body 0 4
  let stop : Word := BitVec.ofNat 32 (leAt m.body 4 4)
  match (s.ctx? n).bind fun c => c.list with
  | none => refuse s Err.listInvalid
  | some l =>
    if (stop - l.done).toNat > l.cap ∨ (stop - l.stop).toNat > l.cap then refuse s Err.listOverrun
    else
      let s1 := (s.updCtx n fun c => { c with list := c.list.map fun l => { l with stop := stop } }).settle
      accept s1 (leBytes 4 stop.toNat ++ leBytes 4 l.begun.toNat ++ leBytes 4 l.done.toNat)

/-- LIST_EXTEND: commands appended (R510). -/
def execListExtend (slot : SlotRef) (s : State) : Host.Outcome State Fault Refusal :=
  done s (s.takeRow slot .listExtend carryListExtend)

/-! ### Capabilities (R520 to R522) -/

/-- The running firmware slot. -/
def Store.runningSlot (t : Store) : FwSlot :=
  match t.running with
  | some 1 => t.fw1
  | some _ => t.fw0
  | none => FwSlot.empty

/-- A mask of the positions of a list that pass, as a number. -/
def maskOf {α : Type} (l : List α) (f : α → Bool) : Nat :=
  (l.reverse).foldl (fun a x => 2 * a + bit (f x)) 0

/-- Code of the part (Table 11 of 10). -/
def Part.code : Part → Nat
  | .f => 0
  | .s => 1
  | .l => 2

/-- The site or package of a page is present at this start. -/
def State.unitPresent (s : State) (a : Nat) : Bool :=
  if isBulk a then s.pkgList.contains (unitOf a) else s.siteList.contains (unitOf a)

/-- Retired pages of a tier's present units, in bytes. -/
def State.retiredBytes (s : State) (bulk : Bool) : Nat :=
  bigPage * (s.retired.filter fun a => isBulk a == bulk && s.unitPresent a).length

/-- Bytes of the present packages in use or retired. -/
def State.bulkInUse (s : State) : Nat :=
  (s.usedBulk.filter fun p => s.unitPresent p.1).foldl (fun a p => a + p.2) 0

/-- Bytes of the present sites in use or retired. -/
def State.stackInUse (s : State) : Nat := bigPage * (s.usedStack.filter fun a => s.unitPresent a).length

/-- The first 96 bytes of the capability page (Table 11 of 10). -/
def State.capsHead (s : State) : Bytes :=
  let st := s.siteList.length * 2 ^ 36
  let bk := s.pkgList.length * packageBytes
  leBytes 4 1 ++ leBytes 1 s.part.code ++ leBytes 1 (if s.part = .l then 7 else 15) ++
    leBytes 1 (maskOf s.sites fun x => x.present) ++ leBytes 1 s.split ++
    leBytes 4 (maskOf s.pkgs fun x => x.present) ++ leBytes 4 (maskOf s.exps fun x => x.present) ++
    leBytes 4 (if s.hasFabric then maskOf s.fab.ports fun x => x.present else 0) ++ leBytes 2 0xFFFF ++
    leBytes 2 s.partitions.length ++ leBytes 16 (maskOf s.cores fun x => x.present) ++
    leBytes 4 s.store.runningSlot.version.toNat ++ leBytes 1 (s.store.running.getD 0) ++
    leBytes 1 (s.own.owner.getD 0xFF) ++ leBytes 1 (bit s.ccx.service) ++ zeros 1 ++
    leBytes 8 (st - s.retiredBytes false) ++ leBytes 8 (bk - s.retiredBytes true) ++
    leBytes 8 (st - s.stackInUse) ++ leBytes 8 (bk - s.bulkInUse) ++ leBytes 2 s.ctxs.length ++
    leBytes 2 s.residents.length ++ leBytes 2 s.entries.length ++ zeros 2 ++ leBytes 2 s.plt.capInForce ++
    leBytes 2 s.plt.boardW ++ zeros 4

/-- Byte `i` of the capability page: bytes 96 to 4,095 are zero (R520). -/
def State.capsByte (s : State) (i : Nat) : Byte := byteAt s.capsHead i

/-- QUERY_CAPS carried out (R522). -/
def carryQueryCaps (s : State) (m : Msg) : Carried :=
  let page := (byteAt m.body 0).toNat
  if page > 17 then refuse s Err.capsInvalid
  else
    let head := s.capsHead
    accept s ((List.range 240).map fun i => byteAt head (240 * page + i))

/-- QUERY_CAPS: 240 bytes of the capability page (R522). -/
def execQueryCaps (slot : SlotRef) (s : State) : Host.Outcome State Fault Refusal :=
  done s (s.takeRow slot .queryCaps carryQueryCaps)

end Sys2Proof.Machine
end

