-- ==== Sys2Proof/Machine/Command.lean ====
section
/-! DEFINITION. How a command of a context's list begins, completes and is recorded (09, R425 to R428, R455; 10, R507
to R519; 14, R658 to R660). -/
namespace Sys2Proof.Machine

open Sys2Proof

/-- A command fetched, its header valid. -/
structure Cmd where
  ctx    : Nat
  index  : Word
  desc   : Bytes
  opcode : Byte
  policy : Nat
  irq    : Bool
  cls    : Nat                        -- its own class (R660)
  step   : Bool
  ord    : Nat                        -- ordinal its beginning takes
  fresh  : Bool                       -- it begins now; a command that waited has begun already
  turn   : Nat                        -- the context's turn, R453
  build  : Option (List BuildItem)    -- items of the last STEP_BUILD before it in list order, R25, R466
  list   : Option Bytes := none       -- its operand list, when it was read before a wait (R109)
  deriving DecidableEq, Repr

/-- What the fault record of a command holds when no item is named. -/
def Cmd.fault (k : Cmd) (code : Code) : FaultInfo :=
  { code := code, cmdCtx := k.ctx, cmdIndex := k.index, opcode := k.opcode }

/-- An invalid descriptor: a fault of the issuing context, and the command does not execute (R519). -/
def State.invalid (s : State) (k : Cmd) (code : Code) : State := s.commandFault k.ctx k.build (k.fault code) k.policy

/-- A fault of an item of a command (R24). -/
def State.cmdItemFault (s : State) (k : Cmd) (item : Nat) (code : Code) (detail : Bytes := []) : State :=
  s.itemFaultAt k.ctx k.build item { k.fault code with detail := detail } k.policy

/-- A command's own class: that of its descriptor, or of the last PHASE (R660). -/
def Ctx.classOf (c : Ctx) (d : Bytes) : Nat := (descClass d).getD c.cls

/-- The class in force: the command's own under the limit that stands when its cores start (R660). -/
def State.classInForce (s : State) (cls : Nat) : Nat := max cls s.plt.classLimit

/-- The command a descriptor fetched from a context's list is. -/
def State.cmdAt (s : State) (n : Nat) (c : Ctx) (l : CmdList) (d : Bytes) : Cmd :=
  { ctx := n, index := l.next, desc := d, opcode := descOpcode d, policy := descPolicy d, irq := descIrq d,
    cls := c.classOf d, step := c.step, ord := s.ord, fresh := true, turn := c.turnNo, build := c.build }

/-- The next command of a context fetched and begun by `body` when the row is its kind (R427, R507, R512 to R515, R519).
Where it may not begin, or is of another kind, nothing happens (log entry 2). -/
def State.runCmd (s : State) (n : Nat) (row : Bytes → Bool) (body : State → Ctx → Cmd → State) : State :=
  if !s.running then s
  else
    match s.ctx? n with
    | none => s
    | some c =>
      if c.state ≠ .running ∨ !c.resident then s
      else
        match c.list with
        | none => s
        | some l =>
          if !s.canBegin c then s
          else
            match s.vread n (l.place l.next) 128 with
            | .error _ =>
              s.commandFault n c.build { code := Err.addrNotMapped, cmdCtx := n, cmdIndex := l.next, opcode := 0 } 0
            | .ok d =>
              if !headerOk d then
                s.commandFault n c.build
                  { code := Err.descHeaderInvalid, cmdCtx := n, cmdIndex := l.next, opcode := descOpcode d } 0
              else if !row d then s
              else
                body s c (s.cmdAt n c l d)

/-! ### Cores -/

/-- Ceiling of a class in kHz (Table 1 of 14); P0 has none. -/
def classCeiling (cls : Nat) : Option Nat :=
  match cls with
  | 0 => none
  | 1 => some 700000
  | 2 => some 675000
  | 3 => some 650000
  | 4 => some 625000
  | 5 => some 600000
  | 6 => some 500000
  | _ => some 400000

/-- Frequency of a CUR_MAX code in kHz (Table 2 of 03). -/
def stepKhz (code : BitVec 4) : Nat := 600000 + 12500 * code.toNat

/-- Frequency a core takes for a class (R658). -/
def Core.classKhz (c : Core) (cls : Nat) : Nat :=
  match classCeiling cls with
  | none => stepKhz c.curMax
  | some k => min (stepKhz c.curMax) k

/-- The cores of a context's command occupied, at the frequency of its class (R93, R658 to R660). -/
def State.occupyCores (s : State) (n : Nat) (b : Begun) : State :=
  { s with cores := s.cores.mapIdx fun i c =>
      if b.cores.contains i then
        let f := c.classKhz (s.classInForce b.cls)
        { c.occupy true (BitVec.ofNat 10 n) (BitVec.ofNat 3 b.unitMode) with
            freqKhz := f, changeStall := f != c.freqKhz }
      else c }

/-! ### Beginning and completing -/

/-- The empty statistics record of a command (Table 11 of 09). -/
def Cmd.record (k : Cmd) : CmdRec :=
  { index := k.index, opcode := k.opcode, mode := 0, plan := 0, p := 1, cores := 0, busiest := 0, chainTag := 0,
    partLo := List.replicate 8 0, busy := 0, core := 0, stall := List.replicate 7 0, interfere := 0, nan := 0,
    freq := 0, shares := [] }

/-- A begun command with nothing yet said of it. -/
def Cmd.begun (k : Cmd) : Begun :=
  { index := k.index, ord := k.ord, opcode := k.opcode, desc := k.desc, core := streamOf k.opcode == .core,
    transfer := streamOf k.opcode == .transfer, long := false, preempted := false, irq := k.irq, policy := k.policy,
    outs := [], tensors := [], waiting := false, record := k.record, cls := k.cls, turn := k.turn,
    unitMode := 0, cores := [], build := k.build, hw := { coreSram := none, expSram := none }, list := none }

/-- The rows of a command's items by owning context (R26); those of no item are left out. Log entry 39. -/
def rowShares (c : Ctx) (l : List (Nat × Nat)) : List (Nat × Nat) :=
  (l.filter fun p => p.1 != noItem).map fun p => (c.itemOwner p.1, p.2)

/-- The list moves past a command that begins (CMD_BEGUN, R432). -/
def State.advance (s : State) (k : Cmd) : State :=
  (s.updCtx k.ctx fun c =>
    { c with list := c.list.map fun l => { l with next := l.next + 1, begun := k.index }, lastBegan := s.ord }).tick

/-- CMD_DONE carried over every completed index it meets; `fuel` is the number of completed indices. -/
def doneUpTo : Nat → Word → List Word → Word × List Word
  | 0, d, e => (d, e)
  | fuel + 1, d, e => if e.contains d then doneUpTo fuel (d + 1) (e.filter fun i => i != d) else (d, e)

/-- A completed command entered in the list (CMD_DONE, Table 10 of 09). -/
def CmdList.complete (l : CmdList) (i : Word) : CmdList :=
  let e := l.ended ++ [i]
  let r := doneUpTo e.length l.done e
  { l with done := r.1, ended := r.2 }

/-- The completion of a command: CMD_DONE, its statistics record among the last 64 (R455), its interrupt (R518). -/
def State.complete (s : State) (n : Nat) (i : Word) (r : CmdRec) (irq : Bool) : State :=
  let s1 := s.updCtx n fun c =>
    { c with list := c.list.map fun l => l.complete i, begun := c.begun.filter fun b => b.index != i,
             records := (r :: c.records.filter fun x => x.index != i).take 64 }
  if irq then s1.sendCtxVector n else s1

/-- A command that begins and completes in one step. -/
def State.beginDone (s : State) (k : Cmd) : State :=
  ((s.advance k).complete k.ctx k.index k.record k.irq).settle

/-- A command that begins and stays begun, its cores occupied. -/
def State.beginBegun (s : State) (k : Cmd) (b : Begun) : State :=
  (((s.advance k).occupyCores k.ctx b).updCtx k.ctx fun c => { c with begun := c.begun ++ [b] }).settle

/-- A descriptor of the row's opcode. -/
def isOpcode (op : Nat) (d : Bytes) : Bool := (descOpcode d).toNat == op

/-! ### NOP and PHASE -/

/-- NOP begun (R517, R429). -/
def nopBody (s : State) (_ : Ctx) (k : Cmd) : State :=
  if !zeroRange k.desc 16 128 then s.invalid k Err.descHeaderInvalid else s.beginDone k

/-- NOP: does nothing (R517). -/
def execNop (ctx : Nat) (s : State) : Host.Outcome State Fault Refusal := done s (s.runCmd ctx (isOpcode 15) nopBody)

/-- PHASE begun (R661, R662). -/
def phaseBody (s : State) (_ : Ctx) (k : Cmd) : State :=
  let cls := (byteAt k.desc 16).toNat
  if cls > 7 ∨ byteAt k.desc 2 ≠ 0xFF ∨ !zeroRange k.desc 17 128 then s.invalid k Err.phaseInvalid
  else (s.updCtx k.ctx fun c => { c with cls := cls }).beginDone k

/-- PHASE: the class of later commands with OPCLASS 0xFF (R661). -/
def execPhase (ctx : Nat) (s : State) : Host.Outcome State Fault Refusal :=
  done s (s.runCmd ctx (isOpcode 13) phaseBody)

end Sys2Proof.Machine
end

