-- ==== Sys2Proof/Machine/Mover.lean ====
section
/-! DEFINITION. The movers: MOVE, its segments and chunks, held chunks and host reads (08, R378 to R391; 11, R551 to
R556). -/
namespace Sys2Proof.Machine

open Sys2Proof

/-! ### Addresses (Table 6 of 08) -/

/-- SPACE, PORT, WINDOW and OFFSET of a MOVE address. -/
def maSpace (a : Nat) : Nat := bitsOf a 63 60
def maPort (a : Nat) : Nat := bitsOf a 57 56
def maWin (a : Nat) : Nat := bitsOf a 55 48
def maOff (a : Nat) : Nat := bitsOf a 47 0

/-- A host window address. -/
def maHost (a : Nat) : Bool := maSpace a == 1

/-- The fields of a MOVE address keep Table 6 of 08. -/
def maOk (a : Nat) : Bool :=
  decide (maSpace a ≤ 1) && bitsOf a 59 58 == 0 && (maHost a || (maPort a == 0 && maWin a == 0))

/-! ### Shapes (R380, R381, R385) -/

/-- Bytes of a source row, and of a destination row. -/
def MoveSeg.srcRow (g : MoveSeg) (es : Nat) : Nat := g.len0 * es
def MoveSeg.dstRow (g : MoveSeg) (k : JobKind) (es : Nat) : Nat := (if k = .transpose then g.len1 else g.len0) * es

/-- Rows of a destination plane. -/
def MoveSeg.dstRows (g : MoveSeg) (k : JobKind) : Nat := if k = .transpose then g.len0 else g.len1

/-- Row and plane strides in force (R380, R381, R383). -/
def MoveSeg.srcS1 (g : MoveSeg) (es : Nat) : Nat := if g.ss1 = 0 then g.srcRow es else g.ss1
def MoveSeg.srcS2 (g : MoveSeg) (es : Nat) : Nat := if g.ss2 = 0 then g.len1 * g.srcS1 es else g.ss2
def MoveSeg.dstS1 (g : MoveSeg) (k : JobKind) (es : Nat) : Nat := if g.ds1 = 0 then g.dstRow k es else g.ds1
def MoveSeg.dstS2 (g : MoveSeg) (k : JobKind) (es : Nat) : Nat :=
  if g.ds2 = 0 then g.dstRows k * g.dstS1 k es else g.ds2

/-- Bytes of a COPY or FILL chunk (R385). -/
def chunkBytes : Nat := 65536

/-- Rows or columns of a TRANSPOSE block (R385). -/
def blockSide : Nat := 128

/-- Whole rows of a chunk. -/
def MoveSeg.rowsPer (g : MoveSeg) (es : Nat) : Nat := chunkBytes / g.srcRow es

/-- Chunks of a row that does not fit one. -/
def MoveSeg.perRow (g : MoveSeg) (es : Nat) : Nat := cdiv (g.srcRow es) chunkBytes

/-- Chunks of a segment (R385). -/
def MoveSeg.chunks (g : MoveSeg) (k : JobKind) (es : Nat) : Nat :=
  if k = .transpose then g.len2 * (cdiv g.len1 blockSide * cdiv g.len0 blockSide)
  else if g.srcRow es ≤ chunkBytes then cdiv (g.len1 * g.len2) (g.rowsPer es)
  else g.len1 * g.len2 * g.perRow es

/-- Rows and columns of a TRANSPOSE block: plane, first row, rows, first column, columns. -/
def MoveSeg.block (g : MoveSeg) (c : Nat) : Nat × Nat × Nat × Nat × Nat :=
  let bj := cdiv g.len0 blockSide
  let per := cdiv g.len1 blockSide * bj
  let i0 := c % per / bj * blockSide
  let j0 := c % per % bj * blockSide
  (c / per, i0, min blockSide (g.len1 - i0), j0, min blockSide (g.len0 - j0))

/-- Rows of a COPY or FILL chunk: plane, row, offset in the row, bytes. -/
def MoveSeg.pieces (g : MoveSeg) (es c : Nat) : List (Nat × Nat × Nat × Nat) :=
  let rb := g.srcRow es
  if rb ≤ chunkBytes then
    let n := g.rowsPer es
    (List.range (min n (g.len1 * g.len2 - c * n))).map fun i =>
      ((c * n + i) / g.len1, (c * n + i) % g.len1, 0, rb)
  else
    let r := c / g.perRow es
    let o := c % g.perRow es * chunkBytes
    [(r / g.len1, r % g.len1, o, min chunkBytes (rb - o))]

/-- The source runs of a chunk, as offsets from SRC. -/
def MoveSeg.reads (g : MoveSeg) (k : JobKind) (es c : Nat) : List (Nat × Nat) :=
  match k with
  | .fill => []
  | .copy => (g.pieces es c).map fun (p, i, o, n) => (p * g.srcS2 es + i * g.srcS1 es + o, n)
  | .transpose =>
    let (p, i0, ni, j0, nj) := g.block c
    (List.range ni).map fun i => (p * g.srcS2 es + (i0 + i) * g.srcS1 es + j0 * es, nj * es)

/-- The destination runs of a chunk, as offsets from DST. -/
def MoveSeg.writes (g : MoveSeg) (k : JobKind) (es c : Nat) : List (Nat × Nat) :=
  match k with
  | .transpose =>
    let (p, i0, ni, j0, nj) := g.block c
    (List.range nj).map fun j => (p * g.dstS2 k es + (j0 + j) * g.dstS1 k es + i0 * es, ni * es)
  | _ => (g.pieces es c).map fun (p, i, o, n) => (p * g.dstS2 k es + i * g.dstS1 k es + o, n)

/-- Bytes of a list of runs. -/
def runBytes (l : List (Nat × Nat)) : Nat := l.foldl (fun a r => a + r.2) 0

/-- The bytes a chunk writes, from the bytes it read (R380 to R382). -/
def MoveSeg.image (g : MoveSeg) (j : Job) (c : Nat) (src : Bytes) : Bytes :=
  match j.kind with
  | .copy => src
  | .fill =>
    let e := leBytes j.esize j.fill.toNat
    (List.range (runBytes (g.writes .fill j.esize c))).map fun i => e.getD (i % j.esize) 0
  | .transpose =>
    let (_, _, ni, _, nj) := g.block c
    ((List.range nj).map fun y => ((List.range ni).map fun x =>
      sliceBytes src ((x * nj + y) * j.esize) j.esize).flatten).flatten

/-! ### Segments (R383, R384, R467) -/

/-- A segment of the list. -/
def parseSeg (i : Nat) (b : Bytes) (owner : Nat) : MoveSeg :=
  { index := i, src := leAt b 0 8, dst := leAt b 8 8, len0 := leAt b 16 4, len1 := leAt b 20 4, len2 := leAt b 24 4,
    ss1 := leAt b 28 4, ds1 := leAt b 32 4, ss2 := leAt b 40 8, ds2 := leAt b 48 8, item := leAt b 56 2,
    owner := owner, total := 0, next := 0, whole := [], stopped := false }

/-- A stride is 0, or a multiple of ESIZE and at least its extent (R383). -/
def strideOk (es stride least : Nat) : Bool := stride == 0 || (stride % es == 0 && decide (least ≤ stride))

/-- Table 5 of 08 and R383, the item and the ports apart. -/
def segShapeOk (k : JobKind) (es : Nat) (b : Bytes) (g : MoveSeg) : Bool :=
  zeroRange b 36 40 && zeroRange b 58 64 && decide (1 ≤ g.len0 ∧ g.len0 ≤ 2 ^ 24) &&
    decide (1 ≤ g.len1 ∧ g.len1 ≤ 2 ^ 24) && decide (1 ≤ g.len2 ∧ g.len2 ≤ 65536) && maOk g.src && maOk g.dst &&
    (k != .fill || g.src == 0) && maOff g.src % es == 0 && maOff g.dst % es == 0 &&
    strideOk es g.ss1 (g.srcRow es) && strideOk es g.ds1 (g.dstRow k es) &&
    strideOk es g.ss2 ((g.len1 - 1) * g.srcS1 es + g.srcRow es) &&
    strideOk es g.ds2 ((g.dstRows k - 1) * g.dstS1 k es + g.dstRow k es)

/-- A host window address names a port of the split (R383). -/
def State.segPortOk (s : State) (a : Nat) : Bool := !maHost a || (s.port (maPort a)).present

/-- A host window address names a port with the grant of R384. -/
def State.segRight (s : State) (n owner a : Nat) : Bool :=
  !maHost a || s.ctxs.any fun c => (c.num == n || c.num == owner) && c.granted (maPort a)

/-- The code a segment is faulted with before it runs, none when it may run (R383, R384). -/
def State.segCode (s : State) (k : JobKind) (es n : Nat) (b : Bytes) (g : MoveSeg) : Option Code :=
  if !segShapeOk k es b g || !s.segPortOk g.src || !s.segPortOk g.dst then some Err.segmentInvalid
  else if !s.segRight n g.owner g.src || !s.segRight n g.owner g.dst then some Err.moveWindowInvalid
  else none

/-- Mover fault detail (Table 7 of 08). -/
def moverDetail (code : Code) (mover seg item delivered addr : Nat) : Bytes :=
  leBytes 2 code.toNat ++ leBytes 1 mover ++ zeros 1 ++ leBytes 2 seg ++ leBytes 2 item ++ leBytes 8 delivered ++
    leBytes 8 addr ++ zeros 8

/-- The destination runs of a segment in device memory, with its owner. -/
def State.segOuts (s : State) (n : Nat) (j : Job) (g : MoveSeg) : List OutRun :=
  if g.stopped || maHost g.dst then []
  else
    (((List.range g.total).map fun c => g.writes j.kind j.esize c).flatten.map fun r =>
      (s.physRuns n (r.2 / smallPage + 2) (g.dst + r.1) r.2).map fun q =>
        { owner := g.owner, addr := q.1, length := q.2 }).flatten

/-! ### MOVE begun -/

/-- Operation of OP (Table 4 of 08). -/
def moveKind (d : Bytes) : JobKind :=
  match (byteAt d 26).toNat with
  | 1 => .transpose
  | 2 => .fill
  | _ => .copy

/-- Table 4 of 08 (MOVE_RANGE, R410). -/
def moveOk (d : Bytes) : Bool :=
  let op := (byteAt d 26).toNat
  let es := (byteAt d 27).toNat
  let cnt := leAt d 24 2
  decide (op ≤ 2) && (if op = 0 then es == 1 else es == 1 || es == 2 || es == 4) && decide ((byteAt d 28).toNat ≤ 1) &&
    zeroRange d 29 32 && zeroRange d 36 128 && leAt d 16 8 % 64 == 0 && decide (1 ≤ cnt ∧ cnt ≤ 256) &&
    (if op = 2 then decide (leAt d 32 4 < 256 ^ es) else leAt d 32 4 == 0)

/-- A segment of the list with what it is faulted with: the code, and whether its ITEM names an item (R467). -/
structure Judged where
  seg    : MoveSeg
  code   : Option Code
  itemOk : Bool
  deriving DecidableEq, Repr

/-- One segment judged when the command begins (R383, R384, R448, R467). -/
def State.judgeSeg (s : State) (c : Ctx) (kind : JobKind) (es i : Nat) (b : Bytes) : Judged :=
  let item := leAt b 56 2
  let g := parseSeg i b (c.itemOwner item)
  let ok := c.itemOk item
  let code := if ok then s.segCode kind es c.num b g else some Err.segmentInvalid
  { seg := { g with total := if code.isSome then 0 else g.chunks kind es,
                    stopped := code.isSome || (g.owner != c.num && s.stopped g.owner) },
    code := code, itemOk := ok }

/-- The fault of a segment that does not run: its item's, or the step context's when its ITEM names none (R467). -/
def State.segFault (s : State) (k : Cmd) (j : Judged) : State :=
  match j.code with
  | none => s
  | some code =>
    let f := { k.fault code with detail := moverDetail code 0 j.seg.index j.seg.item 0 0 }
    if j.itemOk then s.itemFaultAt k.ctx k.build j.seg.item f k.policy else s.commandFault k.ctx k.build f k.policy

/-- MOVE begun: its descriptor and its segments judged, the others waiting for the movers (R378 to R385, R410). -/
def moveBody (s : State) (c : Ctx) (k : Cmd) : State :=
  let d := k.desc
  if !moveOk d then s.invalid k Err.moveRange
  else
    let cnt := leAt d 24 2
    match s.vread k.ctx (leAt d 16 8) (64 * cnt) with
    | .error f => s.invalid k f.1
    | .ok raw =>
      let kind := moveKind d
      let es := (byteAt d 27).toNat
      let js := (List.range cnt).map fun i => s.judgeSeg c kind es i (sliceBytes raw (64 * i) 64)
      let job : Job :=
        { id := s.nextJob, ctx := k.ctx, index := k.index, epoch := s.ctxEpoch k.ctx, kind := kind, esize := es,
          fill := BitVec.ofNat 32 (leAt d 32 4), segs := js.map fun j => j.seg }
      let outs := (job.segs.map fun g => s.segOuts k.ctx job g).flatten
      let s1 : State := { s with jobs := s.jobs ++ [job], nextJob := s.nextJob + 1 }
      let rows := job.segs.map fun g => (g.item, if g.total = 0 then 0 else g.len1 * g.len2)
      let s2 := s1.beginBegun k
        { k.begun with long := bitOf (byteAt d 28).toNat 0, outs := outs,
                       record := { k.record with shares := rowShares c rows } }
      js.foldl (fun t j => t.segFault k j) s2

/-- MOVE descriptors of one operation; COPY's row takes the reserved ones (R410). -/
def isMove (k : JobKind) (d : Bytes) : Bool := isOpcode 5 d && moveKind d == k

/-- MOVE COPY (R380). -/
def execMoveCopy (ctx : Nat) (s : State) : Host.Outcome State Fault Refusal :=
  done s (s.runCmd ctx (isMove .copy) moveBody)

/-- MOVE TRANSPOSE (R381). -/
def execMoveTranspose (ctx : Nat) (s : State) : Host.Outcome State Fault Refusal :=
  done s (s.runCmd ctx (isMove .transpose) moveBody)

/-- MOVE FILL (R380). -/
def execMoveFill (ctx : Nat) (s : State) : Host.Outcome State Fault Refusal :=
  done s (s.runCmd ctx (isMove .fill) moveBody)

/-! ### Chunks -/

/-- The begun command of a job. -/
def State.jobCmd? (s : State) (j : Job) : Option Begun :=
  (s.ctx? j.ctx).bind fun c => c.begun.find? fun b => b.index == j.index && b.opcode == 5

/-- A segment of a job. -/
def Job.seg? (j : Job) (i : Nat) : Option MoveSeg := j.segs[i]?

/-- A segment of a job changed. -/
def State.updSeg (s : State) (id i : Nat) (f : MoveSeg → MoveSeg) : State :=
  { s with jobs := s.jobs.map fun j => if j.id = id then { j with segs := j.segs.modify i f } else j }

/-- Chunks of a segment's longest run from the first that were written whole (R388); `fuel` bounds the count. -/
def wholeRun (l : List Nat) : Nat → Nat → Nat
  | 0, n => n
  | fuel + 1, n => if l.contains n then wholeRun l fuel (n + 1) else n

/-- Chunks delivered. -/
def MoveSeg.prefix (g : MoveSeg) : Nat := wholeRun g.whole g.total 0

/-- Bytes of the first `n` chunks. -/
def MoveSeg.bytesTo (g : MoveSeg) (j : Job) (n : Nat) : Nat :=
  (List.range n).foldl (fun a c => a + runBytes (g.writes j.kind j.esize c)) 0

/-- The undelivered bytes of a segment in device memory become unspecified (R41, R388). -/
def State.scrambleRest (s : State) (j : Job) (g : MoveSeg) : State :=
  if maHost g.dst then s
  else
    (List.range (g.total - g.prefix)).foldl (fun t c =>
      (g.writes j.kind j.esize (g.prefix + c)).foldl (fun u r => u.scrambleVa j.ctx (g.dst + r.1) r.2) t) s

/-- A segment stops at its first failed chunk: its item is faulted with the detail of Table 7 of 08 (R387 to R389). -/
def State.stopSeg (s : State) (j : Job) (g : MoveSeg) (mover : Nat) (code : Code) (addr : Nat) : State :=
  if g.stopped then s
  else
    let s0 : State := { s with held := s.held.filter fun h => !(h.job == j.id && h.seg == g.index) }
    let s1 := (s0.updSeg j.id g.index fun x => { x with stopped := true }).scrambleRest j g
    match s.jobCmd? j with
    | none => s1
    | some b =>
      s1.itemFaultAt j.ctx b.build g.item
        { code := code, cmdCtx := j.ctx, cmdIndex := j.index, opcode := 5,
          detail := moverDetail code mover g.index g.item (g.bytesTo j g.prefix) addr } b.policy

/-- An open window of a port. -/
def State.window? (s : State) (p w : Nat) : Option Window := (s.port p).windows.find? fun x => x.index == w

/-- The first run of a chunk that an access to its window may not make (R553). -/
def State.windowFault (s : State) (a : Nat) (runs : List (Nat × Nat)) (write : Bool) : Option Nat :=
  match s.window? (maPort a) (maWin a) with
  | none => runs.head?.map fun r => a + r.1
  | some w =>
    if (if write then w.write else w.read) then
      (runs.find? fun r => decide (w.length < maOff a + r.1 + r.2)).map fun r => a + r.1
    else runs.head?.map fun r => a + r.1

/-- The port a chunk is held for, with its window (R386). -/
def State.holdFor (s : State) (k : JobKind) (g : MoveSeg) : Option (Nat × Nat) :=
  if k != .fill && maHost g.src && !(s.port (maPort g.src)).answers then some (maPort g.src, maWin g.src)
  else if maHost g.dst && !(s.port (maPort g.dst)).answers then some (maPort g.dst, maWin g.dst)
  else none

/-- A chunk held (R386). -/
def State.holdChunk (s : State) (j : Job) (g : MoveSeg) (c mover : Nat) (pw : Nat × Nat) : State :=
  { s with held := s.held ++
      [{ port := pw.1, win := pw.2, job := j.id, seg := g.index, chunk := c, released := false, mover := mover }] }

/-- The first access fault of a list of runs in device memory. -/
def State.runsFault (s : State) (n base : Nat) (runs : List (Nat × Nat)) (write : Bool) : Option (Code × Nat) :=
  runs.findSome? fun r => s.accessFault n (base + r.1) r.2 write

/-- Runs written one after another from one image. -/
def State.writeRuns (s : State) (n base : Nat) : List (Nat × Nat) → Bytes → State
  | [], _ => s
  | r :: rs, bs => State.writeRuns (s.vstore n (base + r.1) (bs.take r.2)) n base rs (bs.drop r.2)

/-- Runs cut into requests of at most so many bytes, which a host's configuration bounds (R534). -/
def hostRuns (most : Nat) (runs : List (Nat × Nat)) : List (Nat × Nat) :=
  let m := max 1 most
  (runs.map fun r => (List.range (cdiv r.2 m)).map fun i => (r.1 + i * m, min m (r.2 - i * m))).flatten

/-- Runs sent to a host window (R552). -/
def State.sendRuns (s : State) (a : Nat) (w : Window) : List (Nat × Nat) → Bytes → State
  | [], _ => s
  | r :: rs, bs =>
    State.sendRuns
      (s.emit (.hostWrite (maPort a) (w.hostAddr + maOff a + r.1) w.noSnoop w.relaxed (bs.take r.2))) a w rs
      (bs.drop r.2)

/-- A chunk whose source bytes are known written to its destination, and counted whole (R380 to R382, R388). -/
def State.landChunk (s : State) (j : Job) (g : MoveSeg) (c mover : Nat) (src : Bytes) : State :=
  let runs := g.writes j.kind j.esize c
  let img := g.image j c src
  let whole (t : State) : State := t.updSeg j.id g.index fun x => { x with whole := c :: x.whole }
  if maHost g.dst then
    match s.windowFault g.dst runs true, s.window? (maPort g.dst) (maWin g.dst) with
    | some a, _ => s.stopSeg j g mover Err.moveWindowInvalid a
    | none, none => s
    | none, some w => whole (s.sendRuns g.dst w (hostRuns (s.port (maPort g.dst)).cfg.payload runs) img)
  else
    match s.runsFault j.ctx g.dst runs true with
    | some f => s.stopSeg j g mover f.1 f.2
    | none => whole (s.writeRuns j.ctx g.dst runs img)

/-- The bytes of a list of runs in device memory. -/
def State.readRuns (s : State) (n base : Nat) (runs : List (Nat × Nat)) : Bytes :=
  (runs.map fun r => (List.range r.2).map fun i => s.loadByte (s.physOf n (base + r.1 + i))).flatten

/-- The reads a chunk asks of a host (R534, R552). -/
def State.hostAsks (s : State) (j : Job) (g : MoveSeg) (c : Nat) : List (Nat × Nat) :=
  hostRuns (s.port (maPort g.src)).cfg.readReq (g.reads j.kind j.esize c)

/-- The reads of a chunk sent to a host under one tag (R552, R556). -/
def State.askHost (s : State) (j : Job) (g : MoveSeg) (c mover : Nat) (w : Window) : State :=
  let p := maPort g.src
  let r : HostRead :=
    { tag := s.nextTag, port := p, win := maWin g.src, epoch := (s.port p).epoch, job := j.id, seg := g.index,
      chunk := c, mover := mover }
  let s1 := (s.hostAsks j g c).foldl (fun t q =>
    t.emit (.hostRead s.nextTag p (w.hostAddr + maOff g.src + q.1) q.2 w.noSnoop w.relaxed)) s
  { s1 with hostReads := s1.hostReads ++ [r], nextTag := s.nextTag + 1 }

/-- A chunk performed by a mover: held, stopped, waiting for its host, or written (R380 to R388, R553). -/
def State.performChunk (s : State) (j : Job) (g : MoveSeg) (c mover : Nat) : State :=
  let runs := g.reads j.kind j.esize c
  match s.holdFor j.kind g with
  | some pw => s.holdChunk j g c mover pw
  | none =>
    if j.kind != .fill && maHost g.src then
      match s.windowFault g.src runs false, s.window? (maPort g.src) (maWin g.src) with
      | some a, _ => s.stopSeg j g mover Err.moveWindowInvalid a
      | none, none => s
      | none, some w => s.askHost j g c mover w
    else
      match s.runsFault j.ctx g.src runs false with
      | some f => s.stopSeg j g mover f.1 f.2
      | none => s.landChunk j g c mover (s.readRuns j.ctx g.src runs)

/-- The next chunk of a segment: a released held one first, in the order of holding (R386), else the next in order. -/
def State.nextChunk (s : State) (j : Job) (g : MoveSeg) : Option (Nat × Bool) :=
  match s.held.find? fun h => h.job == j.id && h.seg == g.index && h.released with
  | some h => some (h.chunk, true)
  | none => if g.next < g.total then some (g.next, false) else none

/-- The next chunk of a job, in segment order; none while it is pre-empted, abandoned, or has none left (R385, R390). -/
def State.nextOfJob (s : State) (j : Job) : Option (MoveSeg × Nat × Bool) :=
  match s.jobCmd? j with
  | none => none
  | some b =>
    if b.preempted then none
    else j.segs.findSome? fun g => if g.stopped then none else (s.nextChunk j g).map fun r => (g, r.1, r.2)

/-- A mover waits for a host (R387). -/
def State.moverBusy (s : State) (m : Nat) : Bool := s.hostReads.any fun r => r.mover == m && r.current s

/-- A segment names a window whose close waits: a chunk dealt now faults (R555). -/
def State.windowClosing (s : State) (k : JobKind) (g : MoveSeg) : Option Nat :=
  let closes (a : Nat) : Bool := maHost a && (s.window? (maPort a) (maWin a)).any fun w => !w.closing.isEmpty
  if k != .fill && closes g.src then some g.src else if closes g.dst then some g.dst else none

/-- A message with a stale epoch returned and counted (R457). -/
def State.countStale (s : State) : State := { s with stale := satInc s.stale 1 }

/-- The end of a host read: stale under R457, or an answer for its chunk. A chunk of an abandoned command still
completes (Table 8 of 09, step 2): its device bytes stay unspecified. -/
def State.endRead (s : State) (r : HostRead) (answer : HostAnswer) : State :=
  match s.jobs.find? fun j => j.id == r.job with
  | none => s.countStale
  | some j =>
    if !r.current s ∨ j.epoch ≠ s.ctxEpoch j.ctx then s.countStale
    else
      match j.seg? r.seg with
      | none => s
      | some g =>
        match answer with
        | .error i =>
          s.stopSeg j g r.mover Err.moveHostFault
            (g.src + ((s.hostAsks j g r.chunk)[i]?.map fun q => q.1).getD 0)
        | .data bs =>
          if (s.jobCmd? j).isNone then
            if maHost g.dst then
              match s.holdFor .fill g with
              | some pw => s.holdChunk j g r.chunk r.mover pw
              | none => s.landChunk j g r.chunk r.mover bs
            else (g.writes j.kind j.esize r.chunk).foldl (fun t q => t.scrambleVa j.ctx (g.dst + q.1) q.2) s
          else if g.stopped then s
          else
            match s.holdFor .fill g with
            | some pw => s.holdChunk j g r.chunk r.mover pw
            | none => s.landChunk j g r.chunk r.mover bs

/-- The bytes a host read asked for. -/
def State.readLength (s : State) (r : HostRead) : Nat :=
  match s.jobs.find? fun j => j.id == r.job with
  | none => 0
  | some j =>
    match j.seg? r.seg with
    | none => 0
    | some g => runBytes (g.reads j.kind j.esize r.chunk)

/-- An answer fits the read it answers. -/
def State.answerFits (s : State) (r : HostRead) : HostAnswer → Bool
  | .error _ => true
  | .data bs => bs.length == s.readLength r || !r.current s

/-- A host read ended by an answer; a tag that no read has is no occasion (log entry 2). -/
def State.answerRead (s : State) (tag : Nat) (answer : HostAnswer) : State :=
  match s.hostReads.find? fun r => r.tag == tag with
  | none => s
  | some r =>
    if !s.answerFits r answer then s
    else ({ s with hostReads := s.hostReads.filter fun x => x.tag != tag }).endRead r answer

/-- HOST_READ_COMPLETION: the host answers a mover read (R387, R556). -/
def execHostReadCompletion (tag : Nat) (answer : HostAnswer) (s : State) : Host.Outcome State Fault Refusal :=
  done s (if s.phase = .ready then s.answerRead tag answer else s)

/-- HOST_COMPLETION_TIMEOUT: no completion of one of a chunk's reads came in the port's range (R387, R556). -/
def execHostCompletionTimeout (ask : HostAsk) (s : State) : Host.Outcome State Fault Refusal :=
  done s (if s.phase = .ready then s.answerRead ask.tag (.error ask.access) else s)

/-! ### The end of a MOVE -/

/-- A chunk of a job is held or waits for a host. -/
def State.chunkOut (s : State) (j : Job) : Bool :=
  (s.held.any fun h => h.job == j.id) || s.hostReads.any fun r => r.job == j.id && r.current s

/-- Every segment of a job has stopped or been written whole (R386). -/
def State.jobDone (s : State) (j : Job) : Bool :=
  (j.segs.all fun g => g.stopped || g.whole.length == g.total) && !s.chunkOut j

/-- Source or destination runs of a job in device memory, by segment. -/
def State.jobRuns (s : State) (j : Job) (dst : Bool) : List (Nat × Nat × Nat) :=
  (j.segs.map fun g =>
    let base := if dst then g.dst else g.src
    if g.total = 0 ∨ maHost base = true then []
    else
      ((List.range g.total).map fun c =>
        if dst then g.writes j.kind j.esize c else g.reads j.kind j.esize c).flatten.map fun r =>
          (s.physRuns j.ctx (r.2 / smallPage + 2) (base + r.1) r.2).map fun q => (g.index, q.1, q.2)).flatten.flatten

/-- The common part of two runs, empty when they are apart. -/
def overlapRun (a b : Nat × Nat) : Nat × Nat :=
  let lo := max a.1 b.1
  (lo, min (a.1 + a.2) (b.1 + b.2) - lo)

/-- The bytes in which destinations meet sources or other segments' destinations are unspecified (R391). -/
def State.scrambleOverlaps (s : State) (j : Job) : State :=
  let ds := s.jobRuns j true
  let ss := s.jobRuns j false
  let both := (ds.map fun d => (ss.map fun x => overlapRun d.2 x.2)).flatten ++
    (ds.map fun d => ((ds.filter fun e => d.1 < e.1).map fun e => overlapRun d.2 e.2)).flatten
  (both.filter fun r => r.2 != 0).foldl (fun t r => t.scramble r.1 r.2) s

/-- A MOVE that has ended: its job is gone, its overlaps unspecified (R391). -/
def State.endJob (s : State) (n : Nat) (i : Word) : State :=
  match s.jobs.find? fun j => j.ctx == n && j.index == i with
  | none => s
  | some j => { s.scrambleOverlaps j with jobs := s.jobs.filter fun x => x.id != j.id }

/-- A MOVE of a context may complete. -/
def State.moveDone (s : State) (n : Nat) (i : Word) : Bool :=
  match s.jobs.find? fun j => j.ctx == n && j.index == i with
  | none => true
  | some j => s.jobDone j

/-- A held chunk belongs to a command that still runs. -/
def State.heldRuns (s : State) (h : Held) : Bool :=
  match s.jobs.find? fun j => j.id == h.job with
  | none => false
  | some j => (s.jobCmd? j).isSome

/-- Held chunks of a port released by a thaw, those of halted contexts apart (R386, R445). -/
def State.releaseHeld (s : State) (p : Nat) : State :=
  { s with held := s.held.map fun h =>
      if h.port = p ∧ s.heldRuns h = true then { h with released := true } else h }

/-- Held chunks of a port, and those being read from it, discarded: each stops its segment, counted as not delivered
(R535, R555). Log entry 17. -/
def State.discardHeld (s : State) (p : Nat) : State :=
  let gone := (s.held.filter fun h => h.port == p) ++
    (s.hostReads.filter fun r => r.port == p && r.current s).map HostRead.hold
  let s1 : State := { s with held := s.held.filter fun h => h.port != p }
  gone.foldl (fun t h =>
    match t.jobs.find? fun j => j.id == h.job with
    | none => t
    | some j =>
      match j.seg? h.seg with
      | none => t
      | some g =>
        let base := if maHost g.src && maPort g.src == p then g.src else g.dst
        t.stopSeg j g h.mover Err.moveWindowInvalid base) s1

/-- A dealt chunk toward a window has neither completed nor been discarded (R555). -/
def State.towardWindow (s : State) (p w : Nat) : Bool :=
  let names (id i : Nat) : Bool := s.jobs.any fun j => j.id == id && match j.seg? i with
    | none => false
    | some g =>
      (maHost g.src && maPort g.src == p && maWin g.src == w) ||
        (maHost g.dst && maPort g.dst == p && maWin g.dst == w)
  (s.held.any fun h => names h.job h.seg) || s.hostReads.any fun r => r.current s && names r.job r.seg

end Sys2Proof.Machine
end

