-- ==== Sys2Proof/Machine/Hash.lean ====
section
/-! DEFINITION. The two checks the store and the root of trust compute: SM3 (GB/T 32905, named in R694, R702, R716) and
CRC-32C (R689). Log entry 18. -/
namespace Sys2Proof.Machine

open Sys2Proof

/-! ### SM3 -/

/-- A rotation to the left. -/
def rotl (x : Word) (n : Nat) : Word := x.rotateLeft n

def sm3P0 (x : Word) : Word := x ^^^ rotl x 9 ^^^ rotl x 17
def sm3P1 (x : Word) : Word := x ^^^ rotl x 15 ^^^ rotl x 23

/-- The message padded: a one bit, zeros, and the length in bits as 8 bytes, to a multiple of 64 bytes. -/
def sm3Pad (b : Bytes) : Bytes := b ++ [0x80] ++ zeros ((119 - b.length % 64) % 64) ++ beBytes 8 (8 * b.length)

/-- Words of a 64-byte block, big-endian. -/
def sm3Words (b : Bytes) : List Word := (List.range 16).map fun i => BitVec.ofNat 32 (beAt b (4 * i) 4)

/-- The 68 expanded words, newest first; `n` are still to come. -/
def sm3Expand : Nat → List Word → List Word
  | 0, w => w
  | n + 1, w =>
    let g (k : Nat) : Word := w.getD (k - 1) 0
    sm3Expand n ((sm3P1 (g 16 ^^^ g 9 ^^^ rotl (g 3) 15) ^^^ rotl (g 13) 7 ^^^ g 6) :: w)

/-- The eight words of the compression's state. -/
structure Sm3 where
  a : Word
  b : Word
  c : Word
  d : Word
  e : Word
  f : Word
  g : Word
  h : Word
  deriving DecidableEq, Repr

def sm3Iv : Sm3 :=
  { a := 0x7380166f, b := 0x4914b2b9, c := 0x172442d7, d := 0xda8a0600, e := 0xa96f30bc, f := 0x163138aa,
    g := 0xe38dee4d, h := 0xb0fb0e4e }

/-- One of the 64 rounds. -/
def sm3Round (w : List Word) (v : Sm3) (j : Nat) : Sm3 :=
  let t : Word := if j < 16 then 0x79cc4519 else 0x7a879d8a
  let ss1 := rotl (rotl v.a 12 + v.e + rotl t (j % 32)) 7
  let ff := if j < 16 then v.a ^^^ v.b ^^^ v.c else (v.a &&& v.b) ||| (v.a &&& v.c) ||| (v.b &&& v.c)
  let gg := if j < 16 then v.e ^^^ v.f ^^^ v.g else (v.e &&& v.f) ||| (~~~v.e &&& v.g)
  let tt1 := ff + v.d + (ss1 ^^^ rotl v.a 12) + (w.getD j 0 ^^^ w.getD (j + 4) 0)
  let tt2 := gg + v.h + ss1 + w.getD j 0
  { a := tt1, b := v.a, c := rotl v.b 9, d := v.c, e := sm3P0 tt2, f := v.e, g := rotl v.f 19, h := v.g }

/-- One block folded in. -/
def sm3Block (v : Sm3) (b : Bytes) : Sm3 :=
  let w := (sm3Expand 52 (sm3Words b).reverse).reverse
  let r := (List.range 64).foldl (sm3Round w) v
  { a := r.a ^^^ v.a, b := r.b ^^^ v.b, c := r.c ^^^ v.c, d := r.d ^^^ v.d, e := r.e ^^^ v.e, f := r.f ^^^ v.f,
    g := r.g ^^^ v.g, h := r.h ^^^ v.h }

/-- The SM3 digest, 32 bytes. -/
def sm3 (b : Bytes) : Bytes :=
  let p := sm3Pad b
  let r := (List.range (p.length / 64)).foldl (fun v i => sm3Block v (sliceBytes p (64 * i) 64)) sm3Iv
  ([r.a, r.b, r.c, r.d, r.e, r.f, r.g, r.h].map fun w => beBytes 4 w.toNat).flatten

/-! ### CRC-32C -/

/-- One bit of the reflected CRC. -/
def crcBit (c : Word) : Word := if c.getLsbD 0 then (c >>> 1) ^^^ 0x82F63B78 else c >>> 1

/-- One byte folded in. -/
def crcByte (c : Word) (b : Byte) : Word := (List.range 8).foldl (fun x _ => crcBit x) (c ^^^ b.zeroExtend 32)

/-- CRC-32C of a run. -/
def crc32c (b : Bytes) : Word := ~~~(b.foldl crcByte 0xFFFFFFFF)

end Sys2Proof.Machine
end

