-- ==== Sys2Proof/Machine/Crypto.lean ====
section
/-! DEFINITION. The cipher and the signature check the fabric and the root of trust name: SM4 (GB/T 32907) in the
Galois/Counter Mode of SP 800-38D with a 16-byte tag (R604), and the verification of an SM2 signature with SM3 under the
default user identity (GB/T 32918, R595, R702). Log entry 53. -/
namespace Sys2Proof.Machine

open Sys2Proof

/-! ### SM4 -/

/-- The substitution box: byte `x` of this number. -/
def sm4Box : Nat :=
  0x4839cbd73e5fee79204ddc3aec7df01884c66ec509f1b9657e77960c4a976989b0b4e5b812d0742dbd7bcda58831c10ad85a101f415cd9117fbcddbb92af1b8d515b6c6d726aff032f8efdde4537dbd56f4e530dab2329c060ca66822ee2f61de3b18cf5303293ad551a349ba45daee0a11561f9cef2f7a3b538c740d28abfea9ec8c4a0e702364c5227d39f574600d4877821013b7c2225a2d158635e0e241e359d56704b0febf88bda6471b2816b68a84f85e6193c5983ba1773f3fca70747a63f8f75fa94df8095e808c9a91cb3e462accfed430b54337a98ef91f450429c99068649261344aac304be2a769a672b052cfb28c214b616b73de1ccfee990d6

def sm4Sub (x : Nat) : Nat := sm4Box / 256 ^ x % 256

/-- A rotation of 32 bits to the left. -/
def rot32 (x n : Nat) : Nat := x * 2 ^ n % 2 ^ 32 + x / 2 ^ (32 - n)

/-- The substitution of each byte of a word. -/
def sm4Tau (x : Nat) : Nat :=
  sm4Sub (x / 2 ^ 24 % 256) * 2 ^ 24 + sm4Sub (x / 2 ^ 16 % 256) * 2 ^ 16 + sm4Sub (x / 2 ^ 8 % 256) * 2 ^ 8 +
    sm4Sub (x % 256)

def sm4Lin (b : Nat) : Nat := b ^^^ rot32 b 2 ^^^ rot32 b 10 ^^^ rot32 b 18 ^^^ rot32 b 24
def sm4KeyLin (b : Nat) : Nat := b ^^^ rot32 b 13 ^^^ rot32 b 23

/-- The constant of a round of the key schedule. -/
def sm4Ck (i : Nat) : Nat :=
  4 * i * 7 % 256 * 2 ^ 24 + (4 * i + 1) * 7 % 256 * 2 ^ 16 + (4 * i + 2) * 7 % 256 * 2 ^ 8 + (4 * i + 3) * 7 % 256

/-- The round keys from round `i` on, from the four words before it; `n` are still to come. -/
def sm4Keys : Nat → Nat → Nat → Nat → Nat → Nat → List Nat
  | 0, _, _, _, _, _ => []
  | n + 1, i, a, b, c, d =>
    let k := a ^^^ sm4KeyLin (sm4Tau (b ^^^ c ^^^ d ^^^ sm4Ck i))
    k :: sm4Keys n (i + 1) b c d k

/-- The 32 round keys of a key of 16 bytes. -/
def sm4Schedule (key : Bytes) : List Nat :=
  sm4Keys 32 0 (beAt key 0 4 ^^^ 0xA3B1BAC6) (beAt key 4 4 ^^^ 0x56AA3350) (beAt key 8 4 ^^^ 0x677D9197)
    (beAt key 12 4 ^^^ 0xB27022DC)

/-- The rounds on four words, and the reversal at the end, as one number of 128 bits. -/
def sm4Rounds : List Nat → Nat → Nat → Nat → Nat → Nat
  | [], a, b, c, d => d * 2 ^ 96 + c * 2 ^ 64 + b * 2 ^ 32 + a
  | k :: ks, a, b, c, d => sm4Rounds ks b c d (a ^^^ sm4Lin (sm4Tau (b ^^^ c ^^^ d ^^^ k)))

/-- One block encrypted, as numbers of 128 bits. -/
def sm4Block (ks : List Nat) (x : Nat) : Nat :=
  sm4Rounds ks (x / 2 ^ 96) (x / 2 ^ 64 % 2 ^ 32) (x / 2 ^ 32 % 2 ^ 32) (x % 2 ^ 32)

/-! ### Galois/Counter Mode -/

/-- The product of the field of GHASH, from bit `n - 1` of `x` down; `v` is the second factor shifted as far. -/
def gcmMul (x : Nat) : Nat → Nat → Nat → Nat
  | 0, _, z => z
  | n + 1, v, z =>
    gcmMul x n (if v % 2 = 1 then v / 2 ^^^ 0xE1 * 2 ^ 120 else v / 2) (if x / 2 ^ n % 2 = 1 then z ^^^ v else z)

/-- A run as blocks of 16 bytes, the last padded with zeros. -/
def gcmBlocks (b : Bytes) : List Nat := (List.range (cdiv b.length 16)).map fun i => beAt b (16 * i) 16

/-- GHASH of the additional data and the ciphertext. -/
def gcmHash (h : Nat) (aad ct : Bytes) : Nat :=
  (gcmBlocks aad ++ gcmBlocks ct ++ [8 * aad.length * 2 ^ 64 + 8 * ct.length]).foldl
    (fun y x => gcmMul (y ^^^ x) 128 h 0) 0

/-- The key stream added to a run, which encrypts and decrypts alike. -/
def gcmStream (ks : List Nat) (nonce b : Bytes) : Bytes :=
  let pad := ((List.range (cdiv b.length 16)).map fun i =>
    beBytes 16 (sm4Block ks (beVal nonce * 2 ^ 32 + i + 2))).flatten
  List.zipWith (fun x y => x ^^^ y) b pad

/-- The tag of a ciphertext, 16 bytes. -/
def gcmTag (ks : List Nat) (nonce aad ct : Bytes) : Bytes :=
  beBytes 16 (gcmHash (sm4Block ks 0) aad ct ^^^ sm4Block ks (beVal nonce * 2 ^ 32 + 1))

/-- The ciphertext and its tag (R604). -/
def sm4GcmSeal (key nonce aad plain : Bytes) : Bytes :=
  let ks := sm4Schedule key
  let ct := gcmStream ks nonce plain
  ct ++ gcmTag ks nonce aad ct

/-- The plaintext of a ciphertext that carries its tag, none when the tag fails (R604, R609). -/
def sm4GcmOpen (key nonce aad b : Bytes) : Option Bytes :=
  let ks := sm4Schedule key
  let ct := b.take (b.length - 16)
  if 16 ≤ b.length ∧ b.drop (b.length - 16) = gcmTag ks nonce aad ct then some (gcmStream ks nonce ct) else none

/-! ### The curve of GB/T 32918 -/

namespace Sm2

def p : Nat := 0xFFFFFFFEFFFFFFFFFFFFFFFFFFFFFFFFFFFFFFFF00000000FFFFFFFFFFFFFFFF
def b : Nat := 0x28E9FA9E9D9F5E344D5A9E4BCF6509A7F39789F515AB8F92DDBCBD414D940E93
def n : Nat := 0xFFFFFFFEFFFFFFFFFFFFFFFFFFFFFFFF7203DF6B21C6052B53BBF40939D54123
def gx : Nat := 0x32C4AE2C1F1981195F9904466A39C9948FE30BBFF2660BE1715A4589334C74C7
def gy : Nat := 0xBC3736A2F4F6779C59BDCEE36B692153D0A9877CC62A474002DF32E52139F0A0

/-- A difference modulo p of reduced values. -/
def sub (x y : Nat) : Nat := (x + p - y) % p

/-- A point in Jacobian coordinates; z = 0 is the point at infinity. -/
structure Point where
  x : Nat
  y : Nat
  z : Nat
  deriving DecidableEq, Repr

def infinity : Point := { x := 1, y := 1, z := 0 }

/-- A point doubled (a = -3). -/
def double (q : Point) : Point :=
  let d := q.z * q.z % p
  let g := q.y * q.y % p
  let bt := q.x * g % p
  let al := 3 * (sub q.x d * (q.x + d) % p) % p
  let x := sub (al * al % p) (8 * bt % p)
  { x := x, y := sub (al * sub (4 * bt % p) x % p) (8 * g * g % p), z := 2 * q.y * q.z % p }

/-- The sum of two points. -/
def add (q r : Point) : Point :=
  if q.z = 0 then r
  else if r.z = 0 then q
  else
    let z1 := q.z * q.z % p
    let z2 := r.z * r.z % p
    let u1 := q.x * z2 % p
    let s1 := q.y * (r.z * z2 % p) % p
    let h := sub (r.x * z1 % p) u1
    let t := sub (r.y * (q.z * z1 % p) % p) s1
    if h = 0 then (if t = 0 then double q else infinity)
    else
      let h2 := h * h % p
      let h3 := h * h2 % p
      let v := u1 * h2 % p
      let x := sub (sub (t * t % p) h3) (2 * v % p)
      { x := x, y := sub (t * sub v x % p) (s1 * h3 % p), z := q.z * r.z % p * h % p }

/-- `j` times the base point plus `k` times `q`, over the bits from `i - 1` down; `gq` is the base point plus `q`. -/
def twice (j k : Nat) (g q gq : Point) : Nat → Point → Point
  | 0, acc => acc
  | i + 1, acc =>
    let d := double acc
    twice j k g q gq i
      (if j / 2 ^ i % 2 = 1 then (if k / 2 ^ i % 2 = 1 then add d gq else add d g)
       else if k / 2 ^ i % 2 = 1 then add d q else d)

/-- Coordinates of a point of the curve. -/
def onCurve (x y : Nat) : Bool := decide (x < p) && decide (y < p) && y * y % p == (x * x * x + (p - 3) * x + b) % p

/-- The hash of the default user identity 1234567812345678, of the curve and of a key: it stands before the message. -/
def userHash (key : Bytes) : Bytes :=
  sm3 (beBytes 2 128 ++ beBytes 16 0x31323334353637383132333435363738 ++ beBytes 32 (p - 3) ++ beBytes 32 b ++
    beBytes 32 gx ++ beBytes 32 gy ++ sliceBytes key 0 64)

end Sm2

/-- An SM2 signature with SM3 verifies: a key as x then y, the message, the signature as r then s. -/
def sm2Verify (key msg sig : Bytes) : Bool :=
  let x := beAt key 0 32
  let y := beAt key 32 32
  let r := beAt sig 0 32
  let s := beAt sig 32 32
  let t := (r + s) % Sm2.n
  let e := beVal (sm3 (Sm2.userHash key ++ msg))
  let g : Sm2.Point := { x := Sm2.gx, y := Sm2.gy, z := 1 }
  let q : Sm2.Point := { x := x, y := y, z := 1 }
  let sum := Sm2.twice s t g q (Sm2.add g q) 256 Sm2.infinity
  let at1 := (r + 2 * Sm2.n - e % Sm2.n) % Sm2.n
  let z2 := sum.z * sum.z % Sm2.p
  Sm2.onCurve x y && decide (1 ≤ r ∧ r < Sm2.n) && decide (1 ≤ s ∧ s < Sm2.n) && t != 0 && sum.z != 0 &&
    (at1 * z2 % Sm2.p == sum.x || (decide (at1 + Sm2.n < Sm2.p) && (at1 + Sm2.n) * z2 % Sm2.p == sum.x))

end Sys2Proof.Machine
end

