-- ==== Sys2Proof/Machine/Store.lean ====
section
/-! DEFINITION. The persistent store and the root of trust: journal, compaction, firmware slots and attestation (15). -/
namespace Sys2Proof.Machine

open Sys2Proof

/-! ### Records (Tables 2 and 3 of 15) -/

namespace Kind

def checkpoint : Nat := 0x0001
def stackRemap : Nat := 0x0010
def pageRetire : Nat := 0x0011
def coreLimit : Nat := 0x0020
def coreWithdraw : Nat := 0x0021
def poweredHours : Nat := 0x0022
def calibration : Nat := 0x0023
def powerPolicy : Nat := 0x0030
def thermalStop : Nat := 0x0031
def fabricGlobal : Nat := 0x0040
def trustAnchor : Nat := 0x0041
def ownChain : Nat := 0x0042
def peer : Nat := 0x0043

end Kind

/-- A record's header (Table 2 of 15). -/
def JRec.header (r : JRec) : Bytes :=
  let h := leBytes 8 r.seq ++ leBytes 2 r.kind ++ zeros 2 ++ leBytes 4 r.body.length ++ leBytes 4 r.baseGen ++ zeros 8
  h ++ leBytes 4 (crc32c (h ++ r.body)).toNat

/-- A record's bytes. -/
def JRec.bytes (r : JRec) : Bytes := r.header ++ r.body

/-- Units of 4 KiB a record of so many body bytes takes (R689). -/
def recUnits (n : Nat) : Nat := cdiv (32 + n) 4096

/-- Units that hold records or are not yet erased (R692, R699). -/
def Store.used (t : Store) : Nat := t.journal.foldl (fun a r => a + recUnits r.body.length) 0 + t.unerased

/-- Units of the journal. -/
def journalUnits : Nat := 65536

/-- Whether R692 refuses the owner's records. -/
def Store.reserveOnly (t : Store) : Bool := decide (64512 ≤ t.used)

/-- The order of an image: KIND, then key (R697). -/
def keyLt : List Nat → List Nat → Bool
  | [], [] => false
  | [], _ => true
  | _, [] => false
  | a :: as, b :: bs => decide (a < b) || (a == b && keyLt as bs)

/-- Key of a record with its KIND in front. -/
def JRec.full (r : JRec) : List Nat := r.kind :: r.key

/-- A record placed by its key, in place of the record it supersedes. -/
def putRec (r : JRec) : List JRec → List JRec
  | [] => [r]
  | x :: xs =>
    if x.full = r.full then r :: xs else if keyLt r.full x.full then r :: x :: xs else x :: putRec r xs

/-- A record applied: it supersedes its key, and a removal record removes it (R691). -/
def applyRec (l : List JRec) (r : JRec) : List JRec :=
  if r.kind = Kind.checkpoint then l
  else if (r.kind = Kind.trustAnchor ∨ r.kind = Kind.peer) ∧ r.body = [] then l.filter fun x => x.full != r.full
  else putRec r l

/-- The superseding record of each live key, over the base in force and the records up to a SEQ. -/
def Store.liveTo (t : Store) (last : Nat) : List JRec :=
  let image := match t.base with
    | some b => b.image
    | none => []
  (t.journal.filter fun r => decide (r.seq ≤ last)).foldl applyRec image

/-- The superseding record of each live key (R691, R695). -/
def Store.live (t : Store) : List JRec := t.liveTo t.lastSeq

/-- Generation of the base in force, 0 for none. -/
def Store.baseGen (t : Store) : Nat :=
  match t.base with
  | some b => b.gen
  | none => 0

/-- SM3 of the image in force. -/
def Store.imageHash (t : Store) : Bytes :=
  match t.base with
  | some b => sm3 ((b.image.map JRec.bytes).flatten)
  | none => sm3 []

/-- The running hash of R694; empty stands for the seed. -/
def Store.running? (t : Store) : Bytes := if t.chain.isEmpty then t.imageHash else t.chain

/-- Erase blocks of the spare area, 1,264 MiB in blocks of 256 units (Table 1 of 15). -/
def spareBlocks : Nat := 1264

/-- Spare blocks left. -/
def Store.spare (t : Store) : Nat := spareBlocks - t.badBlocks.toNat

/-- NAND blocks that fail while the next operation is carried out. -/
def Store.failures (t : Store) : Nat := Config.nandFailures t.ops

/-- The next operation succeeds: every block that fails is replaced while the spare area lasts, and once it is exhausted none
may fail (R688, R693). Log entry 55. -/
def Store.holds (t : Store) : Bool := decide (0 < t.spare) || t.failures == 0

/-- An operation carried out, its failed blocks replaced and counted (R688). -/
def Store.nand (t : Store) : Store :=
  { t with ops := t.ops + 1, badBlocks := t.badBlocks + BitVec.ofNat 16 (t.failures % (t.spare + 1)) }

/-- The hash of R694 after a record; a CHECKPOINT's body is the hash itself. -/
def JRec.hashed (h : Bytes) (r : JRec) : Bytes := if r.kind = Kind.checkpoint then r.body else sm3 (h ++ r.bytes)

/-- A record appended, with its SEQ. -/
def Store.append (t : Store) (kind : Nat) (key : List Nat) (body : Bytes) : Store :=
  let r : JRec := { seq := t.lastSeq + 1, kind := kind, key := key, baseGen := t.baseGen, body := body }
  { t with journal := t.journal ++ [r], lastSeq := r.seq, written := t.written + recUnits body.length,
           chain := r.hashed t.running?,
           sinceCp := if kind = Kind.checkpoint then 0 else t.sinceCp + 1 }

/-- A CHECKPOINT written (R694). -/
def Store.checkpoint (t : Store) : Store := t.append Kind.checkpoint [] t.running?

/-- Step 1 of a compaction (Table 5 of 15). -/
def Store.startCompaction (t : Store) : Store :=
  if t.compacting then t else { t with compacting := true, compactS := t.lastSeq }

/-- A record written with what follows from it: a CHECKPOINT after every 256 records, and compaction at 49,152 units
(R694, R699). -/
def Store.write (t : Store) (kind : Nat) (key : List Nat) (body : Bytes) : Store :=
  let t1 := t.nand.append kind key body
  let t2 := if t1.sinceCp ≥ 256 then t1.checkpoint else t1
  if t2.used ≥ 49152 then t2.startCompaction else t2

/-- Room for a record and for the CHECKPOINT that follows every 256th, and blocks to hold them (R688, R693, R694). -/
def Store.room (t : Store) (n : Nat) : Bool :=
  decide (t.used + recUnits n + bit (decide (255 ≤ t.sinceCp)) ≤ journalUnits) && t.holds

/-- A record of the owner's message, refused under R692. -/
def State.ownerRecord (s : State) (kind : Nat) (key : List Nat) (body : Bytes) : Option State :=
  if s.store.reserveOnly || !s.store.room body.length then none
  else some { s with store := s.store.write kind key body }

/-- A record the module originates, and the effect that needs it; where it cannot be written the control complex halts
before the effect (R690, R693). -/
def State.moduleRecord (s : State) (kind : Nat) (key : List Nat) (body : Bytes) (effect : State → State) : State :=
  if s.store.room body.length then effect { s with store := s.store.write kind key body }
  else s.haltCcx Err.journalFailed

/-! ### Compaction (R697 to R700) -/

/-- Steps 2 to 5 of a compaction (Table 5 of 15): blocks of 256 units whose records are all folded are erased. The CHECKPOINT
is seeded by the new IMAGE_HASH, over the records written since S (R694, R699). -/
def Store.compact (t : Store) : Store :=
  let base : BaseImage := { gen := t.baseGen + 1, lastSeq := t.compactS, image := t.liveTo t.compactS }
  let late := fun r : JRec => decide (t.compactS < r.seq)
  let t0 : Store := { t with base := some base, area := 1 - t.area, committed := true, sinceCp := 0 }
  let t1 : Store := { t0 with chain := (t.journal.filter late).foldl JRec.hashed t0.imageHash }
  let t2 := t1.checkpoint
  let rest := t2.journal.filter late
  let kept := rest.foldl (fun a r => a + recUnits r.body.length) 0
  { t2 with journal := rest, compacting := false, compactWait := [],
            unerased := min (t2.used - kept) ((t2.written - kept) % 256) }

/-- COMPACTION: a compaction under way ends; the messages that wait are replied at its step 3 (R699, R700). -/
def State.compaction (s : State) : State :=
  if s.phase ≠ .ready ∨ !s.store.compacting then s
  else if !s.store.holds then s.haltCcx Err.journalFailed
  else
    let waits := s.store.compactWait
    let s1 := { s with store := s.store.nand.compact }
    let body := replyBody (leBytes 4 s1.store.baseGen ++ zeros 4 ++ leBytes 8 s.store.compactS)
    waits.foldl (fun t q => t.replyWaiting q Err.success body) s1

/-- COMPACTION (R699). -/
def execCompaction (s : State) : Host.Outcome State Fault Refusal := done s s.compaction

/-- JOURNAL_COMPACT carried out: it joins a running compaction or begins one, and waits (R700). -/
def carryJournalCompact (s : State) (m : Msg) : Carried :=
  let t := s.store.startCompaction
  .wait { s with store := { t with compactWait := t.compactWait ++ [m.seq] } }

/-- JOURNAL_COMPACT (R700). -/
def execJournalCompact (slot : SlotRef) (s : State) : Host.Outcome State Fault Refusal :=
  done s (s.takeRow slot .journalCompact carryJournalCompact)

/-! ### Firmware slots (R701 to R713) -/

/-- A slot of the store. -/
def Store.slot (t : Store) (n : Nat) : FwSlot := if n = 0 then t.fw0 else t.fw1

/-- A slot of the store replaced. -/
def Store.setSlot (t : Store) (n : Nat) (f : FwSlot) : Store := if n = 0 then { t with fw0 := f } else { t with fw1 := f }

/-- Code of a slot state (Table 7 of 15). -/
def SlotState.code : SlotState → Nat
  | .empty => 0
  | .staged => 1
  | .trial => 2
  | .good => 3
  | .bad => 4

/-- A slot's state byte; TRIES belongs to a trial (Tables 7 and 11 of 15). -/
def FwSlot.byte (f : FwSlot) : Nat := f.state.code + if f.state = .trial then 8 * f.tries else 0

/-- Bit of the part in PARTS (Table 6 of 15). -/
def Part.bit (p : Part) : Nat := p.code

/-- The header keeps Table 6 of 15 and PARTS holds the module's part. -/
def fwHeaderOk (p : Part) (h : Bytes) : Bool :=
  let len := leAt h 12 4
  leAt h 0 4 == 1 && decide (leAt h 8 4 ≤ 63) && decide (4096 ≤ len ∧ len ≤ 268431360) && len % 4096 == 0 &&
    decide ((byteAt h 16).toNat < 8) && bitOf (byteAt h 16).toNat p.bit && zeroRange h 17 32 && zeroRange h 192 4096

/-- The signer hash and the signature verify (R702). -/
def fwSigned (h : Bytes) : Bool :=
  let key := sliceBytes h 64 64
  sm3 (0x04 :: key) == Config.signerHash && sm2Verify key (sliceBytes h 0 128) (sliceBytes h 128 64)

/-- An image judged under R702 in the order of R708: its code, or the slot that would hold it. -/
def State.judgeImage (s : State) (img : Bytes) : Except Code FwSlot :=
  let h := sliceBytes img 0 4096
  if !fwHeaderOk s.part h || img.length != 4096 + leAt h 12 4 then .error Err.fwImageInvalid
  else if !fwSigned h || sm3 (img.drop 4096) != sliceBytes h 32 32 then .error Err.fwSignatureInvalid
  else if leAt h 8 4 < s.store.minSvn then .error Err.fwRollbackRefused
  else
    .ok { state := .staged, tries := 0, header := sliceBytes h 0 256, digest := sliceBytes h 32 32,
          version := BitVec.ofNat 32 (leAt h 4 4), svn := leAt h 8 4, valid := true }

/-- The slot that is not running. -/
def Store.otherSlot (t : Store) : Nat := 1 - t.running.getD 0

/-- FW_STAGE carried out: the slot that is not running becomes EMPTY and the write begins (R706 to R708). -/
def carryFwStage (s : State) (m : Msg) : Carried :=
  let b := m.body
  let n := leAt b 0 4
  let va := leAt b 8 8
  let len := leAt b 16 4
  if va % 4096 ≠ 0 ∨ !vaOk va ∨ len < 8192 ∨ len > 268435456 ∨ len % 4096 ≠ 0 then refuse s Err.fwImageInvalid
  else
    match s.vread n va len with
    | .error _ => refuse s Err.fwImageInvalid
    | .ok img =>
      match s.judgeImage img with
      | .error c => refuse s c
      | .ok f =>
        if s.store.runningSlot.state = .trial then refuse s Err.fwStateInvalid
        else
          let k := s.store.otherSlot
          let t := s.store.setSlot k { FwSlot.empty with state := .empty }
          .wait { s with store := { t with staging := some { seq := m.seq, slot := k, image := f } } }

/-- FW_STAGE (R707). -/
def execFwStage (slot : SlotRef) (s : State) : Host.Outcome State Fault Refusal :=
  done s (s.takeRow slot .fwStage carryFwStage)

/-- FW_STAGE_DONE: the image written and read back; the slot is STAGED and the stage replies (R707). Where a failed block can
no longer be replaced the digest read back does not match: the slot stays EMPTY (R688, R708; log entry 55). -/
def State.fwStageDone (s : State) : State :=
  if !s.running then s
  else
    match s.store.staging with
    | none => s
    | some g =>
      if !s.store.holds then
        ({ s with store := { s.store with staging := none } }).replyWaiting g.seq Err.fwSignatureInvalid (zeros 240)
      else
      let body := leBytes 1 g.slot ++ leBytes 1 SlotState.staged.code ++ zeros 2 ++ leBytes 4 g.image.version.toNat ++
        leBytes 4 g.image.svn
      ({ s with store := { s.store.nand.setSlot g.slot g.image with staging := none } }).replyWaiting g.seq Err.success
        (replyBody body)

/-- FW_STAGE_DONE (R707). -/
def execFwStageDone (s : State) : Host.Outcome State Fault Refusal := done s s.fwStageDone

/-- The reply of an FW_ACTIVATE (R709), once the boot record is written (R703); where it cannot be, the control complex halts
as for a record of the module's own (R688, R693; log entry 55). -/
def activateReply (old s : State) : Carried :=
  if !old.store.holds then .wait (old.haltCcx Err.journalFailed)
  else
  accept { s with store := s.store.nand } (leBytes 1 s.store.fw0.byte ++ leBytes 1 s.store.fw1.byte ++ leBytes 1 s.store.minSvn)

/-- FW_ACTIVATE TRY carried out (R710). -/
def carryFwTry (s : State) (m : Msg) : Carried :=
  let n := (byteAt m.body 1).toNat
  let f := s.store.slot n
  if n ≥ 2 ∨ n ≠ s.store.otherSlot ∨ !(f.state == .staged || f.state == .good) ∨ s.store.runningSlot.state ≠ .good then
    refuse s Err.fwStateInvalid
  else activateReply s { s with store := s.store.setSlot n { f with state := .trial, tries := 0 } }

/-- FW_ACTIVATE TRY (R710). -/
def execFwActivateTry (slot : SlotRef) (s : State) : Host.Outcome State Fault Refusal :=
  done s (s.takeRow slot .fwTry carryFwTry)

/-- FW_ACTIVATE CONFIRM carried out (R711). -/
def carryFwConfirm (s : State) (m : Msg) : Carried :=
  let n := (byteAt m.body 1).toNat
  let f := s.store.slot n
  if n ≥ 2 ∨ s.store.running ≠ some n ∨ f.state ≠ .trial then refuse s Err.fwStateInvalid
  else activateReply s { s with store := { s.store.setSlot n { f with state := .good, tries := 0 } with preferred := n } }

/-- FW_ACTIVATE CONFIRM (R711). -/
def execFwActivateConfirm (slot : SlotRef) (s : State) : Host.Outcome State Fault Refusal :=
  done s (s.takeRow slot .fwConfirm carryFwConfirm)

/-- FW_ACTIVATE RAISE_SVN carried out (R712); an EMPTY slot holds no image whose SVN could be lower. -/
def carryFwRaise (s : State) (m : Msg) : Carried :=
  let n := (byteAt m.body 1).toNat
  let f := s.store.slot n
  if n ≥ 2 ∨ s.store.running ≠ some n ∨ f.state ≠ .good then refuse s Err.fwStateInvalid
  else
    let o := s.store.slot (1 - n)
    let t := if o.state ≠ .empty ∧ o.svn < f.svn then s.store.setSlot (1 - n) { o with state := .bad } else s.store
    activateReply s { s with store := { t with minSvn := f.svn } }

/-- FW_ACTIVATE RAISE_SVN (R712). -/
def execFwActivateRaiseSvn (slot : SlotRef) (s : State) : Host.Outcome State Fault Refusal :=
  done s (s.takeRow slot .fwRaise carryFwRaise)

/-! ### Measured boot and attestation (R714 to R719) -/

/-- The measurement chain of R716. -/
def measureChain (hdr body : Bytes) (minSvn slot state : Nat) : Bytes :=
  let c1 := sm3 (zeros 32 ++ Config.romDigest)
  let c2 := sm3 (c1 ++ hdr)
  let c3 := sm3 (c2 ++ body)
  sm3 (c3 ++ leBytes 4 minSvn ++ leBytes 1 slot ++ leBytes 1 state)

/-- TRUST_DIGEST: SM3 over the superseding trust records, in image order (Table 9 of 15). -/
def Store.trustDigest (t : Store) : Bytes :=
  sm3 (((t.live.filter fun r =>
    r.kind == Kind.trustAnchor || r.kind == Kind.ownChain || r.kind == Kind.peer).map JRec.bytes).flatten)

/-- The first 288 bytes of the report (Table 9 of 15). -/
def State.reportBody (s : State) (port : Nat) (nonce : Bytes) : Bytes :=
  let t := s.store
  leBytes 4 1 ++ leBytes 4 352 ++ sliceBytes nonce 0 32 ++ sm3 (0x04 :: sliceBytes Config.identityKey 0 64) ++
    sliceBytes Config.romDigest 0 32 ++ sliceBytes t.hdrDigest 0 32 ++ sliceBytes t.runningSlot.digest 0 32 ++
    sliceBytes t.measured 0 32 ++ leBytes 4 t.runningSlot.version.toNat ++ leBytes 4 t.runningSlot.svn ++
    leBytes 1 t.minSvn ++ leBytes 1 (t.running.getD 0) ++ leBytes 1 t.slotState ++ leBytes 1 (bit s.ccx.service) ++
    leBytes 1 (s.own.owner.getD 0xFF) ++ leBytes 1 port ++ leBytes 1 s.part.code ++ leBytes 1 (bit t.damaged) ++
    leBytes 4 t.baseGen ++ leBytes 4 s.plt.hours ++ leBytes 8 t.lastSeq ++ t.trustDigest ++ zeros 24

/-- The 352-byte report, signed by the identity key (R714, R718). -/
def State.report (s : State) (port : Nat) (nonce : Bytes) : Bytes :=
  let b := s.reportBody port nonce
  b ++ sliceBytes (Config.sm2Sign b) 0 64

/-- ATTEST carried out: bytes written to the requester's buffer (R717 to R719). -/
def attestTo (s : State) (m : Msg) (bs : Bytes) : Carried :=
  let va := leAt m.body 8 8
  if va % 64 ≠ 0 ∨ !vaOk va then refuse s Err.attestInvalid
  else
    match s.vwrite (leAt m.body 4 4) va bs with
    | .error _ => refuse s Err.attestInvalid
    | .ok t => accept t (leBytes 4 bs.length)

/-- ATTEST report carried out (R718). -/
def carryAttestReport (s : State) (m : Msg) : Carried := attestTo s m (s.report m.port (sliceBytes m.body 16 32))

/-- ATTEST report (R718). -/
def execAttestReport (slot : SlotRef) (s : State) : Host.Outcome State Fault Refusal :=
  done s (s.takeRow slot .attestReport carryAttestReport)

/-- ATTEST identity chain carried out: at most 4,096 bytes (R718). -/
def carryAttestChain (s : State) (m : Msg) : Carried := attestTo s m (Config.identityChain.take 4096)

/-- ATTEST identity chain (R718). -/
def execAttestIdentityChain (slot : SlotRef) (s : State) : Host.Outcome State Fault Refusal :=
  done s (s.takeRow slot .attestChain carryAttestChain)

/-! ### Store registers (R720) -/

/-- PLT_STORE_STATUS (Table 10 of 15). -/
def Store.statusWord (t : Store) : Nat :=
  packFields [(t.badBlocks.toNat, 16), (t.used * 100 / journalUnits, 8), (0, 4), (t.area, 1), (bit t.reserveOnly, 1),
    (bit t.compacting, 1), (bit t.damaged, 1)]

/-- PLT_FW_SLOTS (Table 11 of 15). -/
def Store.slotsWord (t : Store) : Nat :=
  packFields [(t.fw0.byte, 8), (t.fw1.byte, 8), (t.running.getD 0, 1), (t.preferred, 1), (t.runningSlot.svn, 6),
    (t.minSvn, 6), (0, 2)]

end Sys2Proof.Machine
end

