-- ==== Sys2Proof/Machine/Recovery.lean ====
section
/-! DEFINITION. Firmware recovery through H0 (17, R753, R754). -/
namespace Sys2Proof.Machine

open Sys2Proof

/-- Bytes of the image buffer, held in S0 (Table 7 of 17). -/
def rcvBuffer : Nat := 268435456

/-- A host access reaches the recovery window: the module is in recovery, and H0's link is up. -/
def State.recovers (s : State) (p : Nat) : Bool := s.phase == .recovery && p == 0 && (s.port 0).reaches

/-- The bits of PLT_RCV_CTL that are kept: GO and LENGTH. -/
def rcvMask : Word := 0x8001FFFF

/-- The outcome of R754: the code, with the slot that would hold the image and its place. -/
def State.recoveryJudge (s : State) (units : Nat) : Code × Option (Nat × FwSlot) :=
  if units < 2 ∨ units > 65536 then (Err.fwImageInvalid, none)
  else
    match s.judgeImage (s.loadBytes (stackAddr 0 0) (4096 * units)) with
    | .error c => (c, none)
    | .ok f => (Err.success, some (if s.store.fw0.state = .good then 1 else 0, { f with state := .trial, tries := 0 }))

/-- PLT_RCV_CTL written (R754): discarded while a GO is being served. -/
def State.recoveryCtl (s : State) (v : Word) : State :=
  if s.rcv.serving then s
  else
    let w := v &&& rcvMask
    if w.getLsbD 31 then
      let (code, target) := s.recoveryJudge (w.toNat % 2 ^ 17)
      { s with rcv := { control := w, status := 0, serving := true, outcome := code, target := target } }
    else { s with rcv := { s.rcv with control := w } }

/-- RECOVERY_GO: a write of PLT_RCV_CTL with GO 1 (R754); a value without it is no occasion. -/
def execRecoveryGo (value : Word) (s : State) : Host.Outcome State Fault Refusal :=
  done s (if s.recovers 0 && value.getLsbD 31 then s.recoveryCtl value else s)

/-- RECOVERY_DONE: the image is in its slot, and DONE is set with the outcome (R754); an image whose blocks fail with no spare
left does not match its digest, and its slot holds none (R688, log entry 55). -/
def State.recoveryDone (s : State) : State :=
  if s.phase ≠ .recovery ∨ !s.rcv.serving then s
  else
    let t := match s.rcv.target with
      | some x => if s.store.holds then s.store.nand.setSlot x.1 x.2 else s.store.setSlot x.1 FwSlot.empty
      | none => s.store
    let code := if s.rcv.target.isSome && !s.store.holds then Err.fwSignatureInvalid else s.rcv.outcome
    let r := { s.rcv with status := 0x80000000 ||| code.zeroExtend 32, serving := false, target := none }
    { s with store := t, rcv := r }

/-- RECOVERY_DONE (R754). -/
def execRecoveryDone (s : State) : Host.Outcome State Fault Refusal := done s s.recoveryDone

/-- A host write to the image buffer; discarded while a GO is being served, or beyond it. -/
def State.bufferWrite (s : State) (off : Nat) (bs : Bytes) : State :=
  if s.rcv.serving ∨ off + bs.length > rcvBuffer then s else s.storeBytes (stackAddr 0 off) bs

/-- A host read of the image buffer. -/
def State.bufferRead (s : State) (off n : Nat) : Bytes :=
  if off + n > rcvBuffer then List.replicate n 0xFF else s.loadBytes (stackAddr 0 off) n

/-- A host write to BAR0 in recovery: PLT_RCV_CTL alone is writable. -/
def State.recoveryWrite (s : State) (off : Nat) (bs : Bytes) : State :=
  if off = 0 ∧ bs.length = 4 then s.recoveryCtl (BitVec.ofNat 32 (leAt bs 0 4)) else s

end Sys2Proof.Machine
end

