-- ==== Sys2Proof/Machine/HostPorts.lean ====
section
/-! DEFINITION. Host ports: links and resets, ownership, freezes and thaws, DMA windows, the aperture, MSI-X and the
host's register writes (11; 10, R526 to R530). -/
namespace Sys2Proof.Machine

open Sys2Proof

/-! ### Links and resets (R534 to R536, R723) -/

/-- Vendor ID, device ID and class code of a part's ports (Table 2 of 11). -/
def portIdentity (part : Part) : Nat × Nat × Nat :=
  (0x1F5E, match part with
    | .f => 0x0910
    | .s => 0x0911
    | .l => 0x0912, 0x120000)

/-- PCIE_CONFIG_REQUEST_RETRY: before the module is ready a configuration request is answered with Request Retry
Status (R723); after a start that ended in a halt, until that status ends (R725, log entry 49). -/
def execPcieConfigRequestRetry (port : Nat) (s : State) : Host.Outcome State Fault Refusal :=
  done s (if s.phase = .inReset ∨ s.phase = .startHalted then s.emit (.retryStatus port) else s)

/-- A port's link goes down (R32, R536, R565, R456). -/
def State.linkDown (s : State) (p : Nat) : State :=
  let q := s.port p
  if !q.present ∨ !q.linkUp then s
  else
    let s1 := (s.holdReads p).updPort p fun q =>
      { q with linkUp := false, speed := 0, width := 0, flit := false, epoch := q.epoch + 1 }
    let s2 := if s1.own.owner = some p then s1.lapse else s1
    s2.pauseHome p

/-- PORT_LINK_DOWN (R536). -/
def execPortLinkDown (port : Nat) (s : State) : Host.Outcome State Fault Refusal := done s (s.linkDown port)

/-- A trained link's fields of HPC_PORT_STATUS. -/
def Port.withLink (q : Port) (l : Option LinkState) : Port :=
  match l with
  | none => { q with linkUp := false, speed := 0, width := 0, flit := false, cfg := PortConfig.reset }
  | some x =>
    { q with linkUp := true, speed := BitVec.ofNat 3 x.speed, width := BitVec.ofNat 5 x.width, flit := x.flit, cfg := x.cfg }

/-- What a hot reset clears in a port (R504, R535, R543). -/
def Port.clear (q : Port) : Port :=
  { q with frozen := false, cause := 0, freezeAddr := 0, events := 0, discards := 0, malformed := 0,
           epoch := q.epoch + 1, segs := List.replicate 16 Segment.reset, windows := [], msix := [], pba := [],
           mgmt := List.replicate 8 Slot.zero, boxes := q.boxes.map fun b => (b.1, List.replicate 4 Slot.zero),
           latches := [] }

/-- A message of a port that was hot-reset: its reply is discarded (R504). -/
def Msg.dropPort (p : Nat) (m : Msg) : Msg :=
  if m.port = p then { m with discard := true, freezes := false } else m

/-- The non-home grants of a port removed (R447). -/
def State.dropGrants (s : State) (p : Nat) : State :=
  s.ctxs.foldl (fun t c =>
    if c.home ≠ p ∧ c.granted p = true then
      (t.updCtx c.num fun x => { x with grants := x.grants.filter fun g => g.1 != p }).closeBox p c.num
    else t) s

/-- The closes of a port's windows no longer wait: the windows are gone. -/
def State.dropCloses (s : State) (p : Nat) : State :=
  let seqs := ((s.port p).windows.map fun w => w.closing).flatten
  { s with ccx := { s.ccx with msgs := s.ccx.msgs.filter fun m => !seqs.contains m.seq } }

/-- The link after a reset of some kind: an FLR leaves it as it was, and its host sets the configuration again. -/
def Port.relink (q : Port) (how : ResetKind) (l : Option LinkState) : Port :=
  match how with
  | .flr => { q with cfg := l.elim PortConfig.reset fun x => x.cfg }
  | .perst => { q.withLink l with perstOff := l.isSome }
  | _ => q.withLink l

/-- A reset of a port that only retrains its link: PERST# before the module is ready (R723), and any in recovery, where H0
has no other state (R753). -/
def State.retrainsOnly (s : State) (how : ResetKind) : Bool :=
  s.phase == .recovery || (s.phase != .ready && how == .perst)

/-- A hot reset of a port (R447, R504, R535, R555, R565, R576). The return of a link has its occasion while the link is
down and gives its state; every other kind while the port is present. -/
def State.hotReset (s : State) (p : Nat) (how : ResetKind) (link : Option LinkState) : State :=
  let q := s.port p
  if !q.present ∨ (how = .linkReturn ∧ (q.linkUp ∨ link = none)) then s
  else if s.retrainsOnly how then s.updPort p fun x => x.relink how link
  else
    let s1 := if s.own.owner = some p then s.lapse else s
    let s2 := s1.dropCloses p
    let s3 := s2.ctxs.foldl (fun t c => if c.home = p then t.beginTearDown c.num else t) (s2.discardHeld p)
    let s4 := s3.dropGrants p
    let s5 : State := { s4 with
      own := { s4.own with claims := s4.own.claims.map fun x => if x.port = p then { x with alive := false } else x }
      ccx := { s4.ccx with msgs := s4.ccx.msgs.map (Msg.dropPort p) } }
    (s5.updPort p fun x => x.clear.relink how link).settle

/-- PORT_HOT_RESET (R535). -/
def execPortHotReset (port : Nat) (how : ResetKind) (link : Option LinkState) (s : State) :
    Host.Outcome State Fault Refusal := done s (s.hotReset port how link)

/-! ### Ownership (R557 to R571) -/

/-- The reply body of a CLAIM (R560). -/
def claimReply (result : Nat) (owner : Option Nat) : Bytes := replyBody (leBytes 1 result ++ leBytes 1 (owner.getD 0xFF))

/-- CLAIM carried out (R561, R562). -/
def carryClaim (s : State) (m : Msg) : Carried :=
  match s.own.owner with
  | some o => .reply s Err.success (claimReply 2 (some o))
  | none =>
    let s1 := if s.own.electing then s else
      ({ s with own := { s.own with electing := true } } : State).allEvent evElectionOpen
    let s2 := match s1.own.claims.find? fun c => c.port == m.port with
      | some c => s1.replyWaiting c.seq Err.success (claimReply 3 none)
      | none => s1
    let c : Claim := { port := m.port, priority := (byteAt m.body 0).toNat, seq := m.seq, alive := true }
    .wait { s2 with own := { s2.own with claims := s2.own.claims.filter (fun x => x.port != m.port) ++ [c] } }

/-- CLAIM (R561). -/
def execClaim (slot : SlotRef) (s : State) : Host.Outcome State Fault Refusal :=
  done s (s.takeRow slot .claim carryClaim)

/-- A claimant that may win (R563). -/
def State.eligible (s : State) (c : Claim) : Bool := c.alive && (s.port c.port).answers

/-- The claim that wins: the highest priority, the lowest port winning ties (R563). -/
def winner : List Claim → Option Claim
  | [] => none
  | c :: cs =>
    match winner cs with
    | none => some c
    | some d =>
      if c.priority > d.priority ∨ (c.priority = d.priority ∧ c.port < d.port) then some c else some d

/-- The window of an election closes (R563, R564). Its occasion is an open election with a CLAIM taken (R561, R565). -/
def State.closeElection (s : State) : State :=
  if !s.running ∨ !s.own.electing ∨ s.own.claims.isEmpty then s
  else
    let claims := s.own.claims
    let win := (winner (claims.filter s.eligible)).map fun c => c.port
    let s1 : State := { s with own := { owner := win, electing := false, claims := [], offer := none } }
    let s2 := if win.isSome then s1.allEvent evOwnerChanged else s1
    claims.foldl (fun t c =>
      t.replyWaiting c.seq Err.success (claimReply (if win = some c.port then 0 else 1) win)) s2

/-- ELECTION_CLOSE (R563). -/
def execElectionClose (s : State) : Host.Outcome State Fault Refusal := done s s.closeElection

/-- HANDOVER carried out (R567, R568). -/
def carryHandover (s : State) (m : Msg) : Carried :=
  let t := (byteAt m.body 0).toNat
  if t ≥ 4 ∨ t = m.port ∨ !(s.port t).answers then refuse s Err.handoverInvalid
  else accept (({ s with own := { s.own with offer := some (m.port, t) } } : State).portEvent t evOffered) []

/-- HANDOVER: ownership offered to a port (R567). -/
def execHandover (slot : SlotRef) (s : State) : Host.Outcome State Fault Refusal :=
  done s (s.takeRow slot .handover carryHandover)

/-- HANDOVER with TARGET 0xFF carried out: ownership has lapsed at the take (R565, R567). -/
def carryResign (s : State) (_ : Msg) : Carried := accept s []

/-- HANDOVER with TARGET 0xFF: the owner resigns (R567). -/
def execHandoverResign (slot : SlotRef) (s : State) : Host.Outcome State Fault Refusal :=
  done s (s.takeRow slot .handoverResign carryResign)

/-- ACCEPT carried out (R566, R569). -/
def carryAccept (s : State) (m : Msg) : Carried :=
  if s.own.offer = some ((byteAt m.body 0).toNat, m.port) then
    accept (({ s with own := { s.own with owner := some m.port, offer := none } } : State).allEvent evOwnerChanged) []
  else refuse s Err.handoverInvalid

/-- ACCEPT: the offered port takes ownership (R569). -/
def execAccept (slot : SlotRef) (s : State) : Host.Outcome State Fault Refusal :=
  done s (s.takeRow slot .accept carryAccept)

/-- HANDOVER_OFFER_EXPIRE: 1 s after the HANDOVER was taken (R570). -/
def execHandoverOfferExpire (s : State) : Host.Outcome State Fault Refusal :=
  done s (if s.running then { s with own := { s.own with offer := none } } else s)

/-! ### Thaw (R575) -/

/-- A port thawed; while its link is down its contexts stay paused and its chunks held (R32, R386). -/
def State.thaw (s : State) (p : Nat) : State :=
  let s1 := (s.updPort p fun q =>
    { q with frozen := false, cause := 0, freezeAddr := 0, malformed := 0, epoch := q.epoch + 1 }).portEvent p evThawed
  if (s1.port p).linkUp then (s1.releaseHeld p).unpauseHome p else s1

/-- PORT_THAW carried out (R575). -/
def carryPortThaw (s : State) (m : Msg) : Carried :=
  let p := (byteAt m.body 0).toNat
  if p ≥ 4 ∨ !(s.port p).present ∨ !(s.port p).frozen then refuse s Err.thawInvalid else accept (s.thaw p) []

/-- PORT_THAW (R575). -/
def execPortThaw (slot : SlotRef) (s : State) : Host.Outcome State Fault Refusal :=
  done s (s.takeRow slot .portThaw carryPortThaw)

/-! ### DMA windows (R551 to R555) -/

/-- DMA_WINDOW open carried out (R551, R554). -/
def carryDmaOpen (s : State) (m : Msg) : Carried :=
  let b := m.body
  let w := (byteAt b 1).toNat
  let fl := (byteAt b 2).toNat
  let len := leAt b 16 8
  if fl ≥ 16 ∨ fl % 4 = 0 ∨ leAt b 8 8 % 4096 ≠ 0 ∨ len = 0 ∨ len % 4096 ≠ 0 ∨ len > 2 ^ 48 ∨
      (s.window? m.port w).isSome then
    refuse s Err.dmaWindowInvalid
  else
    let win : Window :=
      { index := w, read := bitOf fl 0, write := bitOf fl 1, noSnoop := bitOf fl 2, relaxed := bitOf fl 3,
        hostAddr := leAt b 8 8, length := len, closing := [] }
    accept (s.updPort m.port fun q => { q with windows := q.windows ++ [win] }) (leBytes 1 w)

/-- DMA_WINDOW open: a window onto the port's host memory (R551). -/
def execDmaWindowOpen (slot : SlotRef) (s : State) : Host.Outcome State Fault Refusal :=
  done s (s.takeRow slot .dmaOpen carryDmaOpen)

/-- A window taken away. -/
def State.dropWindow (s : State) (p w : Nat) : State :=
  s.updPort p fun q => { q with windows := q.windows.filter fun x => x.index != w }

/-- DMA_WINDOW close carried out: it waits for the chunks dealt toward the window (R554, R555). -/
def carryDmaClose (s : State) (m : Msg) : Carried :=
  let b := m.body
  let w := (byteAt b 1).toNat
  if (byteAt b 2).toNat ≥ 16 ∨ leAt b 8 8 ≠ 0 ∨ leAt b 16 8 ≠ 0 ∨ (s.window? m.port w).isNone then
    refuse s Err.dmaWindowInvalid
  else if s.towardWindow m.port w then
    .wait (s.updPort m.port fun q =>
      { q with windows := q.windows.map fun x => if x.index = w then { x with closing := x.closing ++ [m.seq] } else x })
  else accept (s.dropWindow m.port w) (leBytes 1 w)

/-- DMA_WINDOW close (R555). -/
def execDmaWindowClose (slot : SlotRef) (s : State) : Host.Outcome State Fault Refusal :=
  done s (s.takeRow slot .dmaClose carryDmaClose)

/-- A waiting close replied once no dealt chunk toward the window remains (R555). -/
def State.closeDone (s : State) (p w : Nat) : State :=
  match s.window? p w with
  | none => s
  | some x =>
    if !s.running ∨ x.closing.isEmpty ∨ s.towardWindow p w then s
    else
      x.closing.foldl (fun t seq => t.replyWaiting seq Err.success (replyBody (leBytes 1 w))) (s.dropWindow p w)

/-- DMA_WINDOW_CLOSE_DONE (R555). -/
def execDmaWindowCloseDone (port : Nat) (window : Nat) (s : State) : Host.Outcome State Fault Refusal :=
  done s (s.closeDone port window)

/-! ### The aperture (R546 to R550) -/

/-- An aperture segment of a port. -/
def State.seg (s : State) (p n : Nat) : Segment := (s.port p).segs.getD n Segment.reset

/-- An arm is refused (R548). -/
def State.armRefused (s : State) (p c base : Nat) : Bool :=
  !s.holds p c || base % bigPage != 0 || decide (base + 2 ^ 32 > 2 ^ 48)

/-- HPC_AP_CTL(n) written (R547, R548): it acts at once, the port's apply point being the end of this transaction. -/
def State.writeApCtl (s : State) (p n : Nat) (v : Word) : State :=
  let g := s.seg p n
  let c := v.toNat % 1024
  let base := g.baseHi.toNat * 2 ^ 32 + g.baseLo.toNat
  let g1 := { g with write := v.getLsbD 30, ctx := BitVec.ofNat 10 c, refused := false, valid := false }
  let g2 :=
    if !v.getLsbD 31 then g1
    else if s.armRefused p c base then { g1 with refused := true }
    else { g1 with valid := true, base := base, armedCtx := c, armedWrite := v.getLsbD 30 }
  s.updPort p fun q => { q with segs := q.segs.set n g2 }

/-- Where an aperture access to one byte lands, none when it may not be made (R546, R549). -/
def State.apertureAt (s : State) (p off : Nat) (write : Bool) : Option Nat :=
  let g := s.seg p (off / 2 ^ 32)
  if !g.valid || (write && !g.armedWrite) then none
  else
    match s.translate g.armedCtx (g.base + off % 2 ^ 32) write with
    | .ok a => some a
    | .error _ => none

/-- An access lies within the size the host gave BAR2 (R534). -/
def Port.inBar2 (q : Port) (off n : Nat) : Bool := decide (off + n ≤ q.cfg.bar2Gib * 2 ^ 30)

/-- Where every byte of an aperture access lands, none when one may not be made. -/
def State.apertureRun (s : State) (p off n : Nat) (write : Bool) : Option (List Nat) :=
  (List.range n).mapM fun i => s.apertureAt p (off + i) write

/-- The bytes of memory a host write through BAR2 reaches, none where it is discarded or freezes the port. -/
def State.apertureTarget (s : State) (p off : Nat) (bs : Bytes) : Option (List Nat) :=
  let q := s.port p
  if s.recovers p || !s.hostsServed || !q.answers || !q.inBar2 off bs.length then none
  else s.apertureRun p off bs.length true

/-- A host write through BAR2 (R549, R550, R573; R753 in recovery). -/
def State.apertureWrite (s : State) (p off : Nat) (bs : Bytes) : State :=
  let q := s.port p
  if s.recovers p then s.bufferWrite off bs
  else if !s.hostsServed ∨ !q.reaches ∨ !q.inBar2 off bs.length then s
  else if q.frozen then s.discard p
  else
    match s.apertureRun p off bs.length true with
    | none => s.freezeWrite p Err.frozenAperture off
    | some as => (as.zip bs).foldl (fun t x => t.storeByte x.1 x.2) s

/-- A host read through BAR2: its bytes, or all 0xFF (R549, R573). -/
def State.apertureRead (s : State) (p off n : Nat) : State :=
  let q := s.port p
  let ones : Bytes := List.replicate n 0xFF
  if s.recovers p then s.emit (.readData p (s.bufferRead off n))
  else if !s.hostsServed ∨ !q.reaches ∨ !q.inBar2 off n then s
  else if q.frozen then s.emit (.readData p ones)
  else
    match s.apertureRun p off n false with
    | none => (s.emit (.readData p ones)).freezePort p Err.frozenAperture off
    | some as => s.emit (.readData p (as.map s.loadByte))

/-- APERTURE_READ (R549). -/
def execApertureRead (port : Nat) (offset : Nat) (length : Nat) (s : State) : Host.Outcome State Fault Refusal :=
  done s (s.apertureRead port offset length)

/-! ### MSI-X (R543) -/

/-- The pending message of an unmasked vector sent. -/
def State.flushVector (s : State) (p v : Nat) : State :=
  let q := s.port p
  if q.pba.contains v && !q.vectorMasked v && q.cfg.msixOn then
    (s.updPort p fun q => { q with pba := q.pba.filter fun x => x != v }).emit (.msix p v)
  else s

/-- One word of an MSI-X entry: 0 address low, 1 address high, 2 data, 3 vector control (mask in bit 0). -/
def MsixEntry.put (e : MsixEntry) (i : Nat) (w : Word) : MsixEntry :=
  match i with
  | 0 => { e with addrLo := w }
  | 1 => { e with addrHi := w }
  | 2 => { e with data := w }
  | _ => { e with control := w &&& 1 }

/-- An MSI-X table word written; unmasking a vector whose pending bit is set sends it (R543). -/
def State.writeMsix (s : State) (p i : Nat) (w : Word) : State :=
  let v := i / 4
  let s1 := s.updPort p fun q =>
    { q with msix := (q.msixEntry v).put (i % 4) w :: q.msix.filter fun e => e.vector != v }
  s1.flushVector p v

/-! ### The debug path (R526 to R530) -/

/-- A write outside service mode is discarded and DEBUG_LOCKED recorded (R527). -/
def State.debugLocked (s : State) (p : Nat) : State :=
  let s1 := s.discard p
  { s1 with ccx := { s1.ccx with dbgCode := Err.debugLocked } }

/-- Port groups with a present port. -/
def State.presentGroups (s : State) : List Nat :=
  if !s.hasFabric then []
  else (List.range 6).filter fun g => (List.range 4).any fun i => (s.fab.ports.getD (4 * g + i) (FabPort.reset false)).present

/-- Port groups an arm's INSTANCE names. -/
def State.armGroups (s : State) (inst : Nat) : List Nat := if inst = 0xFF then s.presentGroups else [inst]

/-- Port groups whose copies a discard drops: that of its INSTANCE, or every group (R528). -/
def discardGroups (inst : Nat) : List Nat := if inst = 0xFF then List.range 6 else [inst]

/-- An arm is ignored (R529). -/
def State.armInvalid (s : State) (v : Word) : Bool :=
  let n := v.toNat
  let inst := bitsOf n 15 8
  bitsOf n 31 24 != 0xA5 || bitsOf n 23 16 != 0x0B || !(inst == 0xFF || s.presentGroups.contains inst) ||
    !s.hasFabric || bitsOf n 7 1 != 0 || !s.ccx.dbgWaiting.isEmpty

/-- The staged copies of some port groups changed. -/
def State.updGroups (s : State) (gs : List Nat) (f : FabPort → FabPort) : State :=
  { s with fab := { s.fab with ports := s.fab.ports.mapIdx fun i x => if gs.contains (i / 4) then f x else x } }

/-- A staged copy armed for its group's apply point; a register of an excluded port is ignored (R528, R736). -/
def FabPort.arm (ord : Nat) (f : FabPort) : FabPort :=
  { f with armed := if f.present then f.staged else none, staged := none, armOrd := ord }

/-- CCX_DBG_ARM written by the owner in service mode (R528, R529, R531). -/
def State.debugArm (s : State) (v : Word) : State :=
  if s.armInvalid v then { s with ccx := { s.ccx with dbgCode := Err.debugArmInvalid } }
  else
    let gs := s.armGroups (bitsOf v.toNat 15 8)
    let s1 : State := { s with ccx := { s.ccx with dbgCode := Err.success, dbgApplied := 0 } }
    if v.getLsbD 0 then s1.updGroups (discardGroups (bitsOf v.toNat 15 8)) fun f => { f with staged := none }
    else
      let s2 := (s1.updGroups gs (FabPort.arm s1.ord)).tick
      { s2 with ccx := { s2.ccx with dbgWaiting := gs } }

/-- An OW write (R13, R526, R527, R571): a write of a port that is not the owner freezes it. -/
def State.writeOw (s : State) (p off : Nat) (v : Word) : State :=
  if s.own.owner ≠ some p then s.freezeWrite p Err.frozenOwWrite off
  else if !s.ccx.service then s.debugLocked p
  else if off = 0x900000 then s.debugArm v
  else
    let stage (f : FabPort) : FabPort := { f with staged := some (v &&& 0xFE00FFFF) }
    { s with fab := { s.fab with ports := s.fab.ports.modify ((off - 0xD80000) / 4) stage },
             ccx := { s.ccx with dbgCode := Err.success } }

/-! ### Register writes (R537, R541) -/

/-- An OW register of the configuration area (R762). -/
def State.isOw (s : State) (off : Nat) : Bool :=
  off == 0x900000 || (s.hasFabric && decide (0xD80000 ≤ off) && decide (off < 0xD80000 + 4 * 24))

/-- HPC_EVENTS written: the bits of 1 are cleared (R541). -/
def State.clearEvents (s : State) (p : Nat) (v : Word) : State :=
  s.updPort p fun q => { q with events := q.events &&& ~~~(v.truncate 5) }

/-- A whole aligned register of the port register page written (Table 4 of 11). -/
def State.writePortReg (s : State) (p o : Nat) (v : Word) : State :=
  if o = 0x010 then s.clearEvents p v
  else if o = 0x014 then s.updPort p fun q => { q with eventEn := v &&& 0x1F }
  else if 0x100 ≤ o ∧ o < 0x200 then
    let n := (o - 0x100) / 16
    match o % 16 with
    | 0 => s.updPort p fun q => { q with segs := q.segs.modify n fun g => { g with baseLo := v } }
    | 4 => s.updPort p fun q => { q with segs := q.segs.modify n fun g => { g with baseHi := v } }
    | 8 => s.writeApCtl p n v
    | _ => s.discard p
  else s.discard p

/-- Words of an aligned write, with their offsets. -/
def wordsOf (off : Nat) (bs : Bytes) : List (Nat × Word) :=
  (List.range (bs.length / 4)).map fun i => (off + 4 * i, BitVec.ofNat 32 (leAt bs (4 * i) 4))

/-- The slot of a mailbox area, and the offset in it, of a BAR0 offset (Table 3 of 11). -/
def slotAt (p off : Nat) : Option (SlotRef × Nat) :=
  if 0x2000 ≤ off ∧ off < 0x2800 then some ({ port := p, box := none, slot := (off - 0x2000) / 256 }, off % 256)
  else if 0x400000 ≤ off ∧ off < 0x500000 then
    let c := (off - 0x400000) / 1024
    some ({ port := p, box := some c, slot := off % 1024 / 256 }, off % 256)
  else none

/-- A write to slot bytes, cut at slot ends; what falls beyond the mailboxes is discarded. `fuel` bounds the slots. -/
def State.hostSlots (s : State) (p : Nat) : Nat → Nat → Bytes → State
  | 0, _, _ => s.discard p
  | fuel + 1, off, bs =>
    match slotAt p off with
    | none => s.discard p
    | some (r, o) =>
      if o + bs.length ≤ 256 then s.hostSlot r o bs
      else State.hostSlots (s.hostSlot r o (bs.take (256 - o))) p fuel (off + (256 - o)) (bs.drop (256 - o))

/-- One whole aligned register written; a port that the write of a register before it has frozen writes no more (R537,
R573). -/
def State.writeReg (s : State) (p off : Nat) (v : Word) : State :=
  if (s.port p).frozen then s
  else if 0x1000 ≤ off ∧ off < 0x2000 then s.writePortReg p (off - 0x1000) v
  else if s.isOw off then s.writeOw p off v
  else s.discard p

/-- A host write to BAR0 (R753 in recovery; R13, R490, R491, R537, R540, R573, R762). -/
def State.hostWrite (s : State) (p off : Nat) (bs : Bytes) : State :=
  let q := s.port p
  if s.recovers p then s.recoveryWrite off bs
  else if !s.hostsServed ∨ !q.reaches then s
  else if q.frozen then s.discard p
  else
    match slotAt p off with
    | some _ => s.hostSlots p (bs.length / 256 + 2) off bs
    | none =>
      if 0x8000 ≤ off ∧ off < 0x10000 then
        if off % bs.length = 0 ∧ (bs.length = 4 ∨ bs.length = 8) then
          (wordsOf (off - 0x8000) bs).foldl (fun t x => t.writeMsix p (x.1 / 4) x.2) s
        else s.discard p
      else if bs.isEmpty ∨ bs.length % 4 ≠ 0 ∨ off % 4 ≠ 0 then s.discard p
      else (wordsOf off bs).foldl (fun t x => t.writeReg p x.1 x.2) s

/-- HPC_EVENTS_CLEAR: a W1C write of HPC_EVENTS (R541). -/
def execHpcEventsClear (port : Nat) (value : Word) (s : State) : Host.Outcome State Fault Refusal :=
  done s (s.hostWrite port 0x1010 (leBytes 4 value.toNat))

/-- APERTURE_ARM: a write of HPC_AP_CTL with VALID 1 (R547); a value without it is no occasion. -/
def execApertureArm (port : Nat) (seg : Nat) (value : Word) (s : State) : Host.Outcome State Fault Refusal :=
  done s (if value.getLsbD 31 then s.hostWrite port (0x1108 + 16 * seg) (leBytes 4 value.toNat) else s)

/-- APERTURE_DISARM: a write of HPC_AP_CTL with VALID 0 (R547); a value with it is no occasion. -/
def execApertureDisarm (port : Nat) (seg : Nat) (value : Word) (s : State) : Host.Outcome State Fault Refusal :=
  done s (if value.getLsbD 31 then s else s.hostWrite port (0x1108 + 16 * seg) (leBytes 4 value.toNat))

/-- MSIX_UNMASK: a write of 0 to a vector's control word (R543). -/
def execMsixUnmask (port : Nat) (vector : Nat) (s : State) : Host.Outcome State Fault Refusal :=
  done s (s.hostWrite port (0x8000 + 16 * vector + 12) (zeros 4))

/-- DEBUG_ARM: a write of CCX_DBG_ARM with DISCARD 0 (R528); a value with it is no occasion. -/
def execDebugArm (port : Nat) (value : Word) (s : State) : Host.Outcome State Fault Refusal :=
  done s (if value.getLsbD 0 then s else s.hostWrite port 0x900000 (leBytes 4 value.toNat))

/-- DEBUG_DISCARD: a write of CCX_DBG_ARM with DISCARD 1 (R528); a value without it is no occasion. -/
def execDebugDiscard (port : Nat) (value : Word) (s : State) : Host.Outcome State Fault Refusal :=
  done s (if value.getLsbD 0 then s.hostWrite port 0x900000 (leBytes 4 value.toNat) else s)

/-- FAB_PRBS_CTL_WRITE: a write of FAB_PRBS_CTL(p) (R526). -/
def execFabPrbsCtlWrite (port : Nat) (fabPort : Nat) (value : Word) (s : State) : Host.Outcome State Fault Refusal :=
  done s (s.hostWrite port (0xD80000 + 4 * fabPort) (leBytes 4 value.toNat))

end Sys2Proof.Machine
end

