-- ==== Sys2Proof/Machine/Tensor.lean ====
section
/-! DEFINITION. Stored tensors: format codes, element and scale planes, decoding, and the conversions that leave FP32
(02_number_formats.md, R45 to R63, R75 to R81; 03, R102, R108). -/
namespace Sys2Proof.Machine

open Sys2Proof

/-! ### Format codes (Table 1 of 02) -/

/-- A reserved format code (R45). -/
def fmtReserved (c : Nat) : Bool := decide (13 ≤ c)

/-- A microscaling format. -/
def isMx (c : Nat) : Bool := decide (6 ≤ c) && decide (c ≤ 10)

/-- A plain FP8 format. -/
def isFp8 (c : Nat) : Bool := c == 4 || c == 5

/-- A weight code. -/
def isCode (c : Nat) : Bool := c == 11 || c == 12

/-- A floating-point format whose value needs no scale: FP32, BF16 or FP16. -/
def isFloat (c : Nat) : Bool := decide (1 ≤ c) && decide (c ≤ 3)

/-- Element encoding of a format code (Tables 1 and 2 of 02). -/
def elemFmt (c : Nat) : Fmt :=
  match c with
  | 2 => bf16
  | 3 => fp16
  | 4 => e4m3
  | 5 => e5m2
  | 6 => e4m3
  | 7 => e5m2
  | 8 => e2m3
  | 9 => e3m2
  | 10 => e2m1
  | _ => fp32

/-- Bits of an element (Table 1 of 02). -/
def elemBits (c : Nat) : Nat :=
  match c with
  | 1 => 32
  | 2 => 16
  | 3 => 16
  | 8 => 6
  | 9 => 6
  | 10 => 4
  | 11 => 1
  | 12 => 2
  | _ => 8

/-- Bytes of a dense row of `n` elements (R47, R53, R62). -/
def rowBytes (c n : Nat) : Nat :=
  if isMx c then cdiv n 32 * (4 * elemBits c)
  else if isCode c then cdiv n 128 * (16 * elemBits c)
  else n * elemBits c / 8

/-- Bytes a read of a row of `n` elements takes: those of the elements themselves, not of the padding of a last block
(R124). -/
def rowRead (c n : Nat) : Nat := cdiv (n * elemBits c) 8

/-- Bytes of a row's scales (R52, R63). -/
def scaleBytes (c n : Nat) : Nat := if isMx c then cdiv n 32 else if isCode c then 2 * cdiv n 128 else 0

/-- Two formats that may meet in a product (R58, Table 3 of 02). -/
def pairing (a b : Nat) : Bool :=
  (a == b && decide (2 ≤ a) && decide (a ≤ 10)) || (isCode b && (a == 2 || isFp8 a || a == 6 || a == 7))

/-! ### Rows -/

/-- The elements of a row read as one little-endian number: element `i` stands at bit `i` times its width (R53, R62). -/
def unpackRow (c n : Nat) (bs : Bytes) : List Nat :=
  let v := leVal bs
  (List.range n).map fun i => (v >>> (elemBits c * i)) % 2 ^ elemBits c

/-- A row of element bits packed, zero beyond its last element (R55). -/
def packRow (c : Nat) (bits : List Nat) : Bytes :=
  leBytes (rowBytes c bits.length) (bits.foldr (fun b acc => b + 2 ^ elemBits c * acc) 0)

/-- What a weight code selects (R61). -/
def codeSelect (c bits : Nat) : Val :=
  if c = 11 then .fin (bits == 0) 1 0
  else
    match bits with
    | 1 => .fin false 1 0
    | 2 => .fin true 2 0
    | 3 => .fin true 1 0
    | _ => .fin false 0 0

/-- A row decoded: element values before any block or tensor scale, with NaN in a block whose scale is 0xFF (R54), and the
block exponents of 32 elements each, 0 outside MX. -/
structure Row where
  vals   : List Val
  xs     : List Int
  groups : List Word                  -- BF16 scales of a code row, as FP32
  deriving DecidableEq, Repr

/-- A block's exponent: its scale byte less 127 (R54). -/
def scaleExp (b : Nat) : Int := (b : Int) - 127

/-- An element of a row decoded. -/
def decodeElem (c bits scale : Nat) : Val :=
  if isCode c then codeSelect c bits
  else if isMx c && scale == 255 then .nan
  else decodeVal (elemFmt c) bits

/-- A row of `n` elements decoded from its bits and its scale bytes. -/
def decodeBits (c : Nat) (bits scales : List Nat) : Row :=
  { vals := bits.mapIdx fun i b => decodeElem c b (scales.getD (i / 32) 0),
    xs := if isMx c then scales.map scaleExp else [],
    groups := [] }

/-- A row decoded from its bytes. -/
def decodeRow (c n : Nat) (bs scales : Bytes) : Row :=
  if isCode c then
    { vals := (unpackRow c n bs).map (codeSelect c), xs := [],
      groups := (List.range (cdiv n 128)).map fun g => rnd32 (decodeVal bf16 (leAt scales (2 * g) 2)) }
  else decodeBits c (unpackRow c n bs) (scales.map fun b => b.toNat)

/-- Element `i` of a row with its block scale. -/
def Row.val (r : Row) (i : Nat) : Val := Val.scale (r.xs.getD (i / 32) 0) (r.vals.getD i (.fin false 0 0))

/-- The elements of a row as FP32: exact, or the infinity of its sign beyond the range (R178, R338). -/
def Row.words (r : Row) : List Word := r.vals.mapIdx fun i v => rnd32 (Val.scale (r.xs.getD (i / 32) 0) v)

/-- The elements of a row of FP32 side values, a plain FP8 one as round(e x scale) (R206, R238). -/
def Row.scaled (r : Row) (c : Nat) (ts : Word) : List Word :=
  if isFp8 c then r.words.map fun w => fmul w ts else r.words

/-! ### Planes (R52, R102, R108) -/

/-- A stored tensor: rows of `len` elements, with its scale plane. -/
structure Plane where
  addr  : Nat
  fmt   : Nat
  len   : Nat
  ld    : Nat
  saddr : Nat
  deriving DecidableEq, Repr

/-- Bytes between rows; 0 stands for dense rows. -/
def Plane.stride (p : Plane) : Nat := if p.ld = 0 then rowBytes p.fmt p.len else p.ld

/-- Address of a row's elements, and of its scales. -/
def Plane.at (p : Plane) (r : Nat) : Nat := p.addr + r * p.stride
def Plane.scalesAt (p : Plane) (r : Nat) : Nat := p.saddr + r * scaleBytes p.fmt p.len

/-- The bytes of the first `m` rows of a plane, as ranges. -/
def Plane.ranges (p : Plane) (m : Nat) : List (Nat × Nat) :=
  let sb := scaleBytes p.fmt p.len
  let rb := rowBytes p.fmt p.len
  (if p.stride = rb then [(p.addr, m * rb)] else (List.range m).map fun r => (p.at r, rb)) ++
    if sb = 0 then [] else [(p.saddr, m * sb)]

/-- A stride that R108 allows for a format and row length. -/
def ldOk (c n ld : Nat) : Bool :=
  ld == 0 || (!isMx c && !isCode c && ld % 16 == 0 && decide (rowBytes c n ≤ ld))

/-- A 16-byte aligned device virtual address (R108). -/
def addrOk (a : Nat) : Bool := a % 16 == 0 && decide (a < 2 ^ 48)

/-- Why an item of a command stops: the code, and the detail of its fault record. -/
abbrev Stop := Code × Bytes

/-- Bytes read through a context's mappings for an item (R357, R358). -/
def State.fetch (s : State) (ctx va n : Nat) : Except Stop Bytes :=
  match s.vread ctx va n with
  | .ok b => .ok b
  | .error f => .error (f.1, [])

/-- A row of a plane read. -/
def State.readRow (s : State) (ctx : Nat) (p : Plane) (r : Nat) : Except Stop Row := do
  let bs ← s.fetch ctx (p.at r) (rowRead p.fmt p.len)
  let sc ← s.fetch ctx (p.scalesAt r) (scaleBytes p.fmt p.len)
  .ok (decodeRow p.fmt p.len bs sc)

/-- The first `m` rows of a plane read. -/
def State.readRows (s : State) (ctx : Nat) (p : Plane) (m : Nat) : Except Stop (List Row) :=
  (List.range m).mapM fun r => s.readRow ctx p r

/-- A vector of `n` FP32, BF16 or FP16 values read. -/
def State.readVec (s : State) (ctx va c n : Nat) : Except Stop (List Word) := do
  let bs ← s.fetch ctx va (rowBytes c n)
  .ok (decodeRow c n bs []).words

/-! ### Conversion on output (R75 to R81) -/

/-- A value rounded to FP32, BF16 or FP16 and read back as FP32 (R75, R201). -/
def roundFmt (c : Nat) (w : Word) : Word :=
  if c = 1 then w else rnd32 (decodeVal (elemFmt c) (encodeVal (elemFmt c) .infinity (Word.val w)))

/-- Overflow of a conversion: infinities in BF16 and FP16; saturation unless NONSAT in FP8 and MX (R75 to R78). -/
def overflowOf (c : Nat) (nonSat : Bool) : Overflow :=
  if isFloat c then .infinity else if nonSat then .nonSat else .saturate

/-- emax of an element format (R79). -/
def emaxOf (c : Nat) : Int :=
  match c with
  | 6 => 8
  | 7 => 15
  | 9 => 4
  | _ => 2

/-- floor(log2) of a magnitude, none for zero. -/
def Val.log2? : Val → Option Int
  | .fin _ m e => if m = 0 then none else some ((Nat.log2 m : Int) + e)
  | _ => none

/-- The larger of two optional exponents. -/
def maxExp (a : Option Int) (v : Val) : Option Int :=
  match a, Val.log2? v with
  | none, b => b
  | some x, none => some x
  | some x, some y => some (max x y)

/-- The shared exponent of a block of finite values, clamped (R79). -/
def sharedExp (c : Nat) (vs : List Val) : Int :=
  match vs.foldl maxExp none with
  | none => -127
  | some l => max (-127) (min 127 (l - emaxOf c))

/-- A value finite and not NaN. -/
def Val.isFin : Val → Bool
  | .fin _ _ _ => true
  | _ => false

/-- A block converted: its scale byte and its element bits (R79 to R81). -/
def encodeBlock (c : Nat) (nonSat : Bool) (vs : List Val) : Nat × List Nat :=
  if vs.all Val.isFin then
    let x := sharedExp c vs
    ((x + 127).toNat, vs.map fun v => encodeVal (elemFmt c) (overflowOf c nonSat) (Val.scale (-x) v))
  else (255, vs.map fun _ => 0)

/-- A list cut into runs of `n`; `fuel` bounds the runs. -/
def runsOf {α : Type} (n : Nat) : Nat → List α → List (List α)
  | 0, _ => []
  | fuel + 1, l => if l.isEmpty then [] else l.take n :: runsOf n fuel (l.drop n)

/-- A row converted to a format: element bits, and block scales of an MX format. `q` is the quantisation factor of plain
FP8 (R76). -/
def encodeRow (c : Nat) (nonSat : Bool) (q : Word) (ws : List Word) : List Nat × List Nat :=
  if isMx c then
    let bl := (runsOf 32 ws.length (ws.map Word.val)).map (encodeBlock c nonSat)
    ((bl.map fun b => b.2).flatten, bl.map fun b => b.1)
  else
    (ws.map fun w =>
      encodeVal (elemFmt c) (overflowOf c nonSat) (Word.val (if isFp8 c then fmul w q else w)), [])

/-- The bytes of a converted row: elements, and scales. -/
def rowImage (c : Nat) (nonSat : Bool) (q : Word) (ws : List Word) : Bytes × Bytes :=
  let r := encodeRow c nonSat q ws
  (packRow c r.1, r.2.map fun x => BitVec.ofNat 8 x)

/-- A row as it reads back after a conversion (R208). -/
def readBack (c : Nat) (nonSat : Bool) (q : Word) (ws : List Word) : Row :=
  let r := encodeRow c nonSat q ws
  decodeBits c r.1 r.2

/-- The writes that store a matrix's rows in a plane (R126, R201). -/
def storeRows (p : Plane) (nonSat : Bool) (q : Word) (rows : List (List Word)) : List (Nat × Bytes) :=
  (rows.mapIdx fun r ws =>
    let im := rowImage p.fmt nonSat q ws
    (p.at r, im.1) :: if im.2.isEmpty then [] else [(p.scalesAt r, im.2)]).flatten

end Sys2Proof.Machine
end

