-- ==== Sys2Proof/Machine/Dot.lean ====
section
/-! DEFINITION. The dot-product pipeline (02_number_formats.md, R64 to R73) and the NaN events of a tile (R83 to R88). -/
namespace Sys2Proof.Machine

open Sys2Proof

/-- A matrix of FP32 values, row by row. -/
abbrev Mat := List (List Word)

/-! ### Groups of 32 products (R66 to R70) -/

/-- An aligned product: the bits of weight 2^(e - 27) and above, with its sign (R66). -/
def alignProduct (emax : Int) : Val → Int
  | .fin s m e =>
    let k := e - (emax - 27)
    toInt s (if k ≥ 0 then m * 2 ^ k.toNat else m / 2 ^ (-k).toNat)
  | _ => 0

/-- The infinity of a sign, as FP32. -/
def infWord (neg : Bool) : Word := if neg then fnegInf else fposInf

/-- One group: exact products aligned to the largest, summed exactly and rounded once, with the exponent of the two block
scales (R66 to R70, R72). -/
def groupSum (xs : Int) (ps : List Val) : Word :=
  let pos := ps.contains (.inf false)
  let neg := ps.contains (.inf true)
  if (ps.any Val.isNan) || (pos && neg) then fnan
  else if pos || neg then infWord neg
  else
    match ps.foldl maxExp none with
    | none => 0
    | some emax =>
      let t := (ps.map (alignProduct emax)).sum
      if t = 0 then 0 else rnd32 (.fin (decide (t < 0)) t.natAbs (emax - 27 + xs))

/-- The products of two rows, cut into groups. -/
def productGroups (a b : List Val) : List (List Val) :=
  let ps := List.zipWith Val.mul a b
  runsOf 32 ps.length ps

/-- The group results of two rows in ascending k (R68). -/
def groupSums (a b : Row) : List Word :=
  (productGroups a.vals b.vals).mapIdx fun j ps => groupSum (a.xs.getD j 0 + b.xs.getD j 0) ps

/-- One code group of 128: three additions, then its BF16 scale (R64). Sub-groups wholly beyond K join as +0. -/
def codeGroup (g : List Word) (scale : Word) : Word :=
  fmul (fadd (fadd (fadd (g.getD 0 0) (g.getD 1 0)) (g.getD 2 0)) (g.getD 3 0)) scale

/-- What an accumulator takes, in ascending k: a result for each 32 products, or for each code group (R64, R68). -/
def addends (code : Bool) (a b : Row) : List Word :=
  let g := groupSums a b
  if code then (runsOf 4 g.length g).mapIdx fun i l => codeGroup l (b.groups.getD i 0) else g

/-- An accumulator over its addends (R71). -/
def accumulate (start : Word) (l : List Word) : Word := l.foldl fadd start

/-- The k of an addend. -/
def addendK (code : Bool) : Nat := if code then 128 else 32

/-- The addends of a part, from one weight tile's first k to another's; `unit` is the k of an addend. -/
def partOfSums (unit lo hi : Nat) (l : List Word) : List Word := (l.drop (lo / unit)).take (cdiv hi unit - lo / unit)

/-- The accumulator of an output element over one part of K (R71, R121). -/
def dotPart (code : Bool) (lo hi : Nat) (start : Word) (a b : Row) : Word :=
  accumulate start (partOfSums (addendK code) lo hi (addends code a b))

/-- The dot product of two rows from a start value. -/
def dotFrom (start : Word) (a b : Row) : Word := accumulate start (addends false a b)

/-- The first k at which an accumulator over its addends turns NaN. -/
def nanAt (unit : Nat) : Nat → Word → List Word → Nat
  | k, _, [] => k
  | k, acc, x :: xs => if fisNan (fadd acc x) then k else nanAt unit (k + unit) (fadd acc x) xs

/-- Any element or code scale of a row a NaN at the k of a part (R83). -/
def Row.nanIn (r : Row) (lo hi : Nat) : Bool :=
  ((r.vals.drop lo).take (hi - lo)).any Val.isNan || (partOfSums 128 lo hi r.groups).any fisNan

/-- Any element or code scale of a row a NaN. -/
def Row.hasNan (r : Row) : Bool := r.vals.any Val.isNan || r.groups.any fisNan

/-! ### NaN events (R83 to R88) -/

/-- A NaN event of a tile, before the owner of its item is known (Table 7 of 02), and where it stands in what its core or
expander did: the instance, the unit's place in the command, the phase of the unit, the tile, and the step within it. -/
structure NanEvent where
  kind  : Nat                         -- 1 consumed, 2 produced
  unit  : Nat
  stage : Nat
  row   : Nat
  col   : Nat
  k     : Nat
  outer : Nat
  inst  : Nat := 0
  seq   : Nat := 0
  phase : Nat := 0                    -- 0 prologue or expander, 1 arrays, 2 drain; 3 and 4 those of a second product
  tile  : List Nat := []
  step  : Nat := 0
  deriving DecidableEq, Repr

/-- One event reached the scheduler before another (R17, R19): the events of one core in the order of its units and, in
a unit, of its phases on one tile; arrays run their units in order, and so does the drain. Between cores there is no
order. -/
def NanEvent.before (x y : NanEvent) : Bool :=
  x.unit / 4 == y.unit / 4 && x.inst == y.inst &&
    (if x.seq = y.seq then
      (x.phase == 0 && y.phase != 0) || (x.phase == 1 && decide (3 ≤ y.phase)) ||
        (x.tile == y.tile && (decide (x.phase < y.phase) || (x.phase == y.phase && decide (x.step < y.step))))
    else decide (x.seq < y.seq) && decide (x.phase ≤ y.phase))

/-- What a detection point finds at a position: 0 nothing, 1 a NaN read, 2 a NaN made (R83). -/
def nanMark (ins : Bool) (out : Bool) : Nat := if ins then 1 else if out then 2 else 0

/-- The kind of the event of a tile from the marks of its positions: consumed wherever a NaN was read. -/
def tileKind (l : List Nat) : Nat := if l.contains 1 then 1 else if l.contains 2 then 2 else 0

/-- An accumulator tile: its rows, its first column and columns, its run in a unit's dealing (R174), and what the trap
record names: row and outer index. -/
structure Tile where
  rows  : List Nat
  c0    : Nat
  cn    : Nat
  run   : Nat
  row   : Nat
  outer : Nat
  deriving DecidableEq, Repr

/-- The marks of the positions of a tile. -/
def Tile.marks (t : Tile) (marks : List (List Nat)) : List Nat :=
  (t.rows.map fun r => ((marks.getD r []).drop t.c0).take t.cn).flatten

/-- Column tiles of 128 of a row of `n`. -/
def columnTiles (n : Nat) : List (Nat × Nat) :=
  (List.range (cdiv n 128)).map fun j => (128 * j, min 128 (n - 128 * j))

/-- The tiles of a matrix of `m` rows over column tiles: 128 rows each. -/
def tilesOf (m : Nat) (cols : List (Nat × Nat)) : List Tile :=
  ((List.range (cdiv m 128)).map fun i =>
    cols.map fun c =>
      { rows := (List.range (min 128 (m - 128 * i))).map fun r => 128 * i + r, c0 := c.1, cn := c.2, run := 0,
        row := 128 * i, outer := 0 : Tile }).flatten

/-- The tiles of a matrix of `m` rows and `n` columns. -/
def grid (m n : Nat) : List Tile := tilesOf m (columnTiles n)

/-- One event for each tile in which a drain stage finds a NaN (R84). -/
def stageEvents (tiles : List Tile) (stage : Nat) (marks : List (List Nat)) : List NanEvent :=
  tiles.filterMap fun t =>
    let kd := tileKind (t.marks marks)
    if kd = 0 then none
    else
      some { kind := kd, unit := 2, stage := stage, row := t.row, col := t.c0, k := 0, outer := t.outer, phase := 2,
             tile := [t.outer, t.row, t.c0], step := stage + 1 }

end Sys2Proof.Machine
end

