-- ==== Sys2Proof/Machine/Trans.lean ====
section
/-! DEFINITION. The transcendental path: exp and tanh, correctly rounded to FP32 (05_fused_chains.md, R195). Both are
evaluated in fixed point with 420 fraction bits; no FP32 argument but 0 gives an exact or halfway result, and the
nearest an FP32 argument brings either function to a rounding boundary is far above 2^-400 (log entry 8). -/
namespace Sys2Proof.Machine

open Sys2Proof

/-- Fraction bits of the fixed-point evaluation. -/
def tbits : Nat := 420

/-- ln 2 x 2^420, rounded down. -/
def ln2Fixed : Nat :=
  1876824395609227333012827928779323266191743313097702438946411434594075065122341625559620327432671006135712522364620446458635100

/-- Taylor sum of exp of r x 2^-420: `n` further terms after `term`. -/
def expSeries (r : Nat) : Nat → Nat → Nat → Nat → Nat
  | 0, _, _, acc => acc
  | n + 1, k, term, acc =>
    let t := term * r / (2 ^ tbits * k)
    expSeries r n (k + 1) t (acc + t)

/-- exp of a fixed-point x as significand x 2^-420 and a power of two. -/
def expFixed (x : Int) : Nat × Int :=
  let n := x / (ln2Fixed : Int)
  let r := (x - n * (ln2Fixed : Int)).toNat
  (expSeries r 110 1 (2 ^ tbits) (2 ^ tbits), n)

/-- A finite value in fixed point; FP32 arguments are exact in it. -/
def toFixed (neg : Bool) (m : Nat) (e : Int) : Int :=
  let k := e + tbits
  let a : Nat := if k ≥ 0 then m * 2 ^ k.toNat else m / 2 ^ (-k).toNat
  toInt neg a

/-- exp, correctly rounded to FP32; exp(-infinity) is +0 (R195). -/
def fexp (a : Word) : Word :=
  match Word.val a with
  | .nan => fnan
  | .inf s => if s then 0 else fposInf
  | .fin s m e =>
    if m = 0 then fone
    else
      let x := toFixed s m e
      if x > 89 * (2 ^ tbits : Nat) then fposInf
      else if x < -(105 * (2 ^ tbits : Nat) : Int) then 0
      else
        let (sig, n) := expFixed x
        rndSticky32 false sig (n - tbits) true

/-- tanh, correctly rounded to FP32; tanh of an infinity is 1 with its sign (R195). -/
def ftanh (a : Word) : Word :=
  match Word.val a with
  | .nan => fnan
  | .inf s => if s then 0xBF800000 else fone
  | .fin s m e =>
    if m = 0 then (if s then 0x80000000 else 0)
    else
      let x := toFixed false m e
      if x > 16 * (2 ^ tbits : Nat) then (if s then 0xBF800000 else fone)
      else
        let (sig, n) := expFixed (2 * x)
        let t := sig * 2 ^ n.toNat
        let (q, k, _) := quotParts ((t - 2 ^ tbits) * 2 ^ 200) (t + 2 ^ tbits)
        rndSticky32 s q (k - 200) true

end Sys2Proof.Machine
end

