-- ==== Sys2Proof/Machine/Stages.lean ====
section
/-! DEFINITION. The stages of a chain: their records and their arithmetic (05_fused_chains.md, R199 to R223). -/
namespace Sys2Proof.Machine

open Sys2Proof

/-- A stage record (Table 3 of 05) with its place in the chain. -/
structure Stage where
  idx    : Nat
  kind   : Nat
  place  : Nat
  ifmt   : Nat
  flags  : Nat
  sub    : Nat
  src    : Nat
  glog   : Nat
  addr   : Nat
  addr2  : Nat
  stride : Nat
  ld     : Nat
  pa     : Word
  pb     : Word
  pc     : Word
  pd     : Word
  deriving DecidableEq, Repr

/-! Stage kinds (Table 4 of 05). -/
namespace Kd
def bias : Nat := 1
def scale : Nat := 2
def act : Nat := 3
def residual : Nat := 4
def clamp : Nat := 5
def convert : Nat := 6
def rowstat : Nat := 7
def apply : Nat := 8
def mask : Nat := 9
def push : Nat := 10
def store : Nat := 11
end Kd

/-- A stage of a chain descriptor. -/
def parseStage (i : Nat) (b : Bytes) : Stage :=
  let w (o : Nat) : Word := BitVec.ofNat 32 (leAt b o 4)
  let n (o : Nat) : Nat := (byteAt b o).toNat
  { idx := i, kind := n 0, place := n 1, ifmt := n 2, flags := n 3, sub := n 4, src := n 5, glog := n 6,
    addr := leAt b 8 8, addr2 := leAt b 16 8, stride := leAt b 24 4, ld := leAt b 28 4, pa := w 32, pb := w 36,
    pc := w 40, pd := w 44 }

def Stage.nonSat (g : Stage) : Bool := bitOf g.flags 0
def Stage.fill (g : Stage) : Nat := bitsOf g.flags 2 1
def Stage.own (g : Stage) : Bool := bitOf g.flags 3
def Stage.prologue (g : Stage) : Bool := g.place == 1

/-- DONE_ADDR of a PUSH (R225). -/
def Stage.doneAt (g : Stage) : Nat := g.pc.toNat + 2 ^ 32 * g.pd.toNat

/-! ### Pointwise arithmetic (R206, R207) -/

/-- SiLU (R207). -/
def silu (x : Word) : Word :=
  if fisNan x then fnan
  else if x = fnegInf then 0x80000000
  else if x = fposInf then fposInf
  else fdiv x (fadd fone (fexp (fneg x)))

/-- GELU by tanh (R207). -/
def gelu (x : Word) : Word :=
  if fisNan x then fnan
  else if x = fnegInf then 0x80000000
  else if x = fposInf then fposInf
  else
    let u := fmul (fadd x (fmul (fmul (fmul x x) x) 0x3D372713)) 0x3F4C422A
    fmul (fmul x (fadd fone (ftanh u))) 0x3F000000

/-- ReLU (R206). -/
def relu (x : Word) : Word := if fisNan x then fnan else if flt 0 x then x else 0

/-- ACT by its sub-kind. -/
def actFn (sub : Nat) (x : Word) : Word :=
  match sub with
  | 0 => relu x
  | 1 => silu x
  | _ => gelu x

/-- CLAMP: zeros pass unchanged between the bounds (R206). -/
def clampFn (lo hi x : Word) : Word := if fisNan x then fnan else if flt x lo then lo else if flt hi x then hi else x

/-! ### Row statistics (R216 to R220) -/

/-- A statistic of a row or of a tile of it: V0 and V1 of Table 5 of 05. -/
abbrev Stat := Word × Word

/-- A sum in ascending order: the first term exact, each later addition rounded (R216). -/
def sumFirst : List Word → Word
  | [] => 0
  | x :: xs => xs.foldl fadd x

/-- The largest of a list, +0 above -0, NaN if any is NaN (R216). -/
def maxList : List Word → Word
  | [] => fnegInf
  | x :: xs => xs.foldl fmax x

/-- The partial of a row of a tile (R216). -/
def rowPartial (sub : Nat) (xs : List Word) : Stat :=
  match sub with
  | 0 => (sumFirst xs, sumFirst (xs.map fun x => fmul x x))
  | 1 => (sumFirst (xs.map fun x => fmul x x), 0)
  | 2 => (maxList xs, 0)
  | _ =>
    let mt := maxList xs
    (mt, if mt = fnegInf then 0 else sumFirst (xs.map fun x => fexp (fsub x mt)))

/-- A later partial of MAX_SUMEXP taken into the row's (R218). -/
def joinExp (a b : Stat) : Stat :=
  if b.1 = fnegInf then a
  else
    let m := fmax a.1 b.1
    let s0 := if a.1 = fnegInf then 0 else fmul a.2 (fexp (fsub a.1 m))
    (m, fadd s0 (fmul b.2 (fexp (fsub b.1 m))))

/-- Two partials of a row combined (R218). -/
def joinStat (sub : Nat) (a b : Stat) : Stat :=
  match sub with
  | 0 => (fadd a.1 b.1, fadd a.2 b.2)
  | 1 => (fadd a.1 b.1, 0)
  | 2 => (fmax a.1 b.1, 0)
  | _ => joinExp a b

/-- A row's statistic from its partials in ascending order (R218). -/
def joinRow (sub : Nat) : List Stat → Stat
  | [] => (0, 0)
  | p :: ps => ps.foldl (joinStat sub) p

/-- The ROWSTAT sub-kind whose partials an APPLY without OWN reads. RMS takes SUMSQ or SUM_SUMSQ (R220), which its record
does not tell apart: V1 is zero in every partial of SUMSQ, so a non-zero one shows SUM_SUMSQ. Log entry 26. -/
def applySource (sub : Nat) (ps : List (List Stat)) : Nat :=
  match sub with
  | 0 => 0
  | 1 => if ps.any fun l => l.any fun p => p.2 != 0 then 0 else 1
  | 2 => 3
  | _ => 2

/-- The ROWSTAT sub-kinds an APPLY may use (R220). -/
def applyNeeds (sub stat : Nat) : Bool :=
  match sub with
  | 0 => stat == 0
  | 1 => stat == 0 || stat == 1
  | 2 => stat == 3
  | _ => stat == 2 || stat == 3

/-- The sum of squares of a statistic (Table 5 of 05). -/
def statSquares (stat : Nat) (p : Stat) : Word := if stat = 0 then p.2 else p.1

/-- max(+0, round(round(SUM2 / n) - round(mean x mean))) (R187, R219). -/
def varianceOf (mean sum2 nf : Word) : Word := fmax 0 (fsub (fdiv sum2 nf) (fmul mean mean))

/-- APPLY to one value (R219). -/
def applyFn (sub stat : Nat) (p : Stat) (nf eps : Word) (x : Word) : Word :=
  match sub with
  | 0 =>
    let mean := fdiv p.1 nf
    fmul (fsub x mean) (frsqrt (fadd (varianceOf mean p.2 nf) eps))
  | 1 => fmul x (frsqrt (fadd (fdiv (statSquares stat p) nf) eps))
  | 2 => if p.2 = 0 then 0 else fmul (fexp (fsub x p.1)) (fdiv fone p.2)
  | _ => fsub x p.1

/-! ### Side operands (R203, R206) -/

/-- Where a chain runs: the context, the item's position, the rows and columns of the matrix, the columns of a tile. -/
structure ChainEnv where
  ctx  : Nat
  i    : Nat
  m    : Nat
  n    : Nat
  tw   : Nat := 128
  deriving DecidableEq, Repr

/-- Address of the side operand of the item, and of its scale plane. -/
def Stage.at (g : Stage) (i : Nat) : Nat := g.addr + i * g.stride
def Stage.scalesAt (g : Stage) (i : Nat) (step : Word) : Nat := g.addr2 + i * step.toNat

/-- The element plane a stage reads or writes for an item. -/
def Stage.plane (g : Stage) (i fmt len : Nat) (step : Word) : Plane :=
  { addr := g.at i, fmt := fmt, len := len, ld := g.ld, saddr := if isMx fmt then g.scalesAt i step else 0 }

/-- A row repeated. -/
def repeatRow (m : Nat) (r : List Word) : Mat := List.replicate m r

/-- The side values a stage combines with, one for each position; none for a stage without side operand. -/
def State.sideOf (s : State) (e : ChainEnv) (g : Stage) : Except Stop (Option Mat) := do
  if g.kind = Kd.bias then
    let v ← s.readVec e.ctx (g.at e.i) g.src e.n
    .ok (some (repeatRow e.m v))
  else if g.kind = Kd.residual then
    let rows ← s.readRows e.ctx (g.plane e.i g.src e.n g.pd) e.m
    .ok (some (rows.map fun r => r.scaled g.src g.pa))
  else if g.kind = Kd.scale then
    match g.sub with
    | 0 => .ok (some (repeatRow e.m (List.replicate e.n g.pa)))
    | 1 =>
      let rows ← s.readRows e.ctx (g.plane e.i g.src 1 0) e.m
      .ok (some (rows.map fun r => List.replicate e.n (r.words.getD 0 0)))
    | 2 =>
      let v ← s.readVec e.ctx (g.at e.i) g.src e.n
      .ok (some (repeatRow e.m v))
    | 3 =>
      let rows ← s.readRows e.ctx (g.plane e.i g.src (cdiv e.n (2 ^ g.glog)) 0) e.m
      .ok (some (rows.map fun r =>
        let w := r.words
        (List.range e.n).map fun n => w.getD (n / 2 ^ g.glog) 0))
    | _ =>
      let rows ← s.readRows e.ctx (g.plane e.i g.src e.n 0) e.m
      .ok (some (rows.map Row.words))
  else .ok none

/-- The bits of a mask bitmap, row by row (R209). -/
def State.maskBits (s : State) (e : ChainEnv) (g : Stage) : Except Stop (List (List Bool)) :=
  (List.range e.m).mapM fun m => do
    let b ← s.fetch e.ctx (g.at e.i + m * cdiv e.n 8) (cdiv e.n 8)
    .ok ((List.range e.n).map fun n => (byteAt b (n / 8)).getLsbD (n % 8))

/-- The kept positions of a MASK (R209). -/
def State.keptBy (s : State) (e : ChainEnv) (g : Stage) : Except Stop (List (List Bool)) :=
  let all (f : Nat → Nat → Bool) : List (List Bool) :=
    (List.range e.m).map fun m => (List.range e.n).map fun n => f m n
  match g.sub with
  | 0 => .ok (all fun m n => decide ((n : Int) ≤ (m : Int) + g.pc.toInt))
  | 1 => s.maskBits e g
  | 2 => .ok (all fun _ n => decide (g.pa.toNat ≤ n) && decide (n < g.pb.toNat))
  | _ => .ok (all fun m _ => decide (g.pa.toNat ≤ m) && decide (m < g.pb.toNat))

/-- A NaN as the one pattern that results carry (R49). -/
def quietNan (w : Word) : Word := if fisNan w then fnan else w

/-- The FILL value of a MASK (Table 3 of 05). -/
def Stage.fillWord (g : Stage) : Word :=
  match g.fill with
  | 0 => 0
  | 1 => fnegInf
  | _ => quietNan g.pd

/-- The partials of every row that an APPLY without OWN reads: ceil(PB / 128) each (R220). -/
def State.readStats (s : State) (e : ChainEnv) (g : Stage) : Except Stop (List (List Stat)) :=
  let per := cdiv g.pb.toNat 128
  (List.range e.m).mapM fun m => do
    let b ← s.fetch e.ctx (g.at e.i + m * per * 8) (per * 8)
    .ok ((List.range per).map fun j => (BitVec.ofNat 32 (leAt b (8 * j) 4), BitVec.ofNat 32 (leAt b (8 * j + 4) 4)))

/-! ### Running a chain -/

/-- Rows pushed to a peer: hall address, bytes between rows, bytes of a tile's row, the rows' bytes, and DONE_ADDR of the
stage (R224, R225). -/
structure PushPlane where
  stage : Nat
  addr  : Nat
  ld    : Nat
  tile  : Nat
  doneAt : Nat
  rows  : List Bytes
  deriving DecidableEq, Repr

/-- What a chain has done so far: the values, the partials of the latest statistic and its sub-kind, the writes, the pushes,
the events. -/
structure Flow where
  x      : Mat
  stat   : Option (Nat × List (List Stat))
  writes : List (Nat × Bytes)
  pushes : List PushPlane
  events : List NanEvent
  deriving DecidableEq, Repr

/-- Two matrices combined position by position. -/
def zipMat {α β γ : Type} (f : α → β → γ) (a : List (List α)) (b : List (List β)) : List (List γ) :=
  List.zipWith (List.zipWith f) a b

/-- A matrix mapped. -/
def mapMat {α β : Type} (f : α → β) (a : List (List α)) : List (List β) := a.map (List.map f)

/-- Marks of a stage from its input, what else it reads, and its result. -/
def stageMarks (x : Mat) (side : List (List Bool)) (y : Mat) : List (List Nat) :=
  List.zipWith (fun p q => List.zipWith (fun a b => nanMark (a.1 || a.2) b) p q)
    (zipMat (fun a b => (fisNan a, b)) x side) (mapMat fisNan y)

/-- No side operand holds a NaN. -/
def noSide (x : Mat) : List (List Bool) := mapMat (fun _ => false) x

/-- A flow after a stage that gives `y`, its events counted per tile. -/
def Flow.step (f : Flow) (tiles : List Tile) (g : Stage) (side : List (List Bool)) (y : Mat) : Flow :=
  { f with x := y, events := f.events ++ stageEvents tiles g.idx (stageMarks f.x side y) }

/-- A flow whose values go on unchanged past a stage that converts a copy (R208, R210): `made` marks a NaN made. -/
def Flow.pass (f : Flow) (tiles : List Tile) (g : Stage) (made : Mat) : Flow :=
  { f with events := f.events ++ stageEvents tiles g.idx (stageMarks f.x (noSide f.x) made) }

/-- The partials of a matrix's rows: one for each 128 columns (R216). -/
def partialsOf (sub n : Nat) (x : Mat) : List (List Stat) :=
  x.map fun r => (columnTiles n).map fun c => rowPartial sub ((r.drop c.1).take c.2)

/-- The bytes of the partials of a row (Table 5 of 05). -/
def partialBytes (l : List Stat) : Bytes := (l.map fun p => leBytes 4 p.1.toNat ++ leBytes 4 p.2.toNat).flatten

/-- APPLY on a matrix by its rows' statistics. -/
def applyMat (g : Stage) (stat : Nat) (nf : Word) (st : List Stat) (x : Mat) : Mat :=
  List.zipWith (fun p r => r.map fun v => roundFmt g.ifmt (applyFn g.sub stat p nf g.pa v)) st x

/-- A statistic that holds a NaN. -/
def statNan (p : Stat) : Bool := fisNan p.1 || fisNan p.2

/-- The positions of rows one of whose partials holds a NaN. -/
def statSide (ps : List (List Stat)) (x : Mat) : List (List Bool) :=
  List.zipWith (fun l r => r.map fun _ => l.any statNan) ps x

/-- The partials that turned NaN, as marks at their last columns: a tile whose own partial is no NaN has no event. -/
def partialMade (n : Nat) (ps : List (List Stat)) : Mat :=
  ps.map fun l => (List.range n).map fun i =>
    if (i + 1 = n ∨ i % 128 = 127) ∧ statNan (l.getD (i / 128) (0, 0)) then fnan else 0

/-- APPLY from the partials of some rows, of a ROWSTAT sub-kind (R218, R219). -/
def Flow.applied (f : Flow) (tiles : List Tile) (g : Stage) (sub n : Nat) (ps : List (List Stat)) : Flow :=
  f.step tiles g (statSide ps f.x) (applyMat g sub (fofNat n) (ps.map (joinRow sub)) f.x)

/-- What a STORE or PUSH of a matrix reads back as, for the NaNs it makes. -/
def convertedMat (g : Stage) (q : Word) (x : Mat) : Mat := x.map fun r => (readBack g.ifmt g.nonSat q r).words

/-- A STORE to the item's own output: its writes, and what they read back as (R204). -/
abbrev OwnStore := Stage → Mat → List (Nat × Bytes) × Mat

/-- No own output: the stages of a prologue or of a T chain store nothing. -/
def noOwn : OwnStore := fun _ _ => ([], [])

/-- A STORE of a matrix row by row in a plane. -/
def storeOwn (p : Plane) (g : Stage) (x : Mat) : List (Nat × Bytes) × Mat :=
  (storeRows p g.nonSat g.pa x, convertedMat g g.pa x)

/-- One stage of a chain. -/
def State.runStage (s : State) (e : ChainEnv) (tiles : List Tile) (own : OwnStore) (f : Flow) (g : Stage) : Except Stop Flow := do
  let side ← s.sideOf e g
  if g.kind = Kd.bias ∨ g.kind = Kd.residual then
    let b := side.getD []
    .ok (f.step tiles g (mapMat fisNan b) (zipMat (fun x v => roundFmt g.ifmt (fadd x v)) f.x b))
  else if g.kind = Kd.scale then
    let b := side.getD []
    .ok (f.step tiles g (mapMat fisNan b) (zipMat (fun x v => roundFmt g.ifmt (fmul x v)) f.x b))
  else if g.kind = Kd.act then
    .ok (f.step tiles g (noSide f.x) (mapMat (fun x => roundFmt g.ifmt (actFn g.sub x)) f.x))
  else if g.kind = Kd.clamp then
    .ok (f.step tiles g (noSide f.x) (mapMat (fun x => roundFmt g.ifmt (clampFn g.pa g.pb x)) f.x))
  else if g.kind = Kd.mask then
    let kept ← s.keptBy e g
    .ok (f.step tiles g (noSide f.x)
      (zipMat (fun x k => roundFmt g.ifmt (if k then x else g.fillWord)) f.x kept))
  else if g.kind = Kd.convert then
    .ok (f.step tiles g (noSide f.x) (f.x.map fun r => (readBack g.ifmt g.nonSat g.pa r).scaled g.ifmt g.pb))
  else if g.kind = Kd.rowstat then
    let ps := partialsOf g.sub e.n f.x
    let w := if g.addr = 0 then [] else ps.mapIdx fun m l => (g.at e.i + m * cdiv e.n 128 * 8, partialBytes l)
    .ok { f.pass tiles g (partialMade e.n ps) with stat := some (g.sub, ps), writes := f.writes ++ w }
  else if g.kind = Kd.apply then
    if g.own then
      let st := f.stat.getD (0, [])
      .ok (f.applied tiles g st.1 e.n st.2)
    else
      let ps ← s.readStats e g
      .ok (f.applied tiles g (applySource g.sub ps) g.pb.toNat ps)
  else if g.kind = Kd.store then
    let w := if g.addr = 0 then own g f.x else storeOwn (g.plane e.i g.ifmt e.n g.pd) g f.x
    .ok { f.pass tiles g w.2 with writes := f.writes ++ w.1 }
  else
    let im := f.x.map (rowImage g.ifmt g.nonSat g.pa)
    let el : PushPlane :=
      { stage := g.idx, addr := g.at e.i, ld := if g.ld = 0 then rowBytes g.ifmt e.n else g.ld,
        tile := rowBytes g.ifmt e.tw, doneAt := g.doneAt, rows := im.map fun p => p.1 }
    let sc : PushPlane :=
      { stage := g.idx, addr := g.scalesAt e.i g.pb, ld := scaleBytes g.ifmt e.n,
        tile := scaleBytes g.ifmt e.tw, doneAt := g.doneAt, rows := im.map fun p => p.2 }
    .ok { f.pass tiles g (convertedMat g g.pa f.x) with
          pushes := f.pushes ++ (if isMx g.ifmt then [el, sc] else [el]) }

/-- Why an item stops, with the NaN events that came before. -/
abbrev Halt := Stop × List NanEvent

/-- A step that has no events before its stop. -/
def atOnce {α : Type} (r : Except Stop α) : Except Halt α := r.mapError fun e => (e, [])

/-- A step after some events. -/
def afterEvents {α : Type} (ev : List NanEvent) (r : Except Halt α) : Except Halt α := r.mapError fun h => (h.1, ev ++ h.2)

/-- The stages of a list one after another on a matrix (R201). -/
def State.runStages (s : State) (e : ChainEnv) (tiles : List Tile) (own : OwnStore) : List Stage → Flow → Except Halt Flow
  | [], f => .ok f
  | g :: gs, f =>
    match s.runStage e tiles own f g with
    | .error h => .error (h, f.events)
    | .ok f1 => State.runStages s e tiles own gs f1

/-- A flow at the start of a chain. -/
def Flow.start (x : Mat) : Flow := { x := x, stat := none, writes := [], pushes := [], events := [] }

end Sys2Proof.Machine
end

