-- ==== Sys2Proof/Machine/Chain.lean ====
section
/-! DEFINITION. Chain descriptors and their checks in the order of Table 11 of 05 (R197 to R205, R211, R212, R214,
R220, R221, R242). -/
namespace Sys2Proof.Machine

open Sys2Proof

/-- A chain descriptor read (R198). -/
structure Chain where
  tag    : Word
  stages : List Stage
  deriving DecidableEq, Repr

def Chain.prologue (c : Chain) : List Stage := c.stages.filter Stage.prologue
def Chain.epilogue (c : Chain) : List Stage := c.stages.filter fun g => !g.prologue

/-- The command a chain is judged for: columns of its matrix, length of a row of A, format of A when a prologue may act on
it, items of its list, its result format, whether it is a T chain, whether row-complete ordering is to be had, bytes of
scratchpad reserved beside the chain area; for an ELTWISE, whose fields are judged in the same order, the code its X_FMT has
at order 5 and whether its layout fails at order 12. -/
structure ChainUse where
  n       : Nat
  k       : Nat
  aFmt    : Option Nat
  items   : Nat
  result  : Nat
  isT     : Bool
  ownOk   : Bool
  staging : Nat
  fmtCode : Option Code := none
  layBad  : Bool := false
  deriving DecidableEq, Repr

/-- The first of a list of checks that fails. -/
def firstBad : List (Bool × Code) → Option Code
  | [] => none
  | (bad, code) :: l => if bad then some code else firstBad l

/-! ### Fields of a stage (Tables 3 and 4 of 05, R199, R200) -/

/-- Largest sub-kind of a kind. -/
def Stage.maxSub (g : Stage) : Nat :=
  if g.kind = Kd.scale then 4 else if g.kind = Kd.act then 2
  else if g.kind = Kd.rowstat ∨ g.kind = Kd.apply ∨ g.kind = Kd.mask then 3 else 0

/-- The stage writes converted elements, or carries them. -/
def Stage.converts (g : Stage) : Bool := g.kind == Kd.convert || g.kind == Kd.push || g.kind == Kd.store

/-- The stage sends elements out. -/
def Stage.sends (g : Stage) : Bool := g.kind == Kd.push || g.kind == Kd.store

/-- The stage has a side operand with a format. -/
def Stage.hasSource (g : Stage) : Bool :=
  g.kind == Kd.bias || g.kind == Kd.residual || (g.kind == Kd.scale && g.sub != 0)

/-- The flags a kind defines (Table 3 of 05). -/
def Stage.flagsOk (g : Stage) : Bool :=
  if g.converts then decide (g.flags ≤ 1)
  else if g.kind = Kd.mask then g.flags % 2 == 0 && decide (g.flags ≤ 4)
  else if g.kind = Kd.apply then g.flags == 0 || g.flags == 8
  else g.flags == 0

/-- ADDR and STRIDE are used. -/
def Stage.usesAddr (g : Stage) : Bool :=
  g.hasSource || g.sends || g.kind == Kd.rowstat || (g.kind == Kd.apply && !g.own) || (g.kind == Kd.mask && g.sub == 1)

/-- ADDR2 is used. -/
def Stage.usesScales (g : Stage) : Bool := (g.kind == Kd.residual && isMx g.src) || (g.sends && isMx g.ifmt)

/-- LD is used. -/
def Stage.usesLd (g : Stage) : Bool := g.kind == Kd.residual || (g.kind == Kd.scale && g.sub != 0) || g.sends

def Stage.usesPa (g : Stage) : Bool :=
  (g.kind == Kd.scale && g.sub == 0) || (g.kind == Kd.residual && isFp8 g.src) || g.kind == Kd.clamp ||
    (g.converts && isFp8 g.ifmt) || g.kind == Kd.apply || (g.kind == Kd.mask && decide (2 ≤ g.sub))

def Stage.usesPb (g : Stage) : Bool :=
  g.kind == Kd.clamp || (g.kind == Kd.convert && isFp8 g.ifmt) || (g.kind == Kd.apply && !g.own) ||
    (g.kind == Kd.mask && decide (2 ≤ g.sub)) || (g.kind == Kd.push && isMx g.ifmt)

def Stage.usesPc (g : Stage) : Bool := (g.kind == Kd.mask && g.sub == 0) || g.kind == Kd.push

/-- PD is used; under another FILL than 2 a MASK's PD has no meaning and is not judged. -/
def Stage.usesPd (g : Stage) : Bool :=
  (g.kind == Kd.residual && isMx g.src) || (g.kind == Kd.store && isMx g.ifmt) || g.kind == Kd.push || g.kind == Kd.mask

/-- Every field the kind does not use is zero (R199). -/
def Stage.unusedOk (g : Stage) : Bool :=
  (g.hasSource || g.src == 0) && ((g.kind == Kd.scale && g.sub == 3) || g.glog == 0) &&
    (g.usesAddr || (g.addr == 0 && g.stride == 0)) && (g.usesScales || g.addr2 == 0) && (g.usesLd || g.ld == 0) &&
    (g.usesPa || g.pa == 0) && (g.usesPb || g.pb == 0) && (g.usesPc || g.pc == 0) && (g.usesPd || g.pd == 0)

/-- The ranges of a kind's own parameters (order 3 of Table 11 of 05). -/
def Stage.paramsOk (g : Stage) : Bool :=
  if g.kind = Kd.scale then g.sub != 3 || decide (5 ≤ g.glog ∧ g.glog ≤ 12)
  else if g.kind = Kd.clamp then !fisNan g.pa && !fisNan g.pb && !flt g.pb g.pa
  else if g.kind = Kd.mask then
    g.fill != 3 && (decide (g.sub < 2) || decide (g.pa.toNat ≤ g.pb.toNat)) &&
      !(g.prologue && (g.fill == 1 || (g.fill == 2 && g.pd == fnegInf)))
  else true

/-- Order 3: STAGE_INVALID. `reserved` is the record's byte 7. -/
def Stage.invalid (g : Stage) (reserved : Byte) : Bool :=
  g.kind == 0 || decide (g.kind > 11) || decide (g.place > 1) || decide (g.sub > g.maxSub) || reserved != 0 ||
    !g.flagsOk || !g.unusedOk || !g.paramsOk

/-- Order 4: STAGE_FORMAT. A reserved code is allowed for no kind, so it fails here before order 5. Log entry 44. -/
def Stage.formatBad (g : Stage) : Bool :=
  let i := g.ifmt
  let ifmtOk :=
    if g.kind = Kd.convert then decide (2 ≤ i ∧ i ≤ 10)
    else if g.sends then decide (1 ≤ i ∧ i ≤ 10)
    else if g.kind = Kd.rowstat then i == 1
    else isFloat i
  let srcOk := if g.kind = Kd.residual then decide (1 ≤ g.src ∧ g.src ≤ 10) else isFloat g.src
  !ifmtOk || (g.hasSource && !srcOk)

/-- Order 5: FORMAT_RESERVED. -/
def Stage.reservedFmt (g : Stage) : Bool := fmtReserved g.ifmt || fmtReserved g.src

/-- Order 5: SCALE_INVALID (R57, R220). -/
def Stage.scaleBad (g : Stage) : Bool :=
  (g.converts && isFp8 g.ifmt && !fposNormal g.pa) || (g.kind == Kd.convert && isFp8 g.ifmt && !fposNormal g.pb) ||
    (g.kind == Kd.residual && isFp8 g.src && !fposNormal g.pa) || (g.kind == Kd.apply && !fposNormal g.pa)

/-! ### Checks of the whole chain -/

/-- Order 6: STAGE_PLACEMENT (R211, R212, R239). -/
def Stage.placementBad (u : ChainUse) (g : Stage) : Bool :=
  g.prologue &&
    ((match u.aFmt with
      | none => true
      | some a => !(a == 2 || a == 3 || isMx a)) ||
     g.converts || g.kind == Kd.rowstat || (g.kind == Kd.apply && g.own) ||
     (g.kind == Kd.mask && g.fill == 2 && !ffinite g.pd))

/-- The latest ROWSTAT before a stage. -/
def Chain.statBefore (c : Chain) (i : Nat) : Option Stage :=
  (c.stages.filter fun g => g.kind == Kd.rowstat && decide (g.idx < i)).getLast?

/-- Order 10: STAT_MISMATCH (R220). -/
def Chain.statBad (c : Chain) (g : Stage) : Bool :=
  g.kind == Kd.apply &&
    (if g.own then
      match c.statBefore g.idx with
      | none => true
      | some r => !applyNeeds g.sub r.sub
    else g.pb == 0 || g.addr % 8 != 0)

/-- The chain writes something (R202). -/
def Chain.hasOutput (c : Chain) : Bool :=
  c.epilogue.any fun g => g.sends || (g.kind == Kd.rowstat && g.addr != 0)

/-- The addresses of every item of a list keep R108 with an alignment. -/
def itemsOk (base stride items align : Nat) : Bool :=
  (List.range items).all fun i => (base + i * stride) % align == 0 && vaOk (base + i * stride)

/-- The row of elements that LD spans (R108, R206): one for a row vector. -/
def Stage.spanOf (g : Stage) (cols : Nat) : Nat :=
  if g.kind = Kd.scale ∧ g.sub = 1 then 1
  else if g.kind = Kd.scale ∧ g.sub = 3 then cdiv cols (2 ^ g.glog) else cols

/-- Order 12: LAYOUT_INVALID (R203, R217). A PUSH's addresses are hall addresses (R617); only the bits above 2^48 of a
mask bitmap are judged. -/
def Stage.layoutBad (u : ChainUse) (g : Stage) : Bool :=
  let cols := if g.prologue then u.k else u.n
  let align := if g.kind = Kd.rowstat ∨ g.kind = Kd.apply then 8 else if g.kind = Kd.mask then 1 else 16
  let dest := g.kind != Kd.push && g.usesAddr && !(g.addr == 0 && (g.kind == Kd.store || g.kind == Kd.rowstat))
  let fmt := if g.sends then g.ifmt else g.src
  (dest && !itemsOk g.addr g.stride u.items align) ||
    (g.kind != Kd.push && g.usesScales && !itemsOk g.addr2 g.pd.toNat u.items 16) ||
    (g.usesLd && !ldOk fmt (g.spanOf cols) g.ld)

/-- The stage reads or writes memory: 64 KiB of chain area (R197). -/
def Stage.facing (g : Stage) : Bool :=
  g.hasSource || g.sends || (g.kind == Kd.rowstat && g.addr != 0) || (g.kind == Kd.apply && !g.own) ||
    (g.kind == Kd.mask && g.sub == 1)

/-- Bytes of chain area (R197). -/
def Chain.area (c : Chain) : Nat := min 524288 (65536 * (c.stages.filter Stage.facing).length)

/-- An APPLY uses this chain's own ROWSTAT. -/
def Chain.usesOwn (c : Chain) : Bool := c.stages.any fun g => g.kind == Kd.apply && g.own

/-- Bytes of the scratchpad of a core (Table 1 of 03). -/
def scratchpad : Nat := 8388608

/-- Bytes of one row tile of A after a prologue. -/
def prologueBytes (fmt k : Nat) : Nat := 128 * (rowBytes fmt k + scaleBytes fmt k)

/-- Order 14: PROLOGUE_TOO_LARGE (R214). -/
def Chain.prologueBad (u : ChainUse) (c : Chain) : Bool :=
  !c.prologue.isEmpty &&
    match u.aFmt with
    | none => false
    | some a => decide (scratchpad - u.staging - c.area < 2 * prologueBytes a u.k)

/-- Orders 3 to 14 of Table 11 of 05 (R242). `raw` is the stage records' bytes. -/
def Chain.check (fabric : Bool) (u : ChainUse) (raw : Bytes) (c : Chain) : Option Code :=
  let each (f : Stage → Bool) : Bool := c.stages.any f
  firstBad [
    (each fun g => g.invalid (byteAt raw (48 * g.idx + 7)), Err.stageInvalid),
    (each Stage.formatBad, Err.stageFormat),
    (each Stage.reservedFmt, Err.formatReserved),
    (u.fmtCode.isSome, u.fmtCode.getD Err.formatReserved),
    (each Stage.scaleBad, Err.scaleInvalid),
    (each (Stage.placementBad u), Err.stagePlacement),
    (u.isT && (each Stage.sends), Err.intermediateInvalid),
    (!fabric && (each fun g => g.kind == Kd.push), Err.fabNotPresent),
    (u.result != 0, Err.flagsConflict),
    (each c.statBad, Err.statMismatch),
    (!u.isT && !c.hasOutput, Err.chainNoOutput),
    (u.layBad || each (Stage.layoutBad u), Err.layoutInvalid),
    (c.usesOwn && (!u.ownOk || decide (31 < cdiv u.n 128)), Err.chainNeedsCompleteRow),
    (c.prologueBad u, Err.prologueTooLarge)]

/-- A chain read and judged in the order of Table 11 of 05; the code of the first failure. -/
def State.readChain (s : State) (ctx addr : Nat) (u : ChainUse) : Except Code Chain :=
  if addr % 64 ≠ 0 ∨ !vaOk addr then .error Err.chainRange
  else
    match s.vread ctx addr 16 with
    | .error f => .error f.1
    | .ok h =>
      let n := (byteAt h 0).toNat
      if n = 0 ∨ n > 8 ∨ !zeroRange h 1 4 ∨ !zeroRange h 8 16 then .error Err.chainRange
      else
        match s.vread ctx (addr + 16) (48 * n) with
        | .error f => .error f.1
        | .ok raw =>
          let c : Chain :=
            { tag := BitVec.ofNat 32 (leAt h 4 4),
              stages := (List.range n).map fun i => parseStage i (sliceBytes raw (48 * i) 48) }
          match c.check s.hasFabric u raw with
          | some code => .error code
          | none => .ok c

/-- The stages of the chain of a CHAIN_ADDR field as far as they can be read, for the checks of the command that come before
the chain's own. -/
def State.peekChain (s : State) (ctx addr : Nat) : List Stage :=
  if addr = 0 then []
  else
    match s.vread ctx addr 16 with
    | .error _ => []
    | .ok h =>
      let n := min 8 (byteAt h 0).toNat
      match s.vread ctx (addr + 16) (48 * n) with
      | .error _ => []
      | .ok raw => (List.range n).map fun i => parseStage i (sliceBytes raw (48 * i) 48)

/-- The stride of a command's own output, of a row of `cols` elements: under R108 in the format of the result, or in that of
every STORE with ADDR 0 of the chain (R204); with a chain that has none only a multiple of 16 is asked. -/
def ownLdBad (chain fmt : Nat) (stages : List Stage) (cols ld : Nat) : Bool :=
  if chain = 0 then !ldOk fmt cols ld
  else ld % 16 != 0 || stages.any fun g => g.kind == Kd.store && g.addr == 0 && !ldOk g.ifmt cols ld

/-- The chain of a CHAIN_ADDR field that may be 0. -/
def State.readChain? (s : State) (ctx addr : Nat) (u : ChainUse) : Except Code (Option Chain) :=
  if addr = 0 then .ok none else (s.readChain ctx addr u).map some

end Sys2Proof.Machine
end

