-- ==== Sys2Proof/Machine/Packed.lean ====
section
/-! DEFINITION. Packed weights: packed-tensor and adapter descriptors, Saffron blocks and their tables, Fennel adapters,
and the weights as an expander delivers them (07, R311 to R326, R336 to R346, R355). -/
namespace Sys2Proof.Machine

open Sys2Proof

/-! ### Descriptors (R311, R312, R336, R340) -/

/-- A packed-tensor descriptor (Table 3 of 07), with its own address. -/
structure PackTensor where
  addr     : Nat
  fmt      : Nat
  saffron  : Bool
  k        : Nat
  n        : Nat
  blocks   : Nat
  elem     : Nat
  scale    : Nat
  index    : Nat
  tables   : Nat
  streamEnd : Nat
  cap      : Nat
  countA   : Nat
  countB   : Nat
  countRaw : Nat
  deriving DecidableEq, Repr

/-- Positions along K of a block (Table 4 of 07). -/
def blockSpanOf (fmt : Nat) : Nat :=
  match fmt with
  | 2 => 64
  | 3 => 64
  | 10 => 256
  | 11 => 1024
  | 12 => 512
  | _ => 128

/-- Spans along K, and blocks, of a tensor (R313). -/
def PackTensor.spans (p : PackTensor) : Nat := cdiv p.k (blockSpanOf p.fmt)
def PackTensor.count (p : PackTensor) : Nat := cdiv p.n 128 * p.spans

/-- The bytes of a packed-tensor descriptor read as one. -/
def parsePack (addr : Nat) (b : Bytes) : PackTensor :=
  { addr := addr, fmt := (byteAt b 0).toNat, saffron := (byteAt b 1).getLsbD 0, k := leAt b 4 4, n := leAt b 8 4,
    blocks := leAt b 12 4, elem := leAt b 16 8, scale := leAt b 24 8, index := leAt b 32 8, tables := leAt b 40 8,
    streamEnd := leAt b 48 4, cap := leAt b 52 4, countA := leAt b 56 4, countB := leAt b 60 4, countRaw := leAt b 64 4 }

/-- Table 3 of 07 and R312. -/
def PackTensor.ok (p : PackTensor) (b : Bytes) : Bool :=
  p.addr % 64 == 0 && decide (2 ≤ p.fmt ∧ p.fmt ≤ 12) && decide ((byteAt b 1).toNat ≤ 1) && zeroRange b 2 4 &&
    decide (1 ≤ p.k ∧ p.k ≤ 2 ^ 20) && decide (1 ≤ p.n ∧ p.n ≤ 2 ^ 20) && zeroRange b 68 128 && addrOk p.elem &&
    (if isMx p.fmt || isCode p.fmt then addrOk p.scale else p.scale == 0) &&
    (if p.saffron then p.blocks == p.count && addrOk p.index && addrOk p.tables
     else p.blocks == 0 && zeroRange b 32 68)

/-- A packed-tensor descriptor read and judged. -/
def State.readPack (s : State) (ctx addr : Nat) : Except Code PackTensor :=
  if addr % 64 ≠ 0 ∨ !vaOk addr then .error Err.packedInvalid
  else
    match s.vread ctx addr 128 with
    | .error f => .error f.1
    | .ok b => if (parsePack addr b).ok b then .ok (parsePack addr b) else .error Err.packedInvalid

/-- A Fennel adapter descriptor (Table 10 of 07), with its own address. -/
structure Adapter where
  addr   : Nat
  rank   : Nat
  fmt    : Nat
  alpha  : Word
  uScale : Word
  vScale : Word
  k      : Nat
  n      : Nat
  u      : Nat
  v      : Nat
  deriving DecidableEq, Repr

/-- The bytes of an adapter descriptor read as one. -/
def parseAdapter (addr : Nat) (b : Bytes) : Adapter :=
  { addr := addr, rank := leAt b 0 2, fmt := (byteAt b 2).toNat, alpha := BitVec.ofNat 32 (leAt b 4 4),
    uScale := BitVec.ofNat 32 (leAt b 8 4), vScale := BitVec.ofNat 32 (leAt b 12 4), k := leAt b 16 4, n := leAt b 20 4,
    u := leAt b 24 8, v := leAt b 32 8 }

/-- A scale present exactly where it should be. -/
def scalePresent (fmt : Nat) (w : Word) : Bool := isFp8 fmt == (w != 0)

/-- Table 10 of 07 and R340: why an adapter is refused for a tensor and a tensor scale. -/
def Adapter.bad (a : Adapter) (b : Bytes) (p : PackTensor) (bt : Word) : Option Code :=
  if a.rank % 16 ≠ 0 ∨ a.rank < 16 ∨ a.rank > 256 ∨ !([2, 4, 5].contains a.fmt) ∨ byteAt b 3 ≠ 0 ∨ !ffinite a.alpha ∨
      !scalePresent a.fmt a.uScale ∨ !scalePresent a.fmt a.vScale ∨ a.k ≠ p.k ∨ a.n ≠ p.n ∨ !addrOk a.u ∨ !addrOk a.v ∨
      !zeroRange b 40 64 ∨ isCode p.fmt ∨ (isFp8 p.fmt ∧ bt.toNat % 2 ^ 23 ≠ 0)
  then some Err.adapterInvalid
  else if isFp8 a.fmt ∧ (!fposNormal a.uScale ∨ !fposNormal a.vScale) then some Err.scaleInvalid
  else none

/-- An adapter descriptor read and judged. -/
def State.readAdapter (s : State) (ctx addr : Nat) (p : PackTensor) (bt : Word) : Except Code Adapter :=
  if addr % 16 ≠ 0 ∨ !vaOk addr then .error Err.adapterInvalid
  else
    match s.vread ctx addr 64 with
    | .error f => .error f.1
    | .ok b =>
      match (parseAdapter addr b).bad b p bt with
      | some code => .error code
      | none => .ok (parseAdapter addr b)

/-- The adapter of a field that may be 0. -/
def State.readAdapter? (s : State) (ctx addr : Nat) (p : PackTensor) (bt : Word) : Except Code (Option Adapter) :=
  if addr = 0 then .ok none else (s.readAdapter ctx addr p bt).map some

/-! ### Blocks (R313, R314) -/

/-- A block of a tensor: first column, columns, first k, positions along K. -/
structure Block where
  num : Nat
  c0  : Nat
  cn  : Nat
  k0  : Nat
  kn  : Nat
  deriving DecidableEq, Repr

/-- Block `b` (R313). -/
def PackTensor.block (p : PackTensor) (b : Nat) : Block :=
  let kb := blockSpanOf p.fmt
  let c0 := 128 * (b / p.spans)
  let k0 := kb * (b % p.spans)
  { num := b, c0 := c0, cn := min 128 (p.n - c0), k0 := k0, kn := min kb (p.k - k0) }

/-- Decoded bytes of a column of a block, and of the block: its geometric size (R314). -/
def PackTensor.colBytes (p : PackTensor) (b : Block) : Nat := rowBytes p.fmt b.kn
def PackTensor.rawLen (p : PackTensor) (b : Block) : Nat := b.cn * p.colBytes b

/-- A block header (Table 5 of 07). -/
structure BlockHeader where
  kind  : Nat
  pad   : Nat
  gen   : Nat
  coded : Nat
  raw   : Nat
  crc   : Word
  deriving DecidableEq, Repr

/-- A header's bytes read as one. -/
def parseBlockHeader (b : Bytes) : BlockHeader :=
  { kind := (byteAt b 0).toNat, pad := (byteAt b 1).toNat, gen := leAt b 2 2, coded := leAt b 4 4, raw := leAt b 8 4,
    crc := BitVec.ofNat 32 (leAt b 12 4) }

/-- The bytes of a header. -/
def BlockHeader.bytes (h : BlockHeader) : Bytes :=
  leBytes 1 h.kind ++ leBytes 1 h.pad ++ leBytes 2 h.gen ++ leBytes 4 h.coded ++ leBytes 4 h.raw ++
    leBytes 4 h.crc.toNat

/-- Largest payload of a coded block (R318). -/
def codedMax (raw : Nat) : Nat := 7 * raw / 8

/-- R319. -/
def BlockHeader.bad (h : BlockHeader) (raw : Nat) : Bool :=
  decide (2 < h.kind) || h.raw != raw ||
    (if h.kind = 0 then h.coded != h.raw || h.pad != 0 || h.gen != 0 else h.coded == 0 || decide (codedMax h.raw < h.coded))

/-! ### Tables (R321 to R325) -/

/-- A table record (Table 6 of 07). -/
structure CodeTable where
  version : Nat
  state   : Nat
  gen     : Nat
  lengths : List Nat                  -- code length of each byte value
  deriving DecidableEq, Repr

/-- A table record's bytes read as one. -/
def parseTable (b : Bytes) : CodeTable :=
  { version := (byteAt b 0).toNat, state := (byteAt b 1).toNat, gen := leAt b 2 2,
    lengths := (List.range 256).map fun v => (byteAt b (16 + v / 2)).toNat / 16 ^ (v % 2) % 16 }

/-- The sum of 2^-length over the coded values, in units of 2^-12. -/
def CodeTable.kraft (t : CodeTable) : Nat := (t.lengths.map fun l => if l = 0 then 0 else 2 ^ (12 - min l 12)).sum

/-- Table 6 of 07 and R322, for the record of a version. -/
def CodeTable.bad (t : CodeTable) (b : Bytes) (version : Nat) : Bool :=
  t.version != version || decide (1 < t.state) || !zeroRange b 4 16 || !zeroRange b 144 160 ||
    (t.state == 1 && (t.gen == 0 || (t.lengths.any fun l => decide (12 < l)) || decide (4096 < t.kraft)))

/-- A coded value: its length, its code and itself. -/
structure CodeWord where
  length : Nat
  code   : Nat
  value  : Nat
  deriving DecidableEq, Repr

/-- The values with a code, in order of length and then of value. -/
def CodeTable.coded (t : CodeTable) : List (Nat × Nat) :=
  ((List.range 12).map fun i =>
    ((List.range 256).filter fun v => t.lengths.getD v 0 == i + 1).map fun v => (i + 1, v)).flatten

/-- Canonical codes given in order (R323), from the previous code and its length. -/
def canonical : Nat → Nat → List (Nat × Nat) → List CodeWord
  | _, _, [] => []
  | next, len, (l, v) :: rest =>
    let c := next * 2 ^ (l - len)
    { length := l, code := c, value := v } :: canonical (c + 1) l rest

/-- The codes of a table. -/
def CodeTable.codes (t : CodeTable) : List CodeWord := canonical 0 0 t.coded

/-- The bits of a payload, the lowest of each byte first, without its PAD last ones (R324). -/
def payloadBits (b : Bytes) (pad : Nat) : List Bool :=
  ((b.map fun x => (List.range 8).map fun i => x.getLsbD i).flatten).take (8 * b.length - pad)

/-- The decoder (R325): `len` and `code` are the code word read so far, `left` the bytes still to give, `acc` those given,
the last first. -/
def unpackBits (t : List CodeWord) : List Bool → Nat → Nat → Nat → Bytes → Except (Code × Nat) Bytes
  | [], _, _, left, acc => if left = 0 then .ok acc.reverse else .error (Err.expandShort, acc.length)
  | b :: bs, len, code, left, acc =>
    if left = 0 then .error (Err.expandOverrun, acc.length)
    else
      let c := 2 * code + bit b
      match t.find? fun w => w.length == len + 1 && w.code == c with
      | some w => unpackBits t bs 0 0 (left - 1) (BitVec.ofNat 8 w.value :: acc)
      | none => if len + 1 ≥ 12 then .error (Err.expandShort, acc.length) else unpackBits t bs (len + 1) c left acc

/-- Expander fault detail (Table 14 of 07). -/
def expanderDetail (code : Code) (inst kind block pt decoded : Nat) : Bytes :=
  leBytes 2 code.toNat ++ leBytes 1 inst ++ leBytes 1 kind ++ leBytes 4 block ++ leBytes 8 pt ++ leBytes 4 decoded ++
    zeros 4

/-- A fault of a block, with its detail (R355). -/
def PackTensor.stop (p : PackTensor) (inst b kind decoded : Nat) (code : Code) : Stop :=
  (code, expanderDetail code inst kind b p.addr decoded)

/-- Table record A or B. -/
def State.readTable (s : State) (ctx : Nat) (p : PackTensor) (version : Nat) : Except Stop (Bytes × CodeTable) := do
  let b ← s.fetch ctx (p.tables + 160 * version) 160
  .ok (b, parseTable b)

/-- The table of a version, judged when a command first uses it (R322). -/
def State.useTable (s : State) (ctx inst : Nat) (p : PackTensor) (block kind version : Nat) : Except Stop CodeTable := do
  let t ← s.readTable ctx p version
  if t.2.bad t.1 version then .error (p.stop inst block kind 0 Err.tableInvalid) else .ok t.2

/-- The header of a block with the address of its payload. -/
def State.readHeader (s : State) (ctx : Nat) (p : PackTensor) (b : Nat) : Except Stop (BlockHeader × Nat) := do
  let ix ← s.fetch ctx (p.index + 4 * b) 4
  let a := p.elem + 16 * leVal ix
  let h ← s.fetch ctx a 16
  .ok (parseBlockHeader h, a + 16)

/-- A block of a Saffron stream decoded whole (R317 to R326). -/
def State.decodeBlock (s : State) (ctx inst : Nat) (p : PackTensor) (b : Block) : Except Stop Bytes := do
  let h ← s.readHeader ctx p b.num
  if h.1.bad (p.rawLen b) then .error (p.stop inst b.num h.1.kind 0 Err.blockHeaderInvalid)
  else
    let payload ← s.fetch ctx h.2 h.1.coded
    if h.1.kind = 0 then
      if crc32c payload ≠ h.1.crc then .error (p.stop inst b.num h.1.kind 0 Err.blockCheckFailed) else .ok payload
    else
      let t ← s.useTable ctx inst p b.num h.1.kind (h.1.kind - 1)
      if t.state ≠ 1 ∨ t.gen ≠ h.1.gen then .error (p.stop inst b.num h.1.kind 0 Err.tableStale)
      else if crc32c payload ≠ h.1.crc then .error (p.stop inst b.num h.1.kind 0 Err.blockCheckFailed)
      else
        match unpackBits t.codes (payloadBits payload h.1.pad) 0 0 h.1.raw [] with
        | .ok out => .ok out
        | .error e => .error (p.stop inst b.num h.1.kind e.2 e.1)

/-- The element bytes of a block, column by column: from the stream, or from the raw plane (R312, R314). -/
def State.blockElems (s : State) (ctx inst : Nat) (p : PackTensor) (b : Block) : Except Stop (List Bytes) :=
  if p.saffron then do
    let raw ← s.decodeBlock ctx inst p b
    .ok (runsOf (p.colBytes b) b.cn raw)
  else
    (List.range b.cn).mapM fun j => do
      let e ← s.fetch ctx (p.elem + (b.c0 + j) * rowBytes p.fmt p.k + rowBytes p.fmt b.k0) (rowRead p.fmt b.kn)
      .ok (e ++ zeros (p.colBytes b - e.length))

/-- The scale bytes of a block, column by column (R315). -/
def State.blockScales (s : State) (ctx : Nat) (p : PackTensor) (b : Block) : Except Stop (List Bytes) :=
  (List.range b.cn).mapM fun j =>
    s.fetch ctx (p.scale + (b.c0 + j) * scaleBytes p.fmt p.k + scaleBytes p.fmt b.k0) (scaleBytes p.fmt b.kn)

/-! ### Adapters (R337 to R341) -/

/-- A span delivered: element and scale bytes column by column, and what NaN the expander found (R341). -/
structure Span where
  block  : Block
  elems  : List Bytes
  scales : List Bytes
  nan    : Nat
  deriving DecidableEq, Repr

/-- c of R337. -/
def Adapter.factor (a : Adapter) : Word := if isFp8 a.fmt then fmul a.alpha (fmul a.uScale a.vScale) else a.alpha

/-- One merged weight (R337). -/
def Adapter.merge (a : Adapter) (base : Word) (u v : Row) : Word :=
  fadd base (fmul (accumulate 0 (groupSums u v)) a.factor)

/-- A row of an adapter's factors. -/
def State.factorRow (s : State) (ctx : Nat) (a : Adapter) (base r : Nat) : Except Stop Row :=
  s.readRow ctx { addr := base, fmt := a.fmt, len := a.rank, ld := 0, saddr := 0 } r

/-- A column of a span merged: its bytes, and the marks of its NaNs (R83, R337 to R341). -/
def Adapter.mergeCol (a : Adapter) (fmt : Nat) (bt : Word) (us : List Row) (v : Row) (base : Row) :
    (Bytes × Bytes) × List Nat :=
  let words := base.scaled fmt bt
  let w := List.zipWith (fun b u => a.merge b u v) words us
  let q := fdiv fone bt
  let back := (readBack fmt false q w).words
  let marks := (List.zipWith (fun b u => fisNan b || u.hasNan || v.hasNan) words us).zipWith
    (fun i o => nanMark i o) (back.map fisNan)
  (rowImage fmt false q w, marks)

/-- A block as the expander delivers it (R337 to R341, R346). -/
def State.span (s : State) (ctx inst : Nat) (p : PackTensor) (ad : Option Adapter) (bt : Word) (b : Block) :
    Except Stop Span := do
  let elems ← s.blockElems ctx inst p b
  let scales ← s.blockScales ctx p b
  match ad with
  | none => .ok { block := b, elems := elems, scales := scales, nan := 0 }
  | some a =>
    let us ← (List.range b.kn).mapM fun i => s.factorRow ctx a a.u (b.k0 + i)
    let vs ← (List.range b.cn).mapM fun j => s.factorRow ctx a a.v (b.c0 + j)
    let base := List.zipWith (fun e sc => decodeRow p.fmt b.kn e sc) elems scales
    let cols := List.zipWith (fun v r => a.mergeCol p.fmt bt us v r) vs base
    .ok { block := b, elems := cols.map fun c => c.1.1, scales := cols.map fun c => c.1.2,
          nan := tileKind (cols.map fun c => c.2).flatten }

/-- The NaN event of a span delivered by an expander for a unit (R341). -/
def Span.event? (x : Span) (inst seq : Nat) : Option NanEvent :=
  if x.nan = 0 then none
  else
    some { kind := x.nan, unit := 4, stage := 0, row := 0, col := x.block.c0, k := x.block.k0, outer := 0, inst := inst,
           seq := seq, tile := [x.block.num] }

/-- Weights as they are delivered: the columns along K, and the spans they came in. -/
structure Delivered where
  rows  : List Row
  spans : List Span
  deriving DecidableEq, Repr

/-- The columns of one column tile, put together from its spans along K. -/
def joinSpans (p : PackTensor) (spans : List Span) : List Row :=
  let cn := match spans with
    | [] => 0
    | x :: _ => x.block.cn
  (List.range cn).map fun j =>
    decodeRow p.fmt p.k (spans.map fun x => x.elems.getD j []).flatten (spans.map fun x => x.scales.getD j []).flatten

/-- Every column of a packed tensor as the expanders deliver it, with its blocks in ascending order (R343 to R347);
`inst` is the expander a block is drawn from. -/
def State.deliver (s : State) (ctx : Nat) (inst : Block → Nat) (p : PackTensor) (ad : Option Adapter) (bt : Word) :
    Except Stop Delivered := do
  let spans ← (List.range p.count).mapM fun b => s.span ctx (inst (p.block b)) p ad bt (p.block b)
  .ok { rows := ((runsOf p.spans (cdiv p.n 128) spans).map (joinSpans p)).flatten, spans := spans }

/-! ### Tables and factors an expander holds (Table 1 and 2 of 07, R342) -/

/-- A decoder table used: it takes a slot, the oldest making room (eight slots). -/
def Expander.useTable (e : Expander) (t : Nat × Nat × Nat) : Expander :=
  if e.tables.contains t then e
  else { e with tables := (if e.tables.length < 8 then e.tables else e.tables.drop 1) ++ [t] }

/-- Factor pairs dropped, the least recently used first, until there is room for `n` bytes of 8 MiB. -/
def roomFor (n : Nat) : List (Nat × Nat × Nat) → List (Nat × Nat × Nat)
  | [] => []
  | f :: fs => if ((f :: fs).foldl (fun a x => a + x.2.2) 0) + n ≤ 8388608 then f :: fs else roomFor n fs

/-- A pair of an adapter and a tensor used: held when it fits, as the most recently used (R342). -/
def Expander.useFactors (e : Expander) (a t n : Nat) : Expander :=
  if n > 8388608 then e
  else
    { e with factors :=
        (roomFor n (e.factors.filter fun f => !(f.1 == a && f.2.1 == t))) ++ [(a, t, n)] }

/-- Bytes of an adapter's factors. -/
def Adapter.bytes (a : Adapter) : Nat := (a.k + a.n) * rowBytes a.fmt a.rank

/-- The expanders of some quads changed. -/
def State.updExps (s : State) (quads : List Nat) (f : Expander → Expander) : State :=
  { s with exps := s.exps.mapIdx fun i e => if quads.contains i then f e else e }

/-- The tables of a Saffron tensor's versions that are built. -/
def State.builtTables (s : State) (ctx : Nat) (p : PackTensor) : List (Nat × Nat × Nat) :=
  if !p.saffron then []
  else [0, 1].filterMap fun v =>
    match s.readTable ctx p v with
    | .ok t => if t.2.state = 1 ∧ (if v = 0 then p.countA else p.countB) ≠ 0 then some (s.physOf ctx p.addr, v, t.2.gen)
               else none
    | .error _ => none

/-- A tensor, with its adapter, drawn by the expanders of some quads: the tables and factors they then hold. -/
def State.drawn (s : State) (ctx : Nat) (quads : List Nat) (p : PackTensor) (ad : Option Adapter) : State :=
  let s1 := s.updExps quads fun e => (s.builtTables ctx p).foldl Expander.useTable e
  match ad with
  | none => s1
  | some a => s1.updExps quads fun e => e.useFactors (s.physOf ctx a.addr) (s.physOf ctx p.addr) a.bytes

/-! ### What the planner takes an expander to need (R353) -/

/-- Bytes fetched for a block's stream or for its part of the raw plane. -/
def State.blockFetched (s : State) (ctx : Nat) (p : PackTensor) (b : Block) : Nat :=
  if p.saffron then
    match s.readHeader ctx p b.num with
    | .ok h => 16 + 16 * cdiv h.1.coded 16
    | .error _ => 16 + 16 * cdiv (p.rawLen b) 16
  else p.rawLen b

/-- Expander cycles of a block delivered to one core (R353), its tables and a factor pair that fits the store held.
Log entry 27. -/
def State.spanCycles (s : State) (ctx : Nat) (p : PackTensor) (ad : Option Adapter) (b : Block) : Rat :=
  let scales := b.cn * scaleBytes p.fmt b.kn
  let factors := match ad with
    | some a => if 8388608 < a.bytes then (b.kn + b.cn) * rowBytes a.fmt a.rank else 0
    | none => 0
  let rank := match ad with
    | some a => a.rank
    | none => 0
  let fed : Rat := ((s.blockFetched ctx p b + scales + factors : Nat) : Rat) / 256
  let out : Rat := ((p.rawLen b + scales : Nat) : Rat) / 512
  max fed (max out (((b.kn * b.cn * rank : Nat) : Rat) / 16384))

/-! ### Waits for a tensor (R332, R333) -/

/-- OP of a PACKPASS descriptor; none for another opcode. -/
def packOp (b : Begun) : Option Nat := if b.opcode = 7 then some (byteAt b.desc 16).toNat else none

/-- A command that begins at an ordinal and names some tensors must wait: for an ENCODE of one that began before it; a
PACKPASS for every earlier PACKPASS of its tensor; a BUILD or ENCODE for every earlier command that names it. -/
def State.mustWait (s : State) (ord : Nat) (op : Option Nat) (tensors : List Nat) : Bool :=
  s.ctxs.any fun c => c.begun.any fun b =>
    decide (b.ord < ord) && (b.tensors.any fun t => tensors.contains t) &&
      (packOp b == some 1 || (op.isSome && (packOp b).isSome) || op == some 0 || op == some 1)

end Sys2Proof.Machine
end

