-- ==== Sys2Proof/Machine/Plan.lean ====
section
/-! DEFINITION. How the firmware plans a MATMUL: operand classes, array modes, units, drain waits and the K split (03, R94 to
R99, R111 to R114, R119 to R123, R132, R133, R143; 05, R214, R221, R229 to R233; 07, R353). Only P, and what the statistics record and CORE_INFO
show, depend on a plan. -/
namespace Sys2Proof.Machine

open Sys2Proof

/-! ### Classes and modes (Tables 3 and 4 of 03) -/

/-- d and c of a pairing (Table 3 of 03). -/
def classDC (a b : Nat) : Nat × Nat :=
  if isCode b then (2, if a = 2 then 2 else 1) else if a = 10 then (2, 1) else if a = 2 ∨ a = 3 then (1, 2) else (1, 1)

/-- An array mode (Table 4 of 03): gangs, weight depth in units of d, width, load cycles. -/
structure ArrayMode where
  gangs : Nat
  kt    : Nat
  nt    : Nat
  load  : Nat
  deriving DecidableEq, Repr

/-- Table 4 of 03 by code. -/
def arrayMode (m : Nat) : ArrayMode :=
  match m with
  | 1 => { gangs := 4, kt := 128, nt := 128, load := 128 }
  | 2 => { gangs := 2, kt := 128, nt := 256, load := 128 }
  | 3 => { gangs := 1, kt := 256, nt := 256, load := 128 }
  | _ => { gangs := 1, kt := 32, nt := 2048, load := 32 }

/-- Row tiles per gang with `f` free accumulator tiles (R96). -/
def ArrayMode.rowTiles (m : ArrayMode) (f : Nat) : Nat := f / m.gangs / (m.nt / 128)

/-- Accumulator tiles of a core (Table 1 of 03). -/
def accTiles : Nat := 32

/-! ### Drain cost (R229) -/

/-- Lane-cycles per element of a stage (Table 4 of 05). -/
def Stage.cost (g : Stage) : Nat :=
  if g.converts then (if isFp8 g.ifmt || isMx g.ifmt then 2 else 1)
  else if g.kind = Kd.act then [1, 9, 12].getD g.sub 1
  else if g.kind = Kd.clamp then 2
  else if g.kind = Kd.rowstat then [3, 2, 1, 7].getD g.sub 1
  else if g.kind = Kd.apply then [2, 1, 6, 1].getD g.sub 1
  else 1

/-- Bytes of elements with their scales. -/
def fullRow (c n : Nat) : Nat := rowBytes c n + scaleBytes c n

/-- Bytes a row of `n` elements reads with its scales (R124). -/
def readBytes (c n : Nat) : Nat := rowRead c n + scaleBytes c n

/-- Side bytes a tile of `w` columns reads for each row. -/
def Stage.sideRow (g : Stage) (w : Nat) : Nat :=
  if g.kind = Kd.residual then readBytes g.src w
  else if g.kind = Kd.scale then
    match g.sub with
    | 1 => rowBytes g.src 1
    | 3 => cdiv w (2 ^ g.glog) * rowBytes g.src 1
    | 4 => w * rowBytes g.src 1
    | _ => 0
  else if g.kind = Kd.mask ∧ g.sub = 1 then cdiv w 8
  else if g.kind = Kd.apply ∧ g.own = false then 8 * cdiv g.pb.toNat 128
  else 0

/-- Side bytes a tile of `w` columns reads once. -/
def Stage.sideOnce (g : Stage) (w : Nat) : Nat :=
  if g.kind = Kd.bias ∨ (g.kind = Kd.scale ∧ g.sub = 2) then rowBytes g.src w else 0

/-- Bytes a tile of `w` columns sends for each row. -/
def Stage.outRow (g : Stage) (w : Nat) : Nat :=
  if g.sends then fullRow g.ifmt w else if g.kind = Kd.rowstat ∧ g.addr ≠ 0 ∧ w ≠ 0 then 8 else 0

/-- Streamed rows of a row tile (R112). -/
def streamed (r : Nat) : Nat := 32 * cdiv r 32

/-- d of R229 for some stages on a tile of `rows` rows and `w` columns within the matrix; `extra` is the cost beside the
stages', `fed` the bytes the tile itself is read from memory with (R240). -/
def drainCycles (l : List Stage) (extra fed rows w : Nat) : Nat :=
  let sigma := (l.map Stage.cost).sum + extra
  let out := (l.map fun g => g.outRow w).sum * rows
  let side := (l.map fun g => g.sideRow w).sum * rows + (l.map fun g => g.sideOnce w).sum
  8 + max (cdiv (128 * streamed rows * sigma) 512) (max (cdiv out 256) (max (cdiv side 256) (cdiv fed 256)))

/-! ### Packed supply (R353) -/

/-- What the expanders need for the weights of a group: positions along K of a span, and the expander cycles of each span
by column tile and span. -/
structure Supply where
  kb : Nat
  t  : List (List Rat)
  deriving DecidableEq, Repr

/-- Expander cycles for the columns and the k of some weight tiles, a span's time shared out along K. -/
def Supply.cycles (x : Supply) (k c0 c1 k0 k1 : Nat) : Rat :=
  (((List.range (cdiv c1 128)).drop (c0 / 128)).map fun j =>
    (((List.range (cdiv k1 x.kb)).drop (k0 / x.kb)).map fun i =>
      let len := min x.kb (k - x.kb * i)
      let part := min k1 (x.kb * i + len) - max k0 (x.kb * i)
      (x.t.getD j []).getD i 0 * (part : Rat) / (len : Rat)).sum).sum

/-! ### Units (R111 to R113, R143, R221, R230) -/

/-- What is planned: formats, shape, first column, rows of the weight groups in list order, flags, prologue and epilogue,
whether the order is row-complete, bytes of scratchpad for the chain area and for staging, the supply of packed weights
(none for raw), the core cycles in which a quad's cores draw one expander cycle each, cores. -/
structure PlanJob where
  aFmt   : Nat
  bFmt   : Nat
  n      : Nat
  k      : Nat
  col    : Nat
  groups : List (List Nat)
  ew     : Bool
  startC : Bool
  pro    : List Stage
  epi    : List Stage
  own    : Bool
  area   : Nat
  staging : Nat
  extra  : Nat                        -- lane-cycles of the scaling of R73
  conv   : Nat                        -- lane-cycles of the conversion of R131
  supply : List Supply
  draw   : Rat
  split  : Bool
  cores  : Nat
  deriving DecidableEq, Repr

/-- One unit planned: its cycles; for each slot c x the streamed rows and the drain's cycles for its tiles; bytes of its
partial; the wait of R222; its pass and that pass's prologue work. -/
structure PlanUnit where
  cyc   : Nat
  slots : List (Nat × Nat)
  wp    : Nat
  rcw   : Nat
  pass  : Nat
  pro   : Nat
  deriving DecidableEq, Repr

/-- Row tiles of a group, each triple starting a new one: rows of each. -/
def rowTilesOf (ms : List Nat) : List Nat :=
  (ms.map fun m => (List.range (cdiv m 128)).map fun i => min 128 (m - 128 * i)).flatten

/-- Passes of a job: group and row tiles of each (R111). -/
def PlanJob.passes (j : PlanJob) (per : Nat) : List (Nat × List Nat) :=
  (j.groups.mapIdx fun g ms =>
    let t := rowTilesOf ms
    (runsOf per t.length t).map fun p => (g, p)).flatten

/-- Weight tiles along K in a mode. -/
def PlanJob.tilesK (j : PlanJob) (m : ArrayMode) : Nat := cdiv j.k (m.kt * (classDC j.aFmt j.bFmt).1)

/-- First weight tile of part `i` of `p` (R120). -/
def partStart (t p i : Nat) : Nat := i * t / p

/-- The stages before the first APPLY with OWN, and from it on (R222). -/
def splitOwn (l : List Stage) : List Stage × List Stage :=
  l.span fun g => !(g.kind == Kd.apply && g.own)

/-- s of R143: cycles in which one weight tile for each of `g` gangs from column tile `ct` arrives. -/
def PlanJob.supplyOf (j : PlanJob) (m : ArrayMode) (group ct g t : Nat) : Rat :=
  let kt := m.kt * (classDC j.aFmt j.bFmt).1
  match j.supply[group]? with
  | none => ((g * (fullRow j.bFmt kt * m.nt) : Nat) : Rat) / 256
  | some x =>
    j.draw * x.cycles j.k (j.col + ct * m.nt) (min (j.col + j.n) (j.col + (ct + g) * m.nt)) (t * kt)
      (min j.k ((t + 1) * kt))

/-- Columns within the matrix of each accumulator tile of `g` gangs from column tile `ct`. -/
def PlanJob.widths (j : PlanJob) (m : ArrayMode) (ct g : Nat) : List Nat :=
  (List.range (g * (m.nt / 128))).map fun i => min 128 (j.n - 128 * (ct * (m.nt / 128) + i))

/-- R233: prologue work of a pass. -/
def PlanJob.proWork (j : PlanJob) (rows : Nat) : Nat :=
  if j.pro.isEmpty then 0 else cdiv (rows * j.k * ((j.pro.map Stage.cost).sum + 2)) 512

/-- One unit of a pass: `g` gangs from column tile `ct`, of `cgs` column groups, over the weight tiles of a part. -/
def PlanJob.unit (j : PlanJob) (m : ArrayMode) (cgs no : Nat) (pass : Nat × List Nat) (ct g t0 t1 : Nat) : PlanUnit :=
  let dc := classDC j.aFmt j.bFmt
  let kt := m.kt * dc.1
  let c := if j.ew then 1 else dc.2
  let rp := (pass.2.map streamed).sum
  let real := pass.2.sum
  let ncol := cdiv j.n m.nt
  let cols := if j.own then j.n else min j.n ((ct + g) * m.nt) - ct * m.nt
  let w := fullRow j.bFmt kt * m.nt
  let nk := t1 - t0
  let klen := min j.k (t1 * kt) - t0 * kt
  let step (ct t : Nat) : Rat := max ((c * rp : Nat) : Rat) (max (m.load : Rat) (j.supplyOf m pass.1 ct g t))
  let starts := if j.own then (List.range (cdiv ncol m.gangs)).map fun i => i * m.gangs else [ct]
  let stream := (starts.map fun ct => ((List.range nk).map fun t => step ct (t0 + t)).sum).sum
  let arr := if j.ew then 160 + rp else m.load + 160 + stream.ceil.toNat
  let sides (ws : List Nat) : Nat :=
    (ws.map fun w => (j.epi.map fun g => g.sideRow w * real + g.sideOnce w).sum).sum
  let tiles := if j.own then ncol else g
  let aAll := real * readBytes j.aFmt klen
  let aBytes := if j.own ∨ scratchpad - j.area - j.staging < aAll then aAll else cdiv aAll cgs
  let loads :=
    if j.ew then real * (readBytes j.aFmt cols + readBytes j.bFmt cols + if j.startC then 4 * cols else 0)
    else (if j.supply.isEmpty then tiles * nk * w else 0) + aBytes
  let side := sides (if j.own then j.widths m 0 ncol else j.widths m ct g)
  let drain (r : Nat) : Nat :=
    if j.own ∨ 0 < t0 ∨ (j.epi.isEmpty ∧ j.conv = 0) then 0
    else ((j.widths m ct g).map fun w => drainCycles j.epi (j.extra + j.conv) 0 r w).sum
  let ph := splitOwn j.epi
  let last := (cdiv ncol m.gangs - 1) * m.gangs
  { cyc := max arr (cdiv (loads + side) 256),
    slots := pass.2.map fun r => (c * streamed r, drain r),
    wp := real * cols * 4,
    rcw :=
      if j.own then
        ((j.widths m last (min m.gangs (ncol - last))).map fun w => drainCycles ph.1 j.extra 0 real w).sum +
          ((j.widths m 0 ncol).map fun w => drainCycles ph.2 0 0 real w).sum
      else 0,
    pass := no, pro := j.proWork rp }

/-- The column groups of a job: first column tile and gangs of each (R113, R221). -/
def PlanJob.colGroups (j : PlanJob) (m : ArrayMode) : List (Nat × Nat) :=
  let ncol := cdiv j.n m.nt
  if j.own then [(0, min m.gangs ncol)]
  else (List.range (cdiv ncol m.gangs)).map fun i => (i * m.gangs, min m.gangs (ncol - i * m.gangs))

/-- The units of a pass over the weight tiles of a part, one for each column group. -/
def PlanJob.passUnits (j : PlanJob) (m : ArrayMode) (no : Nat) (ps : Nat × List Nat) (t0 t1 : Nat) : List PlanUnit :=
  let cgs := j.colGroups m
  cgs.map fun cg => j.unit m cgs.length no ps cg.1 cg.2 t0 t1

/-- The units of a job in a mode with `per` row tiles a pass and P parts, in the order of R114. -/
def PlanJob.units (j : PlanJob) (m : ArrayMode) (per p : Nat) : List PlanUnit :=
  let t := j.tilesK m
  let cgs := j.colGroups m
  ((j.passes per).mapIdx fun no ps => (cgs.map fun cg => (List.range p).map fun i =>
    j.unit m cgs.length no ps cg.1 cg.2 (partStart t p i) (partStart t p (i + 1))).flatten).flatten

/-! ### Planned cycles (R114, R116, R231 to R233) -/

/-- The place among the cores of each unit of the given cycles: contiguous runs cut at the fair shares of the planned
cycles (R114). Where the cuts fall within R114's bound is the model's choice, log entry 27. -/
def dealUnits (cores total : Nat) : Nat → List Nat → List Nat
  | _, [] => []
  | pre, u :: us => min (cores - 1) (pre * cores / max 1 total) :: dealUnits cores total (pre + u) us

/-- The place among the cores of each of some units. -/
def dealt (cores : Nat) (us : List Nat) : List Nat := dealUnits cores us.sum 0 us

/-- A unit of a command whose drain or arrays take known tiles: its item's place in the list, its tiles, its cycles. -/
structure DealtUnit where
  pos   : Nat
  tiles : List Tile
  cyc   : Nat
  deriving DecidableEq, Repr

/-- The units of a command given to the cores of its allotment (R114): the cores, the units in order, and the place among the
cores of each. -/
structure Dealing where
  cores  : List Nat
  units  : List DealtUnit
  places : List Nat
  deriving DecidableEq, Repr

/-- Units dealt. -/
def dealTo (cores : List Nat) (us : List DealtUnit) : Dealing :=
  { cores := cores, units := us, places := dealt cores.length (us.map DealtUnit.cyc) }

/-- The unit that has a tile of an item. -/
def Dealing.unitOf (d : Dealing) (pos : Nat) (e : NanEvent) : Option Nat :=
  d.units.findIdx? fun u => u.pos == pos && u.tiles.any fun t => t.outer == e.outer && t.row == e.row && t.c0 == e.col

/-- An event of an item's tile put on the core that has it. -/
def Dealing.stamp (d : Dealing) (pos : Nat) (e : NanEvent) : NanEvent :=
  match d.unitOf pos e with
  | some i => { e with inst := d.cores.getD (d.places.getD i 0) 0, seq := i }
  | none => e

/-- How many cores take units. -/
def Dealing.used (d : Dealing) : Nat := d.places.dedup.length

/-- R231: the stall before the pass that reuses a unit's slots, and the drain's tail. `state` is free, stall, done. -/
def drainWait (u : PlanUnit) (gap : Nat) : Nat × Nat :=
  let total := (u.slots.map fun s => s.1).sum
  let r := u.slots.foldl (fun (x : Nat × Nat × Nat) sd =>
    let free := max x.1 (x.2.2 + sd.1) + sd.2
    (free, x.2.1 + (free - (total + gap + x.2.2 + x.2.1)), x.2.2 + sd.1)) (0, 0, 0)
  (r.2.1, r.1 - total)

/-- The waits of a core's units: full plan, each before the next; alternating plan, each before the next but one. -/
def drainWaits (alt : Bool) : List PlanUnit → Nat
  | [] => 0
  | [u] => (drainWait u 0).2
  | u :: v :: rest =>
    (if alt then (if rest.isEmpty then 0 else (drainWait u v.cyc).1) else (drainWait u 0).1) + drainWaits alt (v :: rest)

/-- R233: the waits of a core's passes for their prologues: each pass's work less the cycles of the preceding pass in
which the drain had none of its epilogue; the first pass of a core has none before it. `prev` is the preceding unit's
pass, `idle` the idle cycles of the passes so far. -/
def proWaits : Option Nat → Nat → List PlanUnit → Nat
  | _, _, [] => 0
  | prev, idle, u :: us =>
    let spare := u.cyc - (u.slots.map fun s => s.2).sum
    if prev = some u.pass then proWaits prev (idle + spare) us
    else (u.pro - idle) + proWaits (some u.pass) spare us

/-- Planned cycles of a core's units: their own, and the waits of R222, R231 and R233. -/
def coreCycles (alt : Bool) (us : List PlanUnit) : Nat :=
  (us.map PlanUnit.cyc).sum + proWaits none 0 us + (us.map PlanUnit.rcw).sum + drainWaits alt us

/-- The cycles a K split adds after the slowest part, for units of the given output bytes (R143). -/
def splitCycles (p : Nat) (wps : List Nat) : Nat := if p ≤ 1 then 0 else p * cdiv (wps.foldl max 0) 256

/-- Planned cycles of the busiest core, for units at their places among the cores. -/
def busiest (cores : Nat) (alt : Bool) (places : List Nat) (us : List (List PlanUnit)) : Nat :=
  (List.range cores).foldl (fun a i =>
    max a (coreCycles alt (((places.zip us).filter fun x => x.1 == i).map fun x => x.2).flatten)) 0

/-- The smallest power of two from 2 up to 8 that brings the units up to the cores (R120). -/
def splitParts (units cores : Nat) : Nat :=
  if cores ≤ 2 * units then 2 else if cores ≤ 4 * units then 4 else 8

/-- P for a number of units (R119, R120). -/
def PlanJob.parts (j : PlanJob) (m : ArrayMode) (units : Nat) : Nat :=
  if j.split && decide (0 < units ∧ units < j.cores) then max 1 (min (splitParts units j.cores) (j.tilesK m)) else 1

/-- A plan: array mode, PLAN of the statistics record, parts, units before the split, first weight tile of each part,
depth of a tile, row tiles of a pass, column groups of a pass and their columns, and the place among the cores of each
unit. -/
structure MatPlan where
  mode  : Nat
  plan  : Nat
  p     : Nat
  units : Nat
  lo    : List Nat
  kt    : Nat
  per   : Nat
  cgs   : Nat
  cw    : Nat
  deal  : List Nat
  deriving DecidableEq, Repr

/-- Free accumulator tiles of a job (R96, R197). -/
def PlanJob.free (j : PlanJob) : Nat := if j.own then accTiles - 1 else accTiles

/-- Row tiles of a pass whose prologue results fit twice in the scratchpad (R214). -/
def PlanJob.proTiles (j : PlanJob) : Nat :=
  (scratchpad - j.staging - j.area) / (2 * prologueBytes j.aFmt j.k)

/-- Row tiles of a pass: one in row-complete ordering, else those of R96 that R214 allows. -/
def PlanJob.perPass (j : PlanJob) (m : ArrayMode) (alt : Bool) : Nat :=
  if j.own then 1
  else
    let t := m.rowTiles (if alt then j.free / 2 else j.free)
    max 1 (if j.pro.isEmpty then t else min t j.proTiles)

/-- The plan of a job in a mode and a way of holding passes: `way` is 0 full, 1 alternating, 2 row-complete. -/
def PlanJob.planIn (j : PlanJob) (mode way : Nat) : MatPlan × Nat :=
  let m := arrayMode mode
  let per := j.perPass m (way == 1)
  let whole := j.units m per 1
  let p := j.parts m whole.length
  let us := if p = 1 then whole else j.units m per p
  let places := dealt j.cores (us.map PlanUnit.cyc)
  ({ mode := mode, plan := way, p := p, units := whole.length, lo := (List.range p).map (partStart (j.tilesK m) p),
     kt := m.kt * (classDC j.aFmt j.bFmt).1, per := per, cgs := (j.colGroups m).length,
     cw := if j.own then j.n else m.gangs * m.nt, deal := places },
    busiest j.cores (way == 1) places (us.map fun u => [u]) + splitCycles p (us.map PlanUnit.wp))

/-- The ways a job may be planned (R221, R232). -/
def PlanJob.ways (j : PlanJob) : List Nat :=
  if j.own then [2] else if j.epi.isEmpty then [0] else [0, 1]

/-- The modes MODE 0 may choose from (R98, R99, R139). -/
def PlanJob.modes (j : PlanJob) : List Nat := if j.ew then [1] else if isCode j.bFmt then [1, 2, 3] else [1, 2, 3, 4]

/-- The modes of a MODE field. -/
def PlanJob.modesOf (j : PlanJob) (mode : Nat) : List Nat := if mode = 0 then j.modes else [mode]

/-- The plan with the fewest cycles, the earlier on equal counts (R99, R232). -/
def fewest {α : Type} : List (α × Nat) → Option (α × Nat)
  | [] => none
  | p :: ps =>
    match fewest ps with
    | none => some p
    | some q => if q.2 < p.2 then some q else some p

/-- The plan of no units. -/
def emptyPlan : MatPlan :=
  { mode := 1, plan := 0, p := 1, units := 0, lo := [0], kt := 128, per := 1, cgs := 1, cw := 128, deal := [] }

/-- The plan of a job: the fewest planned cycles. -/
def PlanJob.plan (j : PlanJob) (mode : Nat) : MatPlan :=
  match fewest ((j.modesOf mode).map fun m => j.ways.map fun w => j.planIn m w).flatten with
  | some p => p.1
  | none => emptyPlan

/-- The part that holds a position along K. -/
def MatPlan.partAt (p : MatPlan) (k : Nat) : Nat := ((p.lo.filter fun t => decide (t * p.kt ≤ k)).length) - 1

/-! ### Chained products (R132, R133) -/

/-- The columns of T of slice `i` of `p`, cut at the weight tiles of the second product (R120, R133). -/
def sliceOf (kt n p i : Nat) : Nat × Nat :=
  let t := cdiv n kt
  (partStart t p i * kt, min n (partStart t p (i + 1) * kt))

/-- A slice of `w` columns of T fits: 128 rows in 4 MiB. -/
def sliceFits (fmt w : Nat) : Bool := decide (128 * fullRow fmt w ≤ 4194304)

/-- Slices of T's columns: the smallest power of two, at most 8, whose slices fit; none when more would be needed. -/
def slicesOf (kt fmt n : Nat) : Option Nat :=
  [1, 2, 4, 8].find? fun p =>
    (List.range p).all fun i =>
      let r := sliceOf kt n p i
      sliceFits fmt (r.2 - r.1)

/-- A chained product: its two products as jobs. The first's columns are T's; the second's K is. -/
structure ChainedJob where
  first  : PlanJob
  second : PlanJob
  deriving DecidableEq, Repr

/-- The plan of a chained product in a mode: each unit is one pass of both products for one slice of T (R132, R133), at
the cycles of the units of both and their drain waits; its passes hold the row tiles of R96 whose slices of T fit in 4 MiB.
None where a slice cannot be held. Log entry 27. -/
def ChainedJob.planIn (x : ChainedJob) (mode : Nat) : Option (MatPlan × Nat) :=
  let m := arrayMode mode
  let a := x.first
  let b := x.second
  let fmt := b.aFmt
  let kt := m.kt * (classDC fmt b.bFmt).1
  (slicesOf kt fmt a.n).map fun p =>
    let cut := (List.range p).map (sliceOf kt a.n p)
    let widest := (cut.map fun r => r.2 - r.1).foldl max 0
    let per := max 1 (min (min (a.perPass m false) (b.perPass m false)) (4194304 / max 1 (128 * fullRow fmt widest)))
    let us := ((a.passes per).mapIdx fun no ps =>
      cut.map fun r =>
        ({ a with n := r.2 - r.1, col := r.1 } : PlanJob).passUnits m no ps 0 (a.tilesK m) ++
          b.passUnits m no (0, ps.2) (r.1 / kt) (cdiv r.2 kt)).flatten
    let places := dealt a.cores (us.map fun l => (l.map PlanUnit.cyc).sum)
    ({ mode := mode, plan := if p = 1 then 3 else 4, p := p, units := (a.passes per).length,
       lo := (List.range p).map (partStart (cdiv a.n kt) p), kt := kt, per := per, cgs := 1, cw := max 1 b.n,
       deal := places },
      busiest a.cores false places us + splitCycles p ((a.passes per).map fun ps => ps.2.sum * b.n * 4))

/-- The modes of a chained product. -/
def ChainedJob.modesOf (x : ChainedJob) (mode : Nat) : List Nat :=
  if mode ≠ 0 then [mode] else if isCode x.first.bFmt ∨ isCode x.second.bFmt then [1, 2, 3] else [1, 2, 3, 4]

/-- The plan of a chained product: the fewest planned cycles. -/
def ChainedJob.plan (x : ChainedJob) (mode : Nat) : MatPlan :=
  match fewest ((x.modesOf mode).filterMap x.planIn) with
  | some p => p.1
  | none => emptyPlan

end Sys2Proof.Machine
end

