-- ==== Sys2Proof/Machine/MemRepair.lean ====
section
/-! DEFINITION. Scrubbing, row repair, page retirement and interface loop-back (08, R368 to R373, R398 to R409). -/
namespace Sys2Proof.Machine

open Sys2Proof

/-! ### Rows (R367) -/

/-- Channel, bank and row of a byte of a site. -/
def chanOf (o : Nat) : Nat := o / 256 % 32
def bankOf (o : Nat) : Nat := o / 8192 % 64
def rowOf (o : Nat) : Nat := o / 2 ^ 21

/-- Offset in its site of byte `j` of a row. -/
def rowByte (r : RowRef) (j : Nat) : Nat :=
  r.row * 2 ^ 21 + j / 256 * 2 ^ 19 + r.bank * 2 ^ 13 + r.chan * 256 + j % 256

/-- The stack page of a row: row p of every bank and channel is page p of the site. -/
def rowPage (r : RowRef) : Nat := stackAddr r.site (r.row * bigPage)

/-- A site. -/
def State.site (s : State) (n : Nat) : Site := s.sites.getD n (Site.reset false)

/-- A site changed. -/
def State.updSite (s : State) (n : Nat) (f : Site → Site) : State := { s with sites := s.sites.modify n f }

/-- Spare rows left in a bank: two, less the rows remapped in it. -/
def Site.spares (x : Site) (chan bank : Nat) : Nat :=
  2 - (x.used.filter fun u => u.1 == chan && u.2.1 == bank).length

/-- Corrected errors counted against a channel, to 0xFFFF_FFFF (Table 11 of 08). -/
def bumpChan (l : List (Nat × Nat)) (chan : Nat) : List (Nat × Nat) :=
  if (l.any fun p => p.1 == chan) = true then
    l.map fun p => if p.1 = chan then (chan, min (p.2 + 1) 0xFFFFFFFF) else p
  else l ++ [(chan, 1)]

/-- Separate reads of a row that gave a corrected error. -/
def bumpRow (l : List (Nat × Nat × Nat × Nat)) (chan bank row : Nat) : List (Nat × Nat × Nat × Nat) :=
  let is (p : Nat × Nat × Nat × Nat) : Bool := p.1 == chan && p.2.1 == bank && p.2.2.1 == row
  if (l.any is) = true then l.map fun p => if is p then (chan, bank, row, p.2.2.2 + 1) else p
  else l ++ [(chan, bank, row, 1)]

/-- Reads of a row that gave a corrected error since the start. -/
def Site.reads (x : Site) (r : RowRef) : Nat :=
  match x.rowReads.find? fun p => p.1 == r.chan && p.2.1 == r.bank && p.2.2.1 == r.row with
  | some p => p.2.2.2
  | none => 0

/-! ### Retirement (R401 to R403) -/

/-- Pages of a mapping outside a retired 2 MiB frame, in runs of neighbours: (first index, pages). -/
def keptRuns (frame psize : Nat) : Nat → List Nat → List (Nat × List Nat)
  | _, [] => []
  | i, a :: as =>
    if frame ≤ a ∧ a < frame + bigPage then keptRuns frame psize (i + 1) as
    else
      match keptRuns frame psize (i + 1) as with
      | (j, ps) :: rest => if j = i + 1 then (i, a :: ps) :: rest else (i, [a]) :: (j, ps) :: rest
      | [] => [(i, [a])]

/-- A mapping holds a page of a frame. -/
def Mapping.touches (m : Mapping) (frame : Nat) : Bool := m.pages.any fun a => decide (frame ≤ a ∧ a < frame + bigPage)

/-- A mapping without the pages of a frame: what remains of it, in parts (R401). -/
def Mapping.cut (m : Mapping) (frame : Nat) : List Mapping :=
  if m.touches frame then
    (keptRuns frame m.psize 0 m.pages).map fun r =>
      { m with base := m.base + r.1 * m.psize, length := r.2.length * m.psize, pages := r.2 }
  else [m]

/-- Contexts that map a page of a frame. -/
def State.mappersOf (s : State) (frame : Nat) : List Nat :=
  ((s.maps.filter fun m => m.touches frame).map fun m => m.ctx).dedup

/-- The fault of a context that is of no command: the record names no item, and the spec gives the fields that name a
command no value (log entry 19). -/
def State.unnamedFault (s : State) (n : Nat) (code : Code) : State :=
  let f : FaultInfo :=
    { code := code, cmdCtx := (Config.freeWord s.free).toNat, cmdIndex := Config.freeWord (s.free + 1),
      opcode := Config.freeByte (s.free + 2) }
  ({ s with free := s.free + 3 }).ctxFault n f 0

/-- Key of a PAGE_RETIRE record: tier, unit, page. -/
def retireKey (frame : Nat) : List Nat := [bit (isBulk frame), unitOf frame, frame % 2 ^ 36 / bigPage]

/-- A free page of the stack tier. -/
def State.freePage (s : State) : Option (Nat × State) :=
  let cand := s.siteList.filter fun u => decide (0 < s.freeStack u)
  if cand.isEmpty then none
  else
    let (i, s1) := s.choose cand.length
    s1.takePage .stack bigPage (cand.getD i 0)

/-- A save area's page replaced by a free one where one remains; what it held is not stated (R402). Log entry 16. -/
def State.replaceSavePage (s : State) (frame : Nat) : State :=
  match s.freePage with
  | none => { s with ctxs := s.ctxs.map fun c => { c with savePages := c.savePages.filter fun a => a != frame } }
  | some (a, s1) =>
    let swap (c : Ctx) : Ctx := { c with savePages := c.savePages.map fun x => if x = frame then a else x }
    { s1.smudgePage a with ctxs := s1.ctxs.map swap }

/-- A frame marked retired; the firmware's objects and the save area that lay in it move to other pages (R402, R403). -/
def State.markRetired (s : State) (frame : Nat) : State :=
  let s1 : State := { s with
    retired := if s.retired.contains frame then s.retired else s.retired ++ [frame]
    fwPages := s.fwPages.filter fun a => a != frame }
  let s2 := if s1.ctxs.any fun c => c.savePages.contains frame then s1.replaceSavePage frame else s1
  (s2.fitFw).getD s2

/-- A retired page leaves every mapping, and every context that mapped it takes MEM_UNCORRECTABLE (R401). -/
def State.takeAway (s : State) (frame : Nat) : State :=
  let holders := s.mappersOf frame
  let code := if isBulk frame then Err.bulkUncorrectable else Err.memUncorrectable
  let s0 : State := { s with maps := (s.maps.map fun m => m.cut frame).flatten }
  holders.foldl (fun t n => t.unnamedFault n code) s0.pruneMoves

/-- The movers copy a retired stack page to a free one; with no free page it leaves its mappings at once (R402). -/
def State.startCopy (s : State) (frame : Nat) : State :=
  match s.freePage with
  | none => s.takeAway frame
  | some (a, s1) =>
    let s2 : State :=
      { s1 with pageMoves := s1.pageMoves ++ [{ old := frame, new := a, size := bigPage, copied := false }] }
    s2.addFwJob (.copy frame a) (bigPage / smallPage)

/-- The copies to a page that is itself retired begin again with another page (R403). -/
def State.redoCopies (s : State) (frame : Nat) : State :=
  let moves := s.pageMoves.filter fun p => p.new == frame
  let s1 : State := { s with pageMoves := s.pageMoves.filter (fun p => p.new != frame),
                             jobs := s.jobs.filter fun j => !(j.fw.any fun w => w.work.copiesTo frame) }
  moves.foldl (fun t p => t.startCopy p.old) s1

/-- A page retired for an uncorrectable error (R401). -/
def State.retireNow (s : State) (frame : Nat) : State := (((s.markRetired frame).takeAway frame).redoCopies frame).settle

/-- A stack page retired for corrected errors: copied to a free page that replaces it at each context's quiescent point
(R402). -/
def State.retireCopied (s : State) (frame : Nat) : State :=
  let s1 := s.markRetired frame
  ((if (s.mappersOf frame).isEmpty then s1 else s1.startCopy frame).redoCopies frame).settle

/-- PAGE_REPLACE: at a context's quiescent point the copied page takes the place of the retired one in its mappings
(R402). -/
def State.pageReplace (s : State) (n page : Nat) : State :=
  match s.pageMoves.find? fun p => p.old == page && p.copied with
  | none => s
  | some p =>
    if s.phase ≠ .ready ∨ !(s.begunOf n).isEmpty then s
    else
      let swap (m : Mapping) : Mapping :=
        if m.ctx = n then { m with pages := m.pages.map fun a => if a = p.old then p.new else a } else m
      ({ s with maps := s.maps.map swap }).pruneMoves

/-- PAGE_REPLACE (R402). -/
def execPageReplace (ctx : Nat) (page : Nat) (s : State) : Host.Outcome State Fault Refusal :=
  done s (s.pageReplace ctx page)

/-! ### Remapping (R398 to R400) -/

/-- A row remapped to a spare of its bank; after an uncorrectable error the row's data is not known. -/
def State.remapRow (s : State) (r : RowRef) (uncorrectable : Bool) : State :=
  let s1 := s.updSite r.site fun x =>
    { x with used := x.used ++ [(r.chan, r.bank, r.row)],
             rowReads := x.rowReads.filter fun p => !(p.1 == r.chan && p.2.1 == r.bank && p.2.2.1 == r.row) }
  if uncorrectable then
    (List.range 4).foldl (fun t j => t.scramble (stackAddr r.site (rowByte r (256 * j))) 256) s1
  else s1

/-- Key of a STACK_REMAP record. -/
def rowKey (r : RowRef) : List Nat := [r.site, r.chan, r.bank, r.row]

/-- The body of a STACK_REMAP record: the spare taken. Log entry 20. -/
def State.remapBody (s : State) (r : RowRef) : Bytes := leBytes 1 (2 - (s.site r.site).spares r.chan r.bank)

/-- The body of a PAGE_RETIRE record is empty. Log entry 20. -/
def retireBody : Bytes := []

/-- STACK_ROW_REMAP: its occasion is a row that R398 asks to remap; without a spare its page is retired (R398 to
R403). -/
def State.stackRowRemap (s : State) (r : RowRef) (unc : Bool) : State :=
  let x := s.site r.site
  if !s.running ∨ !x.present ∨ !(unc || decide (8 ≤ x.reads r)) then s
  else if 0 < x.spares r.chan r.bank then
    s.moduleRecord Kind.stackRemap (rowKey r) (s.remapBody r) fun t => t.remapRow r unc
  else
    s.moduleRecord Kind.pageRetire (retireKey (rowPage r)) retireBody fun t =>
      if unc then t.retireNow (rowPage r) else t.retireCopied (rowPage r)

/-- STACK_ROW_REMAP (R399). -/
def execStackRowRemap (row : RowRef) (uncorrectable : Bool) (s : State) : Host.Outcome State Fault Refusal :=
  done s (s.stackRowRemap row uncorrectable)

/-! ### Scrubbing (R368, R369, R371, R373, R401) -/

/-- SCRUB_READ: a corrected error changes no data and is counted against its row; an uncorrectable one in a bulk package
retires its 2 MiB, and in a stack it is STACK_ROW_REMAP's occasion. -/
def State.scrubRead (s : State) (bulk : Bool) (u off : Nat) (found : EccResult) : State :=
  if s.phase ≠ .ready then s
  else if bulk then
    if !(s.pkgList.contains u) ∨ found ≠ .uncorrectable ∨ s.ccx.halted then s
    else
      let frame := bulkAddr u (off / bigPage * bigPage)
      s.moduleRecord Kind.pageRetire (retireKey frame) retireBody fun t => t.retireNow frame
  else if !(s.site u).present ∨ found ≠ .corrected then s
  else
    s.updSite u fun x =>
      { x with corrected := bumpChan x.corrected (chanOf off),
               rowReads := bumpRow x.rowReads (chanOf off) (bankOf off) (rowOf off) }

/-- Physical address of the byte a code was read at. -/
def hitAddr (h : MemHit) : Nat := if h.bulk then bulkAddr h.unit h.offset else stackAddr h.unit h.offset

/-- What the code of a granule showed to a read. The values of an uncorrectable granule are not stated, so the outputs made
from it are unspecified. Log entry 38. -/
def State.readHit (s : State) (outs : List OutRun) (h : MemHit) : State :=
  (if h.found = .uncorrectable then s.scrambleOuts outs else s).scrubRead h.bulk h.unit h.offset h.found

/-- What the codes showed to reads of physical runs. -/
def State.hitsIn (s : State) (runs : List (Nat × Nat)) (outs : List OutRun) (l : List MemHit) : State :=
  (l.filter fun h => runs.any fun r => decide (r.1 ≤ hitAddr h ∧ hitAddr h < r.1 + r.2)).foldl
    (fun t h => t.readHit outs h) s

/-- The pages a context maps, as physical runs. -/
def State.ctxRuns (s : State) (ctx : Nat) : List (Nat × Nat) :=
  ((s.maps.filter fun m => m.ctx == ctx).map fun m => m.pages.map fun p => (p, m.psize)).flatten

/-- What the codes showed to the reads of a command, through its context's mappings. -/
def State.readHits (s : State) (ctx : Nat) (outs : List OutRun) (l : List MemHit) : State :=
  s.hitsIn (s.ctxRuns ctx) outs l

/-- SCRUB_READ (R369). -/
def execScrubRead (bulk : Bool) (unit : Nat) (offset : Nat) (found : EccResult) (s : State) :
    Host.Outcome State Fault Refusal := done s (s.scrubRead bulk unit offset found)

/-! ### REPAIR_QUERY and REPAIR_APPLY (R404 to R406) -/

/-- Live records of a kind whose key begins so. -/
def Store.countKeys (t : Store) (kind : Nat) (pre : List Nat) : Nat :=
  (t.live.filter fun r => r.kind == kind && r.key.take pre.length == pre).length

/-- The reply body of REPAIR_QUERY (Table 11 of 08). -/
def State.repairReply (s : State) (site chan : Nat) : Bytes :=
  let x := s.site site
  let corrected := match x.corrected.find? fun p => p.1 == chan with
    | some p => p.2
    | none => 0
  ((List.range 16).map fun i => leBytes 1 (packFields ((List.range 4).map fun j => (x.spares chan (4 * i + j), 2)))).flatten
    ++ leBytes 4 corrected ++ leBytes 4 (s.store.countKeys Kind.stackRemap [site, chan]) ++
    leBytes 4 (s.store.countKeys Kind.pageRetire [0, site])

/-- REPAIR_QUERY carried out (R404, R406). -/
def carryRepairQuery (s : State) (m : Msg) : Carried :=
  let site := (byteAt m.body 0).toNat
  let chan := (byteAt m.body 1).toNat
  if site ≥ 8 ∨ chan ≥ 32 then refuse s Err.repairInvalid else accept s (s.repairReply site chan)

/-- REPAIR_QUERY (R404). -/
def execRepairQuery (slot : SlotRef) (s : State) : Host.Outcome State Fault Refusal :=
  done s (s.takeRow slot .repairQuery carryRepairQuery)

/-- REPAIR_APPLY carried out (R405, R406, R692). -/
def carryRepairApply (s : State) (m : Msg) : Carried :=
  let b := m.body
  let r : RowRef :=
    { site := (byteAt b 0).toNat, chan := (byteAt b 1).toNat, bank := (byteAt b 2).toNat, row := leAt b 4 4 }
  let fl := (byteAt b 3).toNat
  let left := (s.site r.site).spares r.chan r.bank
  if r.site ≥ 8 ∨ r.chan ≥ 32 ∨ r.bank ≥ 64 ∨ r.row ≥ 32768 ∨ fl > 1 then refuse s Err.repairInvalid
  else if 0 < left then
    match s.ownerRecord Kind.stackRemap (rowKey r) (s.remapBody r) with
    | none => refuse s Err.journalFull
    | some t => accept (t.remapRow r false) (leBytes 1 0 ++ leBytes 1 (left - 1))
  else if fl = 0 then refuse s Err.repairNoSpare
  else
    match s.ownerRecord Kind.pageRetire (retireKey (rowPage r)) retireBody with
    | none => refuse s Err.journalFull
    | some t => accept (t.retireCopied (rowPage r)) (leBytes 1 1 ++ leBytes 1 0)

/-- REPAIR_APPLY (R405). -/
def execRepairApply (slot : SlotRef) (s : State) : Host.Outcome State Fault Refusal :=
  done s (s.takeRow slot .repairApply carryRepairApply)

/-! ### Loop-back (R407 to R409) -/

/-- LOOPBACK carried out: the bursts begin and the message waits (R407, R409, R735). -/
def carryLoopback (s : State) (m : Msg) : Carried :=
  let b := m.body
  let site := (byteAt b 0).toNat
  let mask := (byteAt b 1).toNat
  let cnt := leAt b 4 4
  if mask = 0 ∨ mask > 3 then refuse s Err.loopbackUnavailable
  else if site ≥ 8 ∨ (byteAt b 2).toNat > 2 ∨ cnt = 0 ∨ cnt > 2 ^ 24 then refuse s Err.repairInvalid
  else .wait { s with loop := some { seq := m.seq, site := site, mask := mask } }

/-- LOOPBACK (R407). -/
def execLoopback (slot : SlotRef) (s : State) : Host.Outcome State Fault Refusal :=
  done s (s.takeRow slot .loopback carryLoopback)

/-- The reply of a LOOPBACK: 64 counts for each channel, stopping at 255, zeros for one not selected (R408). -/
def loopReply (mask : Nat) (errors : List Nat) : Bytes :=
  (List.range 128).map fun i => if bitOf mask (i / 64) then BitVec.ofNat 8 (min (errors.getD i 0) 255) else 0

/-- LOOPBACK_DONE: the bursts of both channels have ended, with the errors counted per lane (R408). -/
def State.loopbackDone (s : State) (errors : List Nat) : State :=
  match s.loop with
  | none => s
  | some l =>
    if !s.running then s
    else ({ s with loop := none }).replyWaiting l.seq Err.success (replyBody (loopReply l.mask errors))

/-- LOOPBACK_DONE (R408). -/
def execLoopbackDone (errors : List Nat) (s : State) : Host.Outcome State Fault Refusal := done s (s.loopbackDone errors)

end Sys2Proof.Machine
end

