-- ==== Sys2Proof/Machine/Certs.lean ====
section
/-! DEFINITION. The certificates of admission: X.509 version 3 in DER, and the rules a chain satisfies (12, R595, R596,
R598). The encoding of DER and of X.509 is the standards'. Log entry 53. -/
namespace Sys2Proof.Machine

open Sys2Proof

/-- An element of DER: its tag, its contents, and its whole encoding. -/
structure Der where
  tag  : Byte
  body : Bytes
  raw  : Bytes
  deriving DecidableEq, Repr

/-- Bytes of a header of DER and of the contents it announces, none when the length is not a shortest one of at most two
bytes more. -/
def derLength (b : Bytes) : Option (Nat × Nat) :=
  let n := (byteAt b 1).toNat
  if n < 128 then some (2, n)
  else if n = 0x81 ∧ 128 ≤ (byteAt b 2).toNat then some (3, (byteAt b 2).toNat)
  else if n = 0x82 ∧ 256 ≤ beAt b 2 2 then some (4, beAt b 2 2)
  else none

/-- The first element of a run, and what follows it. -/
def derOne (b : Bytes) : Option (Der × Bytes) :=
  match derLength b with
  | none => none
  | some (h, n) =>
    if b.length < h + n then none
    else some ({ tag := byteAt b 0, body := (b.drop h).take n, raw := b.take (h + n) }, b.drop (h + n))

/-- The elements of a run that is whole elements; `fuel` bounds them. -/
def derAll : Nat → Bytes → Option (List Der)
  | 0, b => if b.isEmpty then some [] else none
  | fuel + 1, b =>
    if b.isEmpty then some []
    else
      match derOne b with
      | none => none
      | some (x, rest) => (derAll fuel rest).map fun xs => x :: xs

/-- The elements inside an element. -/
def Der.parts (x : Der) : Option (List Der) := derAll x.body.length x.body

/-- The elements inside an element, none of a run that is not whole elements. -/
def Der.inside (x : Der) : List Der := x.parts.getD []

/-! Object identifiers, encoded. -/

namespace Oid

def ecPublicKey : Bytes := beBytes 9 0x06072A8648CE3D0201
def sm2Curve : Bytes := beBytes 10 0x06082A811CCF5501822D
def sm2WithSm3 : Bytes := beBytes 10 0x06082A811CCF55018375
def commonName : Bytes := beBytes 5 0x0603550403
def basicConstraints : Bytes := beBytes 5 0x0603551D13

end Oid

/-- What a certificate says, as far as R595 and R598 ask. -/
structure Cert where
  signed  : Bytes                     -- the part that is signed
  v3      : Bool
  sm2     : Bool                      -- an SM2 key on the curve of GB/T 32918, and a signature of SM2 with SM3
  key     : Bytes                     -- x then y
  names   : List Bytes                -- common names of the subject
  ca      : Bool                      -- basic constraints with cA true
  sig     : Bytes                     -- r then s
  deriving DecidableEq, Repr

/-- An integer of DER as 32 bytes. -/
def derInt32 (x : Der) : Bytes := beBytes 32 (beVal x.body % 2 ^ 256)

/-- The common names of a subject. -/
def commonNames (subject : Der) : List Bytes :=
  ((subject.inside.map Der.inside).flatten.map fun a =>
    match a.inside with
    | [o, v] => if o.raw = Oid.commonName then [v.body] else []
    | _ => []).flatten

/-- Basic constraints with cA true among the extensions. -/
def caTrue (ext : Der) : Bool :=
  (ext.inside.map Der.inside).flatten.any fun e =>
    match e.inside with
    | o :: rest =>
      o.raw == Oid.basicConstraints && (rest.getLast?).any fun v =>
        (derAll v.body.length v.body).any fun l => (l.head?).any fun q => (q.inside.head?).any fun c => c.raw == beBytes 3 0x0101FF
    | [] => false

/-- The algorithm of a signature is SM2 with SM3. -/
def isSm2Sm3 (alg : Der) : Bool := (alg.inside.head?).any fun o => o.raw == Oid.sm2WithSm3

/-- An SM2 key: the algorithm names the curve, and the key is an uncompressed point of it. -/
def sm2Key (spki : Der) : Option Bytes :=
  match spki.inside with
  | [alg, k] =>
    let xy := sliceBytes k.body 2 64
    if alg.inside.map Der.raw = [Oid.ecPublicKey, Oid.sm2Curve] ∧ k.tag = 0x03 ∧ k.body.length = 66 ∧
        k.body.take 2 = [0x00, 0x04] ∧ Sm2.onCurve (beAt xy 0 32) (beAt xy 32 32) then some xy
    else none
  | _ => none

/-- The fields of the signed part, with its signature's algorithm and value; none when the parts do not stand as X.509 lays
them out. -/
def certOf (tbs alg sig : Der) : Option Cert :=
  match tbs.parts with
  | some (ver :: serial :: inner :: issuer :: validity :: subject :: spki :: rest) =>
    if ver.tag ≠ 0xA0 ∨ serial.tag ≠ 0x02 ∨ inner.tag ≠ 0x30 ∨ issuer.tag ≠ 0x30 ∨ validity.tag ≠ 0x30 ∨ subject.tag ≠ 0x30 ∨
        spki.tag ≠ 0x30 ∨ alg.raw ≠ inner.raw ∨ sig.tag ≠ 0x03 then none
    else
      let rs := (derAll sig.body.length (sig.body.drop 1)).getD []
      let ints := (rs.head?).elim [] Der.inside
      some { signed := tbs.raw, v3 := ver.body == beBytes 3 0x020102, sm2 := isSm2Sm3 alg && (sm2Key spki).isSome,
             key := (sm2Key spki).getD [], names := commonNames subject, ca := rest.any fun e => e.tag == 0xA3 && caTrue e,
             sig := (ints.map derInt32).flatten }
  | _ => none

/-- One certificate. -/
def parseCert (x : Der) : Option Cert :=
  match x.parts with
  | some [tbs, alg, sig] => if x.tag = 0x30 ∧ tbs.tag = 0x30 ∧ alg.tag = 0x30 then certOf tbs alg sig else none
  | _ => none

/-- The certificates of a run, leaf first; none when it is not whole certificates. -/
def parseChain (b : Bytes) : Option (List Cert) := (derAll b.length b).bind fun l => l.mapM parseCert

/-- The name of a device: "beykai-" and its number in four decimal digits (R595). -/
def deviceName (d : Nat) : Bytes :=
  beBytes 7 0x6265796B61692D ++ [d / 1000 % 10, d / 100 % 10, d / 10 % 10, d % 10].map fun n => BitVec.ofNat 8 (48 + n)

/-- A certificate is signed by a key. -/
def Cert.signedBy (c : Cert) (key : Bytes) : Bool := sm2Verify key c.signed c.sig

/-- A certificate is signed by the key of an installed anchor. -/
def Cert.anchored (c : Cert) (anchors : List Bytes) : Bool :=
  anchors.any fun a => ((parseChain a).bind List.head?).any fun x => c.signedBy x.key

/-- The leaf meets a peer's entry: its common name, and the pinned hash of its key (R595). -/
def Cert.fits (c : Cert) (device : Nat) (pin : Option Bytes) : Bool :=
  c.names == [deviceName device] && pin.all fun h => sm3 (0x04 :: c.key) == h

/-- A chain satisfies R595 under the installed anchors, for a device and a pinned hash. -/
def chainOk (anchors : List Bytes) (chain : Bytes) (device : Nat) (pin : Option Bytes) : Bool :=
  match parseChain chain with
  | some [leaf] => leaf.v3 && leaf.sm2 && leaf.anchored anchors && leaf.fits device pin
  | some [leaf, mid] =>
    leaf.v3 && mid.v3 && leaf.sm2 && mid.sm2 && mid.ca && leaf.signedBy mid.key && mid.anchored anchors &&
      leaf.fits device pin
  | _ => false

/-- The key and the names of a chain's leaf. -/
def leafKey (chain : Bytes) : Bytes := ((parseChain chain).bind List.head?).elim [] Cert.key
def leafName (chain : Bytes) : Bytes := (((parseChain chain).bind List.head?).bind fun c => c.names.head?).getD []

/-- A buffer's certificates parse and are SM2 (R598). -/
def certsOk (der : Bytes) : Bool := (parseChain der).any fun l => !l.isEmpty && l.all Cert.sm2

/-- An own chain's leaf certifies the identity key and names the device (R598). -/
def ownChainOk (der : Bytes) (device : Nat) : Bool :=
  leafKey der == sliceBytes Config.identityKey 0 64 && ((parseChain der).bind List.head?).any fun c => c.names == [deviceName device]

end Sys2Proof.Machine
end

