-- ==== Sys2Proof/Machine/Wire.lean ====
section
/-! DEFINITION. The fabric's links and frames: port geometry, subport counters, paths, the two encapsulations, the Beykai
header and the frames sent (12, R578 to R582, R591 to R594, R604, R605, R611). -/
namespace Sys2Proof.Machine

open Sys2Proof

/-! ### Counters (Table 13 of 12) -/

namespace Ctr

def txFrames : Nat := 0
def txBytes : Nat := 1
def rxFrames : Nat := 2
def rxBytes : Nat := 3
def fecCorrected : Nat := 4
def fecSymbols : Nat := 5
def fecUncorrected : Nat := 6
def rxFcsError : Nat := 7
def rxSizeError : Nat := 8
def rxPause : Nat := 9
def rxNotOurs : Nat := 10
def rxOther : Nat := 11
def rxL3l4Bad : Nat := 12
def rxNdAnswered : Nat := 13
def rxMalformed : Nat := 14
def rxUnadmitted : Nat := 15
def rxFrozenPeer : Nat := 16
def rxAdmitRate : Nat := 17
def rxAdmitTaken : Nat := 18
def rxNoSession : Nat := 19
def rxReplay : Nat := 20
def rxBadTag : Nat := 21
def rxAccepted : Nat := 22
def rxCe : Nat := 23
def txLldp : Nat := 24
def handshakeFail : Nat := 25
def linkDowns : Nat := 26

end Ctr

/-- A subport of a link index. -/
def State.sub (s : State) (l : Nat) : Subport := s.fab.subs.getD l Subport.reset

/-- A subport changed. -/
def State.updSub (s : State) (l : Nat) (f : Subport → Subport) : State :=
  { s with fab := { s.fab with subs := s.fab.subs.modify l f } }

/-- A subport counter raised. -/
def State.count (s : State) (l c n : Nat) : State :=
  s.updSub l fun x => { x with counters := x.counters.modify c (· + n) }

/-! ### Ports (R578, R579) -/

/-- A fabric port. -/
def State.fport (s : State) (p : Nat) : FabPort := s.fab.ports.getD p (FabPort.reset false)

/-- A fabric port changed. -/
def State.updFport (s : State) (p : Nat) (f : FabPort → FabPort) : State :=
  { s with fab := { s.fab with ports := s.fab.ports.modify p f } }

/-- The fabric engine changed. -/
def State.updFab (s : State) (f : Fabric → Fabric) : State := { s with fab := f s.fab }

/-- Subports of a port (R578). -/
def FabPort.subports (f : FabPort) : Nat :=
  match f.mode with
  | 0 => 0
  | 1 => 2 ^ f.breakout
  | _ => 1

/-- MAC rate of a subport in bits per second (Table 1 of 12). -/
def FabPort.macRate (f : FabPort) : Nat :=
  match f.mode with
  | 0 => 0
  | 1 => 1600000000000 / 2 ^ f.breakout
  | _ => 1687000000000

/-- A test word runs a test: ENABLE with a PATTERN and a LOOP that are not reserved (Table 4 of 16). -/
def prbsRuns (w : Word) : Bool :=
  w.getLsbD 31 && decide (bitsOf w.toNat 30 28 < 4) && decide (bitsOf w.toNat 27 26 < 2)

/-- A port under test sends and receives nothing (R737). -/
def FabPort.testing (f : FabPort) : Bool := prbsRuns f.prbs

/-- Link index to port, and to port group (R578, R620). -/
def linkPort (l : Nat) : Nat := l / 8
def linkGroup (l : Nat) : Nat := l / 32

/-- A link index names a subport of its port's mode. -/
def State.linkExists (s : State) (l : Nat) : Bool :=
  let f := s.fport (linkPort l)
  s.hasFabric && s.phase == .ready && f.present && !f.testing && decide (l % 8 < f.subports)

/-- GLOBAL settings as a port group last applied them (R590). -/
def State.globOf (s : State) (l : Nat) : FabGlobal := s.fab.groups.getD (linkGroup l) FabGlobal.reset

/-- MAC address a subport sends from (R582). -/
def State.linkMac (s : State) (l : Nat) : BitVec 48 := s.fab.macBase + 1 + BitVec.ofNat 48 l

/-- A peer's paths: the subports that are up in its mask (R622). -/
def State.paths (s : State) (p : Peer) : List Nat :=
  (List.range 192).filter fun l => p.subports.getLsbD l && (s.sub l).up

/-- The paths on which a frame may be sent to a peer: none once a thermal stop has silenced the ports (R678). -/
def State.sendPaths (s : State) (p : Peer) : List Nat := if s.heat.stopped then [] else s.paths p

/-- The line rate of a peer's paths (R650). -/
def State.line (s : State) (p : Peer) : Nat :=
  (s.paths p).foldl (fun a l => a + (s.fport (linkPort l)).macRate) 0

/-! ### Headers (R591 to R593) -/

/-- The Ethernet header of a frame (Table 7 of 12). -/
def etherHeader (f : FabPort) (dst src : BitVec 48) (etherType : Nat) : Bytes :=
  beBytes 6 dst.toNat ++ beBytes 6 src.toNat ++
    (if f.vlan then beBytes 2 0x8100 ++ beBytes 2 (f.pcp * 8192 + f.vid) else []) ++ beBytes 2 etherType

/-- The 16-bit words of a run, big-endian, an odd last byte padded with zero. -/
def beWords : Bytes → List Nat
  | [] => []
  | [a] => [a.toNat * 256]
  | a :: b :: bs => (a.toNat * 256 + b.toNat) :: beWords bs

/-- The ones' complement sum of words. -/
def onesSum (l : List Nat) : Nat :=
  let t := l.foldl (· + ·) 0
  let u := t % 65536 + t / 65536
  let v := u % 65536 + u / 65536
  v % 65536 + v / 65536

/-- The IPv6 pseudo-header of a UDP datagram. -/
def pseudoHeader (src dst : Bytes) (n : Nat) : Bytes := src ++ dst ++ beBytes 4 n ++ beBytes 4 17

/-- The UDP checksum of a datagram whose checksum field holds zero; a result of zero is sent as all ones. -/
def udpSum (src dst udp : Bytes) : Nat :=
  let c := 0xFFFF - onesSum (beWords (pseudoHeader src dst udp.length ++ udp))
  if c = 0 then 0xFFFF else c

/-- A received UDP datagram's checksum verifies. -/
def udpSumOk (src dst udp : Bytes) : Bool := onesSum (beWords (pseudoHeader src dst udp.length ++ udp)) == 0xFFFF

/-- The IPv6 header (R592). -/
def ipv6Header (g : FabGlobal) (session : Word) (n : Nat) (src dst : Bytes) : Bytes :=
  let cls := g.dscp.toNat % 64 * 4 + 2
  beBytes 4 (6 * 2 ^ 28 + cls * 2 ^ 20 + session.toNat % 2 ^ 20) ++ beBytes 2 n ++ [17] ++
    beBytes 1 g.hopLimit.toNat ++ src ++ dst

/-- The UDP datagram that carries a Beykai run (R592). -/
def udpOf (g : FabGlobal) (session : Word) (src dst body : Bytes) : Bytes :=
  let ports := beBytes 2 (0xC000 + session.toNat % 0x4000) ++ beBytes 2 g.udpPort.toNat ++ beBytes 2 (8 + body.length)
  ports ++ beBytes 2 (udpSum src dst (ports ++ zeros 2 ++ body)) ++ body

/-- The Beykai header (Table 8 of 12). -/
def beykaiHeader (cls flags link len src dst : Nat) (session epoch : Word) (pn : Nat) : Bytes :=
  beBytes 1 1 ++ beBytes 1 cls ++ beBytes 1 flags ++ beBytes 1 link ++ beBytes 2 len ++ beBytes 2 src ++ beBytes 2 dst ++
    zeros 2 ++ beBytes 4 session.toNat ++ beBytes 4 epoch.toNat ++ beBytes 8 pn ++ zeros 4

/-- A frame without its FCS, as a subport sends a Beykai run to a peer (R581, R591, R592, R597). -/
def State.encap (s : State) (l : Nat) (p : Peer) (session : Word) (body : Bytes) : Bytes :=
  let f := s.fport (linkPort l)
  let x := s.sub l
  let g := s.globOf l
  if x.encap && f.mode == 1 then
    let src := beBytes 16 x.ipv6.toNat
    let dst := beBytes 16 p.ipv6.toNat
    let udp := udpOf g session src dst body
    etherHeader f x.nextHop (s.linkMac l) 0x86DD ++ ipv6Header g session udp.length src dst ++ udp
  else
    etherHeader f (if f.mode = 2 then 0xFFFFFFFFFFFF else p.mac) (s.linkMac l) g.etherType.toNat ++ body

/-! ### Sending -/

/-- A frame sent on a link: it is counted with its FCS (Table 13 of 12). -/
def State.sendFrame (s : State) (l : Nat) (bytes : Bytes) : State :=
  ((s.count l Ctr.txFrames 1).count l Ctr.txBytes (bytes.length + 4)).emit (.frame l bytes)

/-- Own device number as the firmware holds it; frames are sent only once it is set. -/
def State.ownDevice (s : State) : Nat := s.fab.glob.device.getD 0

/-- Own device number as a link's port group has applied it (R523, R590). -/
def State.deviceOn (s : State) (l : Nat) : Nat := (s.globOf l).device.getD 0

/-- An admission frame sent to a peer on a link (Tables 8 and 11 of 12). -/
def State.sendAdmission (s : State) (l : Nat) (p : Peer) (session epoch : Word) (payload : Bytes) : State :=
  let h := beykaiHeader 1 0 l payload.length (s.deviceOn l) p.device session epoch 0
  s.sendFrame l (s.encap l p session (h ++ payload))

/-- Key and salt of the sending direction (R602). -/
def Session.txKey (q : Session) : Bytes := sliceBytes q.keys (if q.initiator then 0 else 16) 16
def Session.txSalt (q : Session) : Bytes := sliceBytes q.keys (if q.initiator then 32 else 35) 3

/-- The keys of an epoch, and the role they were derived in (R602, R608). -/
def Session.keysAt (q : Session) (e : Word) : Bytes × Bool :=
  if e = q.epoch then (q.keys, q.initiator) else (q.prevKeys, q.prevInit)

/-- Key and salt of the receiving direction in an epoch (R602). -/
def Session.rxKey (q : Session) (e : Word) : Bytes := sliceBytes (q.keysAt e).1 (if (q.keysAt e).2 then 16 else 0) 16
def Session.rxSalt (q : Session) (e : Word) : Bytes := sliceBytes (q.keysAt e).1 (if (q.keysAt e).2 then 35 else 32) 3

/-- Packets sent on a link in the epoch in force. -/
def Session.sentOn (q : Session) (l : Nat) : Nat :=
  match q.pn.find? fun x => x.1 == l with
  | some x => x.2
  | none => 0

/-- The nonce of a protected frame (R604). -/
def frameNonce (salt : Bytes) (link pn : Nat) : Bytes := salt ++ beBytes 1 link ++ beBytes 8 pn

/-- The bytes of a protected frame of a session on a link: header, ciphertext and tag (R593, R604, R605, R625). -/
def State.protectedRun (s : State) (l : Nat) (p : Peer) (q : Session) (flags : Nat) (plain : Bytes) : Bytes :=
  let pn := q.sentOn l + 1
  let h := beykaiHeader 2 flags l (plain.length + 16) (s.deviceOn l) p.device q.id q.epoch pn
  h ++ sm4GcmSeal q.txKey (frameNonce q.txSalt l pn) h plain

/-- The characters of a string. -/
def ascii (t : String) : Bytes := t.toList.map fun c => BitVec.ofNat 8 c.toNat

/-- A number in decimal digits, at least `n` of them, at most four. -/
def digits (n v : Nat) : Bytes :=
  ([v / 1000 % 10, v / 100 % 10, v / 10 % 10, v % 10].drop
    (min (4 - n) (if v < 10 then 3 else if v < 100 then 2 else if v < 1000 then 1 else 0))).map fun d => BitVec.ofNat 8 (48 + d)

/-- An element of LLDP: type and length, then its value. -/
def lldpTlv (kind : Nat) (value : Bytes) : Bytes := beBytes 2 (kind * 512 + value.length) ++ value

/-- The LLDP frame of a subport without its FCS: chassis ID FAB_MAC_BASE, port ID "Fp.s", TTL 120 s and the system name
(R611), padded to the least frame. The subtypes and the untagged header are log entry 54's. -/
def State.lldpFrame (s : State) (l : Nat) : Bytes :=
  let b := beBytes 6 0x0180C200000E ++ beBytes 6 (s.linkMac l).toNat ++ beBytes 2 0x88CC ++
    lldpTlv 1 (beBytes 1 4 ++ beBytes 6 s.fab.macBase.toNat) ++
    lldpTlv 2 (beBytes 1 7 ++ ascii "F" ++ digits 1 (linkPort l) ++ ascii "." ++ digits 1 (l % 8)) ++
    lldpTlv 3 (beBytes 2 120) ++ lldpTlv 5 (ascii "OB-W9128-F device " ++ digits 4 (s.deviceOn l)) ++ lldpTlv 0 []
  b ++ zeros (60 - b.length)

/-- LLDP sent from a subport (R611); nothing is sent after a thermal stop (R678). -/
def State.sendLldp (s : State) (l : Nat) : State :=
  if s.heat.stopped then s else (s.sendFrame l (s.lldpFrame l)).count l Ctr.txLldp 1

/-- A neighbour advertisement sent, unsolicited or solicited: 32 bytes of ICMPv6 with the link-layer address (R611); nothing
is sent after a thermal stop (R678). -/
def State.sendAdvert (s : State) (l : Nat) (solicited : Bool) : State :=
  let n := 14 + (if (s.fport (linkPort l)).vlan then 4 else 0) + 40 + 32
  if s.heat.stopped then s
  else
    ((s.count l Ctr.txFrames 1).count l Ctr.txBytes (n + 4)).emit (.advertisement l solicited)

end Sys2Proof.Machine
end

