-- ==== Sys2Proof/Machine/Peers.lean ====
section
/-! DEFINITION. Peers: entries, sessions and their ends, freezes, the handshakes, FABRIC_ADMIT and PEER_THAW (12, R595 to
R608; 13, R620, R643, R647, R652 to R657). -/
namespace Sys2Proof.Machine

open Sys2Proof

/-! ### Entries -/

/-- The entry of a device. -/
def State.peer? (s : State) (d : Nat) : Option Peer := s.fab.peers.find? fun p => p.device == d

/-- An entry changed. -/
def State.updPeer (s : State) (d : Nat) (f : Peer → Peer) : State :=
  s.updFab fun x => { x with peers := x.peers.map fun p => if p.device = d then f p else p }

/-- A session changed. -/
def State.updSession (s : State) (d : Nat) (f : Session → Session) : State :=
  s.updPeer d fun p => { p with session := p.session.map f }

/-- The session that is up with a device. -/
def State.session? (s : State) (d : Nat) : Option Session := (s.peer? d).bind fun p => p.session

/-- A REMOVE_PEER of the device waits. -/
def State.leaving (s : State) (d : Nat) : Bool := s.fab.removing.any fun r => r.2.1 == d

/-- A device holds a peer entry (R617). -/
def State.admitted (s : State) (d : Nat) : Bool := (s.peer? d).isSome && !s.leaving d

/-! ### Requests that fail (R24, R647, R656) -/

/-- The part of a DONE_ADDR that waits for every item of its command (R633). -/
def wholeCommand : Nat := 65536

/-- Two requests serve one item of one command. -/
def Req.mate (a b : Req) : Bool := a.ctx == b.ctx && a.index == b.index && a.epoch == b.epoch && a.part == b.part

/-- A DONE_ADDR request that waits for another's item. -/
def Req.awaits (a b : Req) : Bool :=
  a.after && a.ctx == b.ctx && a.index == b.index && a.epoch == b.epoch &&
    (a.part == b.part || a.part == wholeCommand)

/-- A DONE_ADDR request waits for the item of some request of a list. -/
def Req.awaitsOne (a : Req) (l : List Req) : Bool := l.any fun b => !b.after && a.awaits b

/-- Bytes a request moves. -/
def Req.bytes (r : Req) : Nat := if r.kind = 3 then r.aux.toNat else r.data.length

/-- Every request of the module: of the peers, and those acknowledged in sessions that have ended (R656). -/
def State.allReqs (s : State) : List Req := (s.fab.peers.map Peer.reqs).flatten ++ s.fab.past

/-- Bytes of a request's item acknowledged (Table 10 of 13). -/
def State.ackedBytes (s : State) (r : Req) : Nat :=
  (s.allReqs.filter fun x => x.acked && !x.after && x.mate r).foldl (fun a x => a + x.bytes) 0

/-- Fabric fault detail (Table 10 of 13). -/
def fabDetail (code status : Code) (device item addr acked : Nat) : Bytes :=
  leBytes 2 code.toNat ++ leBytes 2 status.toNat ++ leBytes 2 device ++ leBytes 2 item ++ leBytes 8 addr ++
    leBytes 8 acked ++ zeros 8

/-- The begun command a request belongs to. -/
def State.reqCmd? (s : State) (r : Req) : Option Begun :=
  if r.epoch ≠ s.ctxEpoch r.ctx then none
  else (s.ctx? r.ctx).bind fun c => c.begun.find? fun b => b.index == r.index

/-- Some requests of an entry changed or dropped. -/
def Peer.onReqs (p : Peer) (f : List Req → List Req) : Peer :=
  { p with waiting := f p.waiting, session := p.session.map fun q => { q with reqs := f q.reqs } }

/-- What is left of a list of requests when the item of one has faulted: the unsent ones of the item and the DONE_ADDR
that awaits it are never sent, and the sent ones move nothing more. -/
def killItem (r : Req) (l : List Req) : List Req :=
  (l.filter fun x => !(x.awaits r) && !(x.mate r && x.sent == 0)).map fun x =>
    if x.mate r then { x with dead := true } else x

/-- A request of a ring step: SEQ_READ or SEQ_RELEASE (R624). -/
def Req.ofRing (r : Req) : Bool := r.kind == 5 || r.kind == 6

/-- ADDR of a request's record; a ring request has none (Table 2 of 13), and keeps its device there. -/
def Req.wireAddr (r : Req) : Nat := if r.ofRing then 0 else r.addr

/-- The code of a request's fault: a refused ring request faults its item with RING_INVALID, a lost one with RING_PEER_LOST
(R301, R303, R647, R657). -/
def Req.faultCode (r : Req) (code : Code) : Code :=
  if !r.ofRing then code else if code = Err.hallRefused then Err.ringInvalid else Err.ringPeerLost

/-- The physical runs that the item of a ring request writes (R303). -/
def Begun.ringOuts (b : Begun) (r : Req) : List OutRun :=
  if r.ofRing then ((b.ring.filter fun x => x.part == r.part).map fun x => x.outs).flatten else []

/-- Where a request writes in the issuing context: a read's range, or the place of an earlier value. -/
def Req.localRun (r : Req) : Nat × Nat :=
  if r.kind = 3 then (r.localVa, r.aux.toNat) else if r.kind = 4 ∧ r.localVa ≠ 0 then (r.localVa, 8) else (0, 0)

/-- A request fails: its item is faulted, and the item's outputs are unspecified (R24, R656). -/
def State.reqFault (s : State) (d : Nat) (r : Req) (acked : Nat) (code status : Code) : State :=
  let mates := r :: s.allReqs.filter fun x => x.mate r
  let s1 := s.updFab fun x => { x with peers := x.peers.map fun p => p.onReqs (killItem r) }
  match s.reqCmd? r with
  | none => s1
  | some b =>
    let s2 := (mates.foldl (fun t x => t.scrambleVa x.ctx x.localRun.1 x.localRun.2) s1).scrambleOuts (b.ringOuts r)
    s2.itemFaultAt r.ctx b.build r.item
      { code := r.faultCode code, cmdCtx := r.ctx, cmdIndex := r.index, opcode := b.opcode,
        detail := fabDetail (r.faultCode code) status d r.item r.wireAddr acked } b.policy

/-- One request of each item of a list, in order. -/
def firstMates : List Req → List Req
  | [] => []
  | r :: rs => r :: (firstMates rs).filter fun x => !x.mate r

/-- The requests of a list that fault an item of their own: not a DONE_ADDR request that awaits another of the list, which
is never sent (R225, R633). -/
def ownFaults (l : List Req) : List Req := firstMates (l.filter fun r => !(r.awaitsOne l))

/-- A list of requests fails with a code. -/
def State.failReqs (s : State) (d : Nat) (l : List Req) (code : Code) : State :=
  ((ownFaults l).map fun r => (r, s.ackedBytes r)).foldl (fun t x => t.reqFault d x.1 x.2 code 0) s

/-! ### The end of a session (R43, R599, R603, R639, R647) -/

/-- Whether the pieces of a read from a position reach its end; `fuel` bounds the pieces. -/
def readsTo (got : List (Nat × Nat)) (n : Nat) : Nat → Nat → Bool
  | 0, pos => decide (n ≤ pos)
  | fuel + 1, pos =>
    if n ≤ pos then true
    else
      match got.find? fun g => decide (g.1 ≤ pos ∧ pos < g.1 + g.2) with
      | none => false
      | some g => readsTo got n fuel (g.1 + g.2)

/-- Bytes a request asks a peer for (R627, R629). -/
def Req.asked (r : Req) : Nat := if r.kind = 3 then r.aux.toNat else if r.kind = 5 then r.want else 0

/-- A request has nothing more to come: it is acknowledged, and what it reads has all arrived (R627, R633). -/
def Req.finished (r : Req) : Bool := r.acked && readsTo r.got r.asked r.got.length 0

/-- A peer's walk (R270, R629). -/
def Walk.ofPeer (d : Nat) : Walk → Bool
  | .local _ _ _ => false
  | .peer _ k _ => k == d

/-- The acknowledged requests of commands still begun: their bytes count for a later fault of their items (R656). -/
def State.keepPast (s : State) (l : List Req) : State :=
  s.updFab fun x => { x with past := x.past ++ l.filter fun r => r.finished && !r.dead && (s.reqCmd? r).isSome }

/-- A session ends: its counts and its unperformed requests go, the peer's walks are unpinned, and each request without
its outcome faults its item (R303, R647). A rekey ends with it (R607). -/
def State.endSession (s : State) (d : Nat) : State :=
  match s.session? d with
  | none => s
  | some q =>
    let lost := q.reqs.filter fun r => !r.dead && !r.finished
    let accounted := (ownFaults lost).map fun r => (r, s.ackedBytes r)
    let s1 := ((s.keepPast q.reqs).updPeer d fun p =>
      { p with session := none, hs := p.hs.filter fun h => !h.rekey }).dropWalks (Walk.ofPeer d)
    accounted.foldl (fun t x => t.reqFault d x.1 x.2 Err.hallSessionLost 0) s1

/-- The requests that wait for a session fault with HALL_NO_SESSION (R653). -/
def State.failWaiting (s : State) (d : Nat) : State :=
  match s.peer? d with
  | none => s
  | some p => (s.failReqs d p.waiting Err.hallNoSession).updPeer d fun p => { p with waiting := [] }

/-- A peer frozen: its session ends at once, and what it sent is dropped (R652, R653). -/
def State.freezePeer (s : State) (d : Nat) (code : Code) : State :=
  ((s.endSession d).updPeer d fun p => { p with frozen := some code, hs := none, admitIn := [], admitOut := [] }).failWaiting d

/-! ### Handshakes (R601 to R603, R606, R607) -/

/-- An admission payload (Table 11 of 12). -/
def admitPayload (sub : Nat) (chain nonce eph confirm : Bytes) : Bytes :=
  beBytes 1 sub ++ zeros 1 ++ beBytes 2 chain.length ++ zeros 4 ++ sliceBytes nonce 0 32 ++ sliceBytes eph 0 64 ++
    sliceBytes confirm 0 32 ++ chain

/-- SUBTYPE of an admission payload. -/
def admitSub (b : Bytes) : Nat := (byteAt b 0).toNat

/-- An admission payload keeps Table 11 of 12. -/
def admitOk (b : Bytes) : Bool :=
  let sub := admitSub b
  let n := beAt b 2 2
  decide (1 ≤ sub ∧ sub ≤ 4) && byteAt b 1 == 0 && zeroRange b 4 8 && decide (n ≤ 4096) && b.length == 136 + n &&
    (if sub = 3 then n == 0 && zeroRange b 40 104 else true) && (if sub = 1 ∨ sub = 4 then zeroRange b 104 136 else true)

/-- One of the links given, freely chosen: the manual leaves the rotation open (R622; log entry 4). -/
def State.pickLink (s : State) (l : List Nat) : Option Nat × State :=
  if l.isEmpty then (none, s)
  else
    let (i, t) := s.choose l.length
    (l[i]?, t)

/-- The epoch of an admission frame: that of the session for a rekey, else 1. -/
def State.admitEpoch (s : State) (d : Nat) (rekey : Bool) : Word :=
  if rekey then
    match s.session? d with
    | some q => q.epoch
    | none => 1
  else 1

/-- The admission frame that waits longest goes out on a path of the peer, where one is up (R622). -/
def State.flushAdmit (s : State) (d : Nat) : State :=
  match s.peer? d with
  | none => s
  | some p =>
    match p.admitOut with
    | [] => s
    | a :: rest =>
      let (l, s1) := s.pickLink (s.sendPaths p)
      match l with
      | none => s
      | some l =>
        (s1.sendAdmission l p a.session a.epoch a.payload).updPeer d fun p =>
          { p with admitOut := rest, hs := p.hs.map fun h => { h with link := some l } }

/-- An admission frame of the open handshake sent on a path of the peer; while no path is up it waits, once (R622). -/
def State.sendAdmit (s : State) (d : Nat) (payload : Bytes) : State :=
  match (s.peer? d).bind fun p => p.hs with
  | none => s
  | some h =>
    let a : AdmitOut := { session := h.id, epoch := s.admitEpoch d h.rekey, payload := payload }
    (s.updPeer d fun p =>
      { p with admitOut := if p.admitOut.contains a then p.admitOut else p.admitOut ++ [a] }).flushAdmit d

/-- A random non-zero SESSION. -/
def freeSession (k : Nat) : Word := if Config.freeWord k = 0 then 1 else Config.freeWord k

/-- A handshake begun as initiator (Table 10 of 12, step 1; R606). -/
def State.startHandshake (s : State) (d : Nat) (rekey : Bool) : State :=
  let id := if rekey then (s.session? d).elim 0 (fun q => q.id) else freeSession s.free
  let nonce := Config.freeBytes (s.free + 1) 32
  let eph := Config.freeBytes (s.free + 2) 64
  let h : Handshake :=
    { id := id, rekey := rekey, initiator := true, tries := 1, nonce := nonce, eph := eph, keys := [], link := none,
      chain := [], sent := admitPayload (if rekey then 4 else 1) s.fab.ownChain nonce eph (zeros 32),
      anchors := s.fab.anchors.map fun a => a.2 }
  (({ s with free := s.free + 3 } : State).updPeer d fun p => { p with hs := some h }).sendAdmit d h.sent

/-- A session opened when none is up or opening (R601). -/
def State.openTo (s : State) (d : Nat) : State :=
  match s.peer? d with
  | none => s
  | some p =>
    if !s.running || p.frozen.isSome || p.session.isSome || p.hs.isSome || s.leaving d then s
    else s.startHandshake d false

/-- A rekey opened when none is open (R606, R607). -/
def State.openRekey (s : State) (d : Nat) : State :=
  match s.peer? d with
  | none => s
  | some p => if !s.running || p.session.isNone || p.hs.isSome then s else s.startHandshake d true

/-- Credits of a whole module's sessions outstanding (R643). -/
def State.creditsOut (s : State) : Nat :=
  s.fab.peers.foldl (fun a p => a + p.session.elim 0 fun q => (q.issued - q.returned).toNat) 0

/-- The ingress buffer, and the limit of one session, in credits (R643). -/
def bufferCredits : Nat := 393216
def sessionCredits : Nat := 32768

/-- A new session: every count at zero, up to 256 credits granted at once, r a quarter of the line (R635, R640, R643, R650). -/
def newSession (h : Handshake) (keys chain : Bytes) (link line grant : Nat) (reqs : List Req) : Session :=
  { id := h.id, epoch := 1, initiator := h.initiator, keys := keys, chain := chain, prevOk := false,
    home := linkGroup link, pn := [], windows := [], nextTsn := 1, reqs := reqs, consumed := 0, seen := 0, srtt := 0,
    rttvar := 0, samples := [], rate := (line : Rat) / 4, alpha := 1, quiet := 0, eceIn := false, ceNote := false,
    retx := 0, cum := 0, beyond := [], returned := 0, issued := BitVec.ofNat 32 grant, faCache := [], refused := 0, inbox := [],
    toSend := [] }

/-- Keys installed: an epoch change of the session (R606, R608, R646), or a new session in place of any that stood
(R601, R603). -/
def State.install (s : State) (d link : Nat) (h : Handshake) (keys chain : Bytes) : State :=
  if h.rekey then
    (s.updSession d fun q =>
      { q with epoch := q.epoch + 1, initiator := h.initiator, keys := keys, chain := chain, prevOk := true,
               prevKeys := q.keys, prevInit := q.initiator, pn := [],
               windows := q.windows.filter fun w => w.epoch == q.epoch }).updPeer d fun p => { p with hs := none }
  else
    let s1 := s.endSession d
    match s1.peer? d with
    | none => s1
    | some p =>
      let grant := min 256 (bufferCredits - s1.creditsOut)
      s1.updPeer d fun x =>
        { x with session := some (newSession h keys chain link (s1.line p) grant p.waiting), waiting := [], hs := none }

/-- The next admission frame of a peer, when it is of a SUBTYPE and of a session and the firmware runs. -/
def State.takeAdmit (s : State) (d sub : Nat) (id : Word) : Option (AdmitIn × Peer × State) :=
  if !s.running then none
  else
    match s.peer? d with
    | none => none
    | some p =>
      match p.admitIn with
      | [] => none
      | a :: rest =>
        if admitSub a.payload = sub ∧ a.session = id then some (a, p, s.updPeer d fun x => { x with admitIn := rest }) else none

/-- An admission frame that failed (Table 13 of 12, HANDSHAKE_FAIL). -/
def State.admitFailed (s : State) (link : Nat) : State := s.count link Ctr.handshakeFail 1

/-- One side of the key exchange: its name, identity key, ephemeral point and nonce (R601). -/
def exchangeSide (name key eph nonce : Bytes) : Bytes := name ++ key ++ eph ++ nonce

/-- This module's side: the name is that of its own chain's leaf. -/
def ownSide (chain eph nonce : Bytes) : Bytes := exchangeSide (leafName chain) (sliceBytes Config.identityKey 0 64) eph nonce

/-- NONCE, EPH and CHAIN of an admission payload. -/
def admitNonce (b : Bytes) : Bytes := sliceBytes b 8 32
def admitEph (b : Bytes) : Bytes := sliceBytes b 40 64
def admitChain (b : Bytes) : Bytes := b.drop 136

/-- The peer's side, by an admission payload that carries its chain. -/
def peerSide (b : Bytes) : Bytes :=
  exchangeSide (leafName (admitChain b)) (leafKey (admitChain b)) (admitEph b) (admitNonce b)

/-- The 38 bytes of R602, and the confirmation value of a REPLY (2) or a CONFIRM (3), of the initiator's side and the
responder's (R601). -/
def exchangeKeys (i r : Bytes) : Bytes := sliceBytes (Config.sessionKeys (i ++ r)) 0 38
def confirmOf (code : Nat) (i r : Bytes) : Bytes := sliceBytes (Config.confirmValue code (i ++ r)) 0 32

/-- CONFIRM of an admission payload. -/
def admitConfirm (b : Bytes) : Bytes := sliceBytes b 104 32

/-- A HELLO or REKEY_HELLO answered with a REPLY (Table 10 of 12, step 2). -/
def State.answer (s : State) (d : Nat) (a : AdmitIn) (rekey : Bool) : State :=
  let nonce := Config.freeBytes s.free 32
  let eph := Config.freeBytes (s.free + 1) 64
  let i := peerSide a.payload
  let r := ownSide s.fab.ownChain eph nonce
  let h : Handshake :=
    { id := a.session, rekey := rekey, initiator := false, tries := 0, nonce := nonce, eph := eph, keys := exchangeKeys i r,
      link := some a.link, chain := admitChain a.payload,
      sent := admitPayload 2 s.fab.ownChain nonce eph (confirmOf 2 i r), heard := a.payload, expect := confirmOf 3 i r }
  (({ s with free := s.free + 2 } : State).updPeer d fun p => { p with hs := some h }).sendAdmit d h.sent

/-- Crossing handshakes: own device number is lower, so the own one proceeds (R603, R607). -/
def State.ownProceeds (s : State) (p : Peer) (rekey : Bool) : Bool :=
  (p.hs.any fun h => h.initiator && h.rekey == rekey) && decide (s.ownDevice < p.device)

/-- A HELLO sent again, which is answered with the REPLY that it had. -/
def Peer.heardAgain (p : Peer) (a : AdmitIn) : Option Handshake :=
  p.hs.filter fun h => !h.initiator && h.id == a.session && h.heard == a.payload

/-- A peer's chain satisfies R595 for its entry, under the anchors given. -/
def Peer.chainOk (p : Peer) (anchors : List Bytes) (b : Bytes) : Bool := Machine.chainOk anchors (admitChain b) p.device p.pin

/-- The anchors installed (R597). -/
def State.anchorList (s : State) : List Bytes := s.fab.anchors.map fun a => a.2

/-- A HELLO or REKEY_HELLO taken: checked under R595 and answered, unless the own one proceeds (R601, R603, R607). -/
def State.greet (s : State) (d : Nat) (a : AdmitIn) (p : Peer) (rekey : Bool) : State :=
  if !p.chainOk s.anchorList a.payload then s.admitFailed a.link
  else if s.ownProceeds p rekey then s
  else
    match p.heardAgain a with
    | some h => s.sendAdmit d h.sent
    | none => s.answer d a rekey

/-- HELLO: checked under R595 and answered, unless the own HELLO proceeds (R601, R603). -/
def State.hello (s : State) (d : Nat) (id : Word) : State :=
  match s.takeAdmit d 1 id with
  | none => s
  | some (a, p, s1) => s1.greet d a p false

/-- HELLO (R601). -/
def execHello (device : Nat) (session : Word) (s : State) : Host.Outcome State Fault Refusal := done s (s.hello device session)

/-- REKEY_HELLO: a rekey under the same session (R606, R607). -/
def State.rekeyHello (s : State) (d : Nat) (id : Word) : State :=
  match s.takeAdmit d 4 id with
  | none => s
  | some (a, p, s1) => if (p.session.map fun q => q.id) ≠ some a.session then s1 else s1.greet d a p true

/-- REKEY_HELLO (R606). -/
def execRekeyHello (device : Nat) (session : Word) (s : State) : Host.Outcome State Fault Refusal :=
  done s (s.rekeyHello device session)

/-- REPLY: checked, CONFIRM sent and the keys installed (Table 10 of 12, step 3); a rekey that fails its check ends the
session at once (R607). -/
def State.gotReply (s : State) (d : Nat) (id : Word) : State :=
  match s.takeAdmit d 2 id with
  | none => s
  | some (a, p, s1) =>
    match p.hs with
    | none => s1
    | some h =>
      let i := ownSide (admitChain h.sent) h.eph h.nonce
      let r := peerSide a.payload
      if !h.initiator ∨ h.id ≠ a.session then s1
      else if p.chainOk h.anchors a.payload = true ∧ admitConfirm a.payload = confirmOf 2 i r then
        (s1.sendAdmit d (admitPayload 3 [] h.nonce (zeros 64) (confirmOf 3 i r))).install d a.link h (exchangeKeys i r)
          (admitChain a.payload)
      else
        let s2 := s1.admitFailed a.link
        if h.rekey then s2.endSession d else s2

/-- REPLY (R601). -/
def execReply (device : Nat) (session : Word) (s : State) : Host.Outcome State Fault Refusal := done s (s.gotReply device session)

/-- An open handshake fails: a rekey ends its session (R607), and what waits for a session that does not open faults
(R653). -/
def State.handshakeFails (s : State) (d : Nat) (h : Handshake) : State :=
  if h.rekey then s.endSession d else (s.updPeer d fun p => { p with hs := none }).failWaiting d

/-- CONFIRM: checked, and the keys installed (Table 10 of 12, step 4). -/
def State.gotConfirm (s : State) (d : Nat) (id : Word) : State :=
  match s.takeAdmit d 3 id with
  | none => s
  | some (a, p, s1) =>
    match p.hs with
    | none => s1
    | some h =>
      if h.initiator ∨ h.id ≠ a.session then s1
      else if admitConfirm a.payload = h.expect then s1.install d a.link h h.keys h.chain
      else (s1.admitFailed a.link).handshakeFails d h

/-- CONFIRM (R601). -/
def execConfirm (device : Nat) (session : Word) (s : State) : Host.Outcome State Fault Refusal :=
  done s (s.gotConfirm device session)

/-- HANDSHAKE_RETRY_TIMER: an unanswered HELLO or REKEY_HELLO sent again, or failed after the tenth try (Table 10 of 12,
R607). A responder whose CONFIRM does not come gives up as late; log entry 57. -/
def State.handshakeRetry (s : State) (d : Nat) : State :=
  match (s.peer? d).bind fun p => p.hs with
  | none => s
  | some h =>
    let s1 := s.updPeer d fun p => { p with hs := some { h with tries := h.tries + 1 } }
    if !s.running then s
    else if h.tries < 10 then (if h.initiator then s1.sendAdmit d h.sent else s1)
    else
      (match h.link with
        | some l => s.admitFailed l
        | none => s).handshakeFails d h

/-- HANDSHAKE_RETRY_TIMER (R607). -/
def execHandshakeRetryTimer (device : Nat) (s : State) : Host.Outcome State Fault Refusal :=
  done s (s.handshakeRetry device)

/-- EPOCH_GRACE_EXPIRE: frames of the previous epoch are accepted no more (R608). -/
def execEpochGraceExpire (device : Nat) (s : State) : Host.Outcome State Fault Refusal :=
  done s (s.updSession device fun q =>
    { q with prevOk := false, windows := q.windows.filter fun w => w.epoch == q.epoch })

/-- SESSION_TIMEOUT: 100 ms without an acknowledgement or an accepted frame (R639). -/
def execSessionTimeout (device : Nat) (s : State) : Host.Outcome State Fault Refusal := done s (s.endSession device)

/-! ### FABRIC_ADMIT (R597 to R600) -/

/-- Table 9 of 12: `anchor` for the anchor operations, `peer` for the peer operations, `add` for ADD_PEER, `buffer` where
certificates are given. -/
def State.admitBodyOk (s : State) (b : Bytes) (anchor peer add buffer : Bool) : Bool :=
  let fl := (byteAt b 2).toNat
  let dev := leAt b 4 2
  let len := leAt b 24 4
  (if anchor then decide ((byteAt b 1).toNat < 8) else byteAt b 1 == 0) && (if add then decide (fl < 4) else fl == 0) &&
    (if peer then decide (dev < 4096) && s.fab.glob.device != some dev else dev == 0) &&
    (if buffer then decide (1 ≤ len ∧ len ≤ 4096) else len == 0) && (bitOf fl 0 || zeroRange b 32 64)

/-- The certificates of a body's buffer (R598). -/
def State.admitBuffer (s : State) (b : Bytes) : Option Bytes :=
  if !vaOk (leAt b 16 8) then none
  else
    match s.vread (leAt b 8 4) (leAt b 16 8) (leAt b 24 4) with
    | .ok bs => some bs
    | .error _ => none

/-- The slot of an anchor operation. -/
def anchorSlot (b : Bytes) : Nat := (byteAt b 1).toNat

/-- ADD_ANCHOR carried out (R597, R598). -/
def carryAddAnchor (s : State) (m : Msg) : Carried :=
  let b := m.body
  if !s.admitBodyOk b true false false true then refuse s Err.admitInvalid
  else
    match s.admitBuffer b with
    | none => refuse s Err.admitInvalid
    | some der =>
      if !certsOk der then refuse s Err.certInvalid
      else
        match s.ownerRecord Kind.trustAnchor [anchorSlot b] der with
        | none => refuse s Err.journalFull
        | some t =>
          accept (t.updFab fun x =>
            { x with anchors := (anchorSlot b, der) :: x.anchors.filter fun a => a.1 != anchorSlot b }) []

/-- FABRIC_ADMIT ADD_ANCHOR (R597). -/
def execFabricAdmitAddAnchor (slot : SlotRef) (s : State) : Host.Outcome State Fault Refusal :=
  done s (s.takeRow slot .addAnchor carryAddAnchor)

/-- REMOVE_ANCHOR carried out (R598, R600). -/
def carryRemoveAnchor (s : State) (m : Msg) : Carried :=
  let b := m.body
  if !s.admitBodyOk b true false false false ∨ !(s.fab.anchors.any fun a => a.1 == anchorSlot b) then
    refuse s Err.admitInvalid
  else
    match s.ownerRecord Kind.trustAnchor [anchorSlot b] [] with
    | none => refuse s Err.journalFull
    | some t => accept (t.updFab fun x => { x with anchors := x.anchors.filter fun a => a.1 != anchorSlot b }) []

/-- FABRIC_ADMIT REMOVE_ANCHOR (R600). -/
def execFabricAdmitRemoveAnchor (slot : SlotRef) (s : State) : Host.Outcome State Fault Refusal :=
  done s (s.takeRow slot .removeAnchor carryRemoveAnchor)

/-- SET_OWN_CHAIN carried out (R598, R600); with no DEVICE set no leaf names it. -/
def carrySetOwnChain (s : State) (m : Msg) : Carried :=
  let b := m.body
  if !s.admitBodyOk b false false false true then refuse s Err.admitInvalid
  else
    match s.admitBuffer b with
    | none => refuse s Err.admitInvalid
    | some der =>
      if !certsOk der || !(s.fab.glob.device.any fun d => ownChainOk der d) then
        refuse s Err.certInvalid
      else
        match s.ownerRecord Kind.ownChain [] der with
        | none => refuse s Err.journalFull
        | some t => accept (t.updFab fun x => { x with ownChain := der }) []

/-- FABRIC_ADMIT SET_OWN_CHAIN (R598). -/
def execFabricAdmitSetOwnChain (slot : SlotRef) (s : State) : Host.Outcome State Fault Refusal :=
  done s (s.takeRow slot .setOwnChain carrySetOwnChain)

/-- The entry of an ADD_PEER body. -/
def peerOf (b : Bytes) : Peer :=
  { device := leAt b 4 2, pin := if (byteAt b 2).getLsbD 0 then some (sliceBytes b 32 32) else none,
    mac := BitVec.ofNat 48 (beAt b 64 6), ipv6 := BitVec.ofNat 128 (beAt b 72 16),
    subports := BitVec.ofNat 192 (leAt b 88 24), frozen := none, session := none, waiting := [], hs := none,
    admitIn := [] }

/-- A mask names a subport for which the entry gives no address (R598). -/
def State.addressMissing (s : State) (p : Peer) : Bool :=
  (List.range 192).any fun l =>
    let f := s.fport (linkPort l)
    p.subports.getLsbD l && f.mode == 1 && decide (l % 8 < f.subports) &&
      (if (s.sub l).encap then p.ipv6 == 0 else p.mac == 0)

/-- A session that stands still meets R595 under an entry. -/
def State.stillAdmitted (s : State) (p : Peer) (q : Session) : Bool :=
  Machine.chainOk s.anchorList q.chain p.device p.pin

/-- An entry placed or replaced (R599): its session, freeze and handshake stay with the device. -/
def State.putPeer (s : State) (p : Peer) : State :=
  match s.peer? p.device with
  | none => s.updFab fun x => { x with peers := x.peers ++ [p] }
  | some _ =>
    s.updPeer p.device fun x => { x with pin := p.pin, mac := p.mac, ipv6 := p.ipv6, subports := p.subports }

/-- ADD_PEER carried out (R598, R599, R601). -/
def carryAddPeer (s : State) (m : Msg) : Carried :=
  let b := m.body
  let p := peerOf b
  if !s.admitBodyOk b false true true false ∨ s.addressMissing p then refuse s Err.admitInvalid
  else
    match s.ownerRecord Kind.peer [p.device] (sliceBytes b 2 110) with
    | none => refuse s Err.journalFull
    | some t =>
      let s1 := t.putPeer p
      let s2 := match s1.session? p.device with
        | some q => if s1.stillAdmitted p q then s1 else s1.endSession p.device
        | none => s1
      accept (if (byteAt b 2).getLsbD 1 then s2.openTo p.device else s2) []

/-- FABRIC_ADMIT ADD_PEER (R599). -/
def execFabricAdmitAddPeer (slot : SlotRef) (s : State) : Host.Outcome State Fault Refusal :=
  done s (s.takeRow slot .addPeer carryAddPeer)

/-- REMOVE_PEER carried out: the session ends, and the reply waits for the port groups (R599). -/
def carryRemovePeer (s : State) (m : Msg) : Carried :=
  let b := m.body
  let d := leAt b 4 2
  if !s.admitBodyOk b false true false false ∨ !s.admitted d then refuse s Err.admitInvalid
  else
    match s.ownerRecord Kind.peer [d] [] with
    | none => refuse s Err.journalFull
    | some t =>
      let s1 := ((t.endSession d).updPeer d fun p => { p with hs := none, admitIn := [], admitOut := [] }).failWaiting d
      .wait (s1.updFab fun x => { x with removing := x.removing ++ [(m.seq, d, List.range 6)] })

/-- FABRIC_ADMIT REMOVE_PEER (R599). -/
def execFabricAdmitRemovePeer (slot : SlotRef) (s : State) : Host.Outcome State Fault Refusal :=
  done s (s.takeRow slot .removePeer carryRemovePeer)

/-- REKEY carried out (R598, R606, R607). -/
def carryRekey (s : State) (m : Msg) : Carried :=
  let b := m.body
  let d := leAt b 4 2
  if !s.admitBodyOk b false true false false ∨ (s.session? d).isNone then refuse s Err.admitInvalid
  else accept (s.openRekey d) []

/-- FABRIC_ADMIT REKEY (R606). -/
def execFabricAdmitRekey (slot : SlotRef) (s : State) : Host.Outcome State Fault Refusal :=
  done s (s.takeRow slot .rekey carryRekey)

/-! ### PEER_THAW (R654) -/

/-- PEER_THAW carried out (R654). -/
def carryPeerThaw (s : State) (m : Msg) : Carried :=
  let d := leAt m.body 0 2
  if (s.peer? d).any fun p => p.frozen.isSome then accept (s.updPeer d fun p => { p with frozen := none }) []
  else refuse s Err.peerThawInvalid

/-- PEER_THAW (R654). -/
def execPeerThaw (slot : SlotRef) (s : State) : Host.Outcome State Fault Refusal :=
  done s (s.takeRow slot .peerThaw carryPeerThaw)

/-- STATE of a peer status entry (Table 9 of 13). -/
def Peer.state (p : Peer) : Nat :=
  if p.frozen.isSome then 5
  else
    match p.session, p.hs with
    | some _, some h => if h.rekey then 4 else 3
    | some _, none => 3
    | none, some _ => 2
    | none, none => 1

/-- A peer status entry (Table 9 of 13). -/
def State.peerEntry (s : State) (d : Nat) : Bytes :=
  match s.peer? d with
  | none => zeros 16
  | some p =>
    let q := p.session
    leBytes 1 p.state ++ leBytes 1 (s.paths p).length ++ leBytes 2 ((p.frozen.getD 0).toNat) ++
      leBytes 4 (q.elim 0 fun q => q.id.toNat) ++ leBytes 4 (q.elim 0 fun q => q.epoch.toNat) ++
      leBytes 2 (q.elim 0 fun q => (q.rate / 1000000000).floor.toNat) ++ leBytes 2 (q.elim 0 fun q => min q.retx 0xFFFF)

end Sys2Proof.Machine
end

