-- ==== Sys2Proof/Machine/Sem.lean ====
section
/-! DEFINITION. Semaphores and STATS (09, R451 to R455, R473 to R480). -/
namespace Sys2Proof.Machine

open Sys2Proof

/-- Largest count a signal may leave (R475). -/
def semMax : Nat := 2 ^ 63 - 1

/-- The count at a physical address (R473). -/
def State.semCount (s : State) (a : Nat) : Nat := leVal (s.loadBytes a 8)

/-- The count set. -/
def State.setSem (s : State) (a v : Nat) : State := s.storeBytes a (leBytes 8 v)

/-- One waiter examined: when the count meets its VALUE the count falls by it, PEEK apart, and its SEM_WAIT completes
(R477, R478). -/
def State.examine (s : State) (w : Waiter) : State :=
  let v := s.semCount w.addr
  if v < w.value then s
  else
    let s1 := if w.peek then s else s.setSem w.addr (v - w.value)
    let s2 := { s1 with waiters := s1.waiters.filter fun x => !(x.ctx == w.ctx && x.index == w.index) }
    match (s2.ctx? w.ctx).bind fun c => c.begun.find? fun b => b.index == w.index with
    | none => s2
    | some b => (s2.complete w.ctx w.index b.record b.irq).settle

/-- The waiters on one count examined in the order in which they began (R478). -/
def State.recheckAt (s : State) (a : Nat) : State :=
  (s.waiters.filter fun w => w.addr == a).foldl State.examine s

/-- A signal of `v` performed on a count; none when it would carry it above 2^63 - 1 (R474, R475). -/
def State.signal (s : State) (a v : Nat) : Option State :=
  if s.semCount a + v > semMax then none else some ((s.setSem a (s.semCount a + v)).recheckAt a)

/-- Reserved parts of a semaphore descriptor: bytes 33 to 35 and 40 to 127. -/
def semReservedOk (d : Bytes) : Bool := zeroRange d 33 36 && zeroRange d 40 128

/-- Where a semaphore access goes: invalid when misaligned or unmapped (R480), a fault on a read-only page (R358). -/
def State.semAddr (s : State) (n va : Nat) (write : Bool) : Except Code Nat :=
  if va % 8 ≠ 0 ∨ !vaOk va then .error Err.semInvalid
  else
    match s.accessFault n va 8 write with
    | none => .ok (s.physOf n va)
    | some (code, _) => .error (if code = Err.addrNotMapped then Err.semInvalid else code)

/-- NOTIFY_CTX names the issuing context or the owner of an item of its last STEP_BUILD (R476). -/
def Ctx.notifyOk (c : Ctx) (n : Nat) : Bool :=
  n == c.num || (c.step && match c.build with
    | some items => items.any fun b => b.ctx == n
    | none => false)

/-- SEM_SIGNAL begun, both with INIT and without (R474 to R476, R480). -/
def semSignalBody (s : State) (c : Ctx) (k : Cmd) : State :=
  let d := k.desc
  let v := leAt d 24 8
  let fl := (byteAt d 32).toNat
  let init := bitOf fl 0
  let notify := bitOf fl 1
  let nctx := leAt d 36 4
  if fl > 3 ∨ !semReservedOk d ∨ (if init then v > semMax else v = 0 ∨ v ≥ 2 ^ 32) ∨ (notify ∧ !c.notifyOk nctx) then
    s.invalid k Err.semInvalid
  else
    match s.semAddr k.ctx (leAt d 16 8) true with
    | .error e => s.invalid k e
    | .ok a =>
      let r := if init then some ((s.setSem a v).recheckAt a) else s.signal a v
      match r with
      | none => (s.beginBegun k k.begun).invalid k Err.semOverflow
      | some s1 =>
        let s2 := s1.beginDone k
        if notify then s2.sendCtxVector nctx else s2

/-- SEM_SIGNAL descriptors without INIT. -/
def isSignal (d : Bytes) : Bool := isOpcode 11 d && !(byteAt d 32).getLsbD 0

/-- SEM_SIGNAL descriptors with INIT. -/
def isSignalInit (d : Bytes) : Bool := isOpcode 11 d && (byteAt d 32).getLsbD 0

/-- SEM_SIGNAL: adds VALUE to the count (R474). -/
def execSemSignal (ctx : Nat) (s : State) : Host.Outcome State Fault Refusal :=
  done s (s.runCmd ctx isSignal semSignalBody)

/-- SEM_SIGNAL with INIT: sets the count (R474, R39). -/
def execSemSignalInit (ctx : Nat) (s : State) : Host.Outcome State Fault Refusal :=
  done s (s.runCmd ctx isSignalInit semSignalBody)

/-- SEM_WAIT begun: satisfied at once or waiting (R477, R480). -/
def semWaitBody (s : State) (_ : Ctx) (k : Cmd) : State :=
  let d := k.desc
  let v := leAt d 24 8
  let fl := (byteAt d 32).toNat
  let tmo := leAt d 36 4
  if fl > 1 ∨ !semReservedOk d ∨ v = 0 ∨ v ≥ 2 ^ 32 ∨ tmo > 10000000 then s.invalid k Err.semInvalid
  else
    match s.semAddr k.ctx (leAt d 16 8) (!bitOf fl 0) with
    | .error e => s.invalid k e
    | .ok a =>
      let n := s.semCount a
      if n ≥ v then (if bitOf fl 0 then s else s.setSem a (n - v)).beginDone k
      else
        let s1 := s.beginBegun k { k.begun with waiting := true }
        { s1 with waiters := s1.waiters ++
            [{ ctx := k.ctx, index := k.index, addr := a, value := v, peek := bitOf fl 0, timeout := tmo }] }

/-- SEM_WAIT (R477). -/
def execSemWait (ctx : Nat) (s : State) : Host.Outcome State Fault Refusal :=
  done s (s.runCmd ctx (isOpcode 12) semWaitBody)

/-- Every waiter examined, in the order in which they began waiting (R478). -/
def State.recheck (s : State) : State := s.waiters.foldl State.examine s

/-- The re-examination of at least every 100 us (R478). -/
def execSemWaitRecheck (s : State) : Host.Outcome State Fault Refusal :=
  done s (if s.phase = .ready then s.recheck else s)

/-- The timeout of a context's SEM_WAIT (R479): its context is faulted and the count unchanged. -/
def State.semTimeout (s : State) (n : Nat) : State :=
  if !s.running then s
  else
    match s.waiters.find? fun w => w.ctx == n && w.timeout != 0 with
    | none => s
    | some w =>
      match (s.ctx? n).bind fun c => c.begun.find? fun b => b.index == w.index with
      | none => s
      | some b =>
        s.commandFault n b.build { code := Err.semTimeout, cmdCtx := n, cmdIndex := w.index, opcode := 12 } b.policy

/-- A SEM_WAIT's TIMEOUT_US has passed (R479). -/
def execSemTimeout (ctx : Nat) (s : State) : Host.Outcome State Fault Refusal := done s (s.semTimeout ctx)

/-- The places STATS writes, with their bytes (R454). -/
def statsWrites (s : State) (c : Ctx) (d : Bytes) : List (Nat × Bytes) :=
  let out := leAt d 16 8
  let what := (byteAt d 24).toNat
  let first : Word := BitVec.ofNat 32 (leAt d 28 4)
  (if bitOf what 0 then [(out, s.statusRecord c)] else []) ++
    if bitOf what 1 then
      (List.range (leAt d 32 2)).map fun j => (out + 128 + 128 * j, c.recordBytes (first + BitVec.ofNat 32 j))
    else []

/-- STATS begun (R454). -/
def statsBody (s : State) (c : Ctx) (k : Cmd) : State :=
  let d := k.desc
  let out := leAt d 16 8
  if out % 64 ≠ 0 ∨ !vaOk out ∨ (byteAt d 24).toNat > 3 ∨ !zeroRange d 25 28 ∨ leAt d 32 2 > 64 ∨ !zeroRange d 34 128
  then s.invalid k Err.statsInvalid
  else
    let ws := statsWrites s (((s.advance k).ctx? k.ctx).getD c) d
    match ws.findSome? fun w => s.accessFault k.ctx w.1 w.2.length true with
    | some (code, _) => s.invalid k code
    | none => (ws.foldl (fun t w => t.vstore k.ctx w.1 w.2) s).beginDone k

/-- STATS: writes the status record and kept command records (R454). -/
def execStats (ctx : Nat) (s : State) : Host.Outcome State Fault Refusal :=
  done s (s.runCmd ctx (isOpcode 14) statsBody)

end Sys2Proof.Machine
end

