-- ==== Sys2Proof/Machine/Hall.lean ====
section
/-! DEFINITION. The hall memory space: hall addresses, FABRIC_PUT and FABRIC_GET, records, the responder, the requester,
acknowledgement, credits and rate control (13). -/
namespace Sys2Proof.Machine

open Sys2Proof

/-! ### Hall addresses (R615 to R617) -/

/-- DEVICE, WINDOW and OFFSET of a hall address (Table 1 of 13). -/
def hallDevice (a : Nat) : Nat := bitsOf a 63 52
def hallWindow (a : Nat) : Nat := bitsOf a 51 48
def hallOffset (a : Nat) : Nat := bitsOf a 47 0

/-- A hall address a requester may use for an access of `n` bytes (R617). -/
def State.hallOk (s : State) (a n : Nat) (fetchAdd : Bool) : Bool :=
  s.admitted (hallDevice a) && s.fab.glob.device != some (hallDevice a) && decide (hallOffset a + n ≤ 2 ^ 48) &&
    (!fetchAdd || hallOffset a % 8 == 0)

/-! ### Records (R623, R624) -/

/-! Record types (Table 3 of 13). -/

namespace Rec

def write : Nat := 0x01
def push : Nat := 0x02
def read : Nat := 0x03
def fetchAdd : Nat := 0x04
def seqRead : Nat := 0x05
def seqRelease : Nat := 0x06
def readData : Nat := 0x11
def faResult : Nat := 0x12
def status : Nat := 0x13
def ack : Nat := 0x14
def credit : Nat := 0x15

end Rec

/-- A request's type. -/
def isRequest (k : Nat) : Bool := decide (1 ≤ k ∧ k ≤ 6)

/-- Credits a request costs (R624). -/
def recCost (len : Nat) : Nat := cdiv (32 + len) 256

/-- A record's bytes (Table 2 of 13). -/
def InRec.bytes (r : InRec) : Bytes :=
  leBytes 1 r.kind ++ leBytes 1 (bit r.ordered) ++ leBytes 2 r.status.toNat ++ leBytes 4 r.data.length ++
    leBytes 4 r.tsn.toNat ++ leBytes 4 r.aux.toNat ++ leBytes 8 r.addr ++ leBytes 4 r.ld ++ zeros 4 ++ r.data

/-- A request as a record. -/
def Req.record (r : Req) : InRec :=
  { kind := r.kind, ordered := r.ordered, status := 0, tsn := r.tsn, aux := r.aux, addr := r.wireAddr, ld := r.ld,
    data := r.data, dup := false }

/-- LEN and AUX of a record keep Tables 2 to 4 of 13. -/
def recShapeOk (kind len : Nat) (aux : Nat) (data : Bytes) : Bool :=
  match kind with
  | 0x01 => decide (1 ≤ len ∧ len ≤ 8160) && aux == 0
  | 0x02 => decide (1 ≤ len ∧ len ≤ 8160) && aux / 65536 * (aux % 65536) == len
  | 0x03 => len == 0 && decide (1 ≤ aux ∧ aux ≤ 65536)
  | 0x04 => len == 8 && aux == 0
  | 0x05 => len == 24 && aux == 0
  | 0x06 => len == 8 && aux == 0 && zeroRange data 4 8
  | 0x11 => true
  | 0x12 => len == 8 && aux == 0
  | 0x13 => len == 0 && aux == 0
  | 0x14 => len == 8 && aux == 0
  | 0x15 => len == 0
  | _ => false

/-- A record's header keeps Table 2 of 13, its shape apart. -/
def recHeaderOk (b : Bytes) : Bool :=
  let kind := (byteAt b 0).toNat
  decide ((byteAt b 1).toNat ≤ bit (isRequest kind)) && (kind == Rec.status || leAt b 2 2 == 0) &&
    (kind != Rec.credit || leAt b 8 4 == 0) && (decide (1 ≤ kind ∧ kind ≤ 4) || leAt b 16 8 == 0) &&
    (kind == Rec.push || leAt b 24 4 == 0) && zeroRange b 28 32

/-- The records of a plaintext, none when it is not whole records that keep the tables; `fuel` bounds the records. -/
def parseRecords : Nat → Bytes → Option (List InRec)
  | 0, b => if b.isEmpty then some [] else none
  | fuel + 1, b =>
    if b.isEmpty then some []
    else
      let len := leAt b 4 4
      let data := sliceBytes b 32 len
      if b.length < 32 + len ∨ !recHeaderOk b ∨ !recShapeOk (byteAt b 0).toNat len (leAt b 12 4) data then none
      else
        let r : InRec :=
          { kind := (byteAt b 0).toNat, ordered := byteAt b 1 == 1, status := BitVec.ofNat 16 (leAt b 2 2),
            tsn := BitVec.ofNat 32 (leAt b 8 4), aux := BitVec.ofNat 32 (leAt b 12 4), addr := leAt b 16 8,
            ld := leAt b 24 4, data := data, dup := false }
        (parseRecords fuel (b.drop (32 + len))).map fun rs => r :: rs

/-! ### Serial arithmetic (R635, R640) -/

/-- `a` is at or below `b` modulo 2^32. -/
def serialLe (a b : Word) : Bool := decide ((b - a).toNat < 2 ^ 31)

/-- How far `a` stands above `b` modulo 2^32, 0 when it does not. -/
def serialAbove (a b : Word) : Nat := if serialLe a b then 0 else (a - b).toNat

/-! ### Issuing requests -/

/-- The GLOBAL settings in force where a peer's requests and responses are made: those of the session's home group, or as
last accepted while no session is up (R523, R620). -/
def State.homeGlob (s : State) (d : Nat) : FabGlobal :=
  match s.session? d with
  | some q => s.fab.groups.getD q.home FabGlobal.reset
  | none => s.fab.glob

/-- MAX_PAYLOAD toward a peer. -/
def State.payloadTo (s : State) (d : Nat) : Nat := (s.homeGlob d).maxPayload

/-- A request of a command's item, not yet sent. -/
def Cmd.req (k : Cmd) (s : State) (kind : Nat) (ordered : Bool) (item part addr : Nat) (data : Bytes) : Req :=
  { tsn := 0, kind := kind, ordered := ordered, aux := 0, addr := addr, ld := 0, data := data,
    cost := recCost data.length, sent := 0, lastLink := 0, acked := false, got := [], ctx := k.ctx, index := k.index,
    epoch := s.ctxEpoch k.ctx, item := item, part := part, localVa := 0, after := false, dead := false }

/-- Requests handed to the fabric engine: to the session that is up, or to one that opens (R601, R653). -/
def State.issue (s : State) (d : Nat) (rs : List Req) : State :=
  match s.peer? d with
  | none => s
  | some p =>
    if rs.any fun r => r.epoch != s.ctxEpoch r.ctx then s
    else if p.frozen.isSome then s.failReqs d rs Err.hallNoSession
    else
      match p.session with
      | some _ => s.updSession d fun q => { q with reqs := q.reqs ++ rs }
      | none => (s.updPeer d fun p => { p with waiting := p.waiting ++ rs }).openTo d

/-- A list of requests goes to a frozen peer. -/
def State.toFrozen (s : State) : List Req → Bool
  | [] => false
  | r :: _ => (s.peer? (hallDevice r.addr)).any fun p => p.frozen.isSome

/-- Requests of several items issued, each to its device; a DONE_ADDR request that awaits one to a frozen peer, whose item
faults at once, is never sent (R225, R633, R653). -/
def State.issueAll (s : State) (rs : List (List Req)) : State :=
  let failed := (rs.filter s.toFrozen).flatten
  (rs.map fun l => l.filter fun r => !(r.awaitsOne failed)).foldl (fun t l =>
    match l with
    | [] => t
    | r :: _ => t.issue (hallDevice r.addr) l) s

/-! ### FABRIC_PUT and FABRIC_GET (R631 to R634) -/

/-- Table 5 of 13; the addresses of the list and of DONE_ADDR included. -/
def State.fabricOk (s : State) (d : Bytes) (get : Bool) : Bool :=
  let cnt := leAt d 24 2
  let done := leAt d 32 8
  leAt d 16 8 % 32 == 0 && vaOk (leAt d 16 8) && decide (1 ≤ cnt ∧ cnt ≤ 256) &&
    decide ((byteAt d 26).toNat ≤ (if get then 0 else 1)) && decide ((byteAt d 27).toNat ≤ 1) && zeroRange d 28 32 &&
    zeroRange d 40 128 && (done == 0 || (!get && s.hallOk done 8 true))

/-- What a fabric item is (Table 6 of 13). -/
structure FabItem where
  part   : Nat
  va     : Nat
  remote : Nat
  len    : Nat
  item   : Nat
  code   : Option Code
  itemOk : Bool
  deriving DecidableEq, Repr

/-- A fabric item judged when its command begins (R617, R634, R467, R357, R358). -/
def State.judgeFab (s : State) (c : Ctx) (kind : Nat) (i : Nat) (b : Bytes) : FabItem :=
  let va := leAt b 0 8
  let remote := leAt b 8 8
  let len := leAt b 16 8
  let item := leAt b 24 2
  let fa := kind == Rec.fetchAdd
  let n := if fa then 8 else len
  let rangeBad := !zeroRange b 26 32 || !c.itemOk item || !vaOk va ||
    (if fa then va % 8 != 0 else !decide (1 ≤ len ∧ len ≤ 2 ^ 32))
  let code :=
    if rangeBad then some Err.fabricRange
    else if !s.hallOk remote n fa then some Err.hallAddrInvalid
    else if fa && va == 0 then none
    else (s.accessFault c.num va n (kind != Rec.write)).map fun f => f.1
  { part := i, va := va, remote := remote, len := len, item := item, code := code, itemOk := c.itemOk item }

/-- The requests of an item (R632); none for an item of a stopped context (R448). -/
def State.itemReqs (s : State) (k : Cmd) (kind : Nat) (ordered : Bool) (f : FabItem) : List Req :=
  let piece := if kind = Rec.write then s.payloadTo (hallDevice f.remote) - 32 else 65536
  if kind = Rec.fetchAdd then [{ k.req s kind ordered f.item f.part f.remote (leBytes 8 f.len) with localVa := f.va }]
  else
    (List.range (cdiv f.len piece)).map fun j =>
      let o := j * piece
      let n := min piece (f.len - o)
      if kind = Rec.write then
        { k.req s kind ordered f.item f.part (f.remote + o)
            ((List.range n).map fun i => s.loadByte (s.physOf k.ctx (f.va + o + i))) with localVa := f.va + o }
      else
        { k.req s kind ordered f.item f.part (f.remote + o) [] with localVa := f.va + o, aux := BitVec.ofNat 32 n }

/-- The physical runs an item writes. -/
def State.fabOuts (s : State) (c : Ctx) (kind : Nat) (f : FabItem) : List OutRun :=
  if f.code.isSome ∨ kind = Rec.write ∨ (kind = Rec.fetchAdd ∧ f.va = 0) then []
  else
    let n := if kind = Rec.fetchAdd then 8 else f.len
    (s.physRuns c.num (n / smallPage + 2) f.va n).map fun q =>
      { owner := c.itemOwner f.item, addr := q.1, length := q.2 }

/-- The fault of an item that does not run (R634, R467). -/
def State.fabFault (s : State) (k : Cmd) (f : FabItem) : State :=
  match f.code with
  | none => s
  | some code =>
    let i := { k.fault code with detail := fabDetail code 0 (hallDevice f.remote) f.item f.remote 0 }
    if f.itemOk then s.itemFaultAt k.ctx k.build f.item i k.policy else s.commandFault k.ctx k.build i k.policy

/-- The fetch-and-add to DONE_ADDR (R633). -/
def Cmd.doneReq (k : Cmd) (s : State) (ordered : Bool) (addr item part : Nat) : Req :=
  { k.req s Rec.fetchAdd ordered item part addr (leBytes 8 1) with after := true }

/-- FABRIC_PUT and FABRIC_GET begun. -/
def fabricBody (get : Bool) (s : State) (c : Ctx) (k : Cmd) : State :=
  let d := k.desc
  if !s.hasFabric then s.invalid k Err.fabNotPresent
  else if !s.fabricOk d get then s.invalid k Err.fabricRange
  else
    let kind := if get then Rec.read else if byteAt d 26 = 1 then Rec.fetchAdd else Rec.write
    let ordered := (byteAt d 27).getLsbD 0
    let cnt := leAt d 24 2
    match s.vread k.ctx (leAt d 16 8) (32 * cnt) with
    | .error f => s.invalid k f.1
    | .ok raw =>
      let items := (List.range cnt).map fun i => s.judgeFab c kind i (sliceBytes raw (32 * i) 32)
      let run := items.filter fun f => f.code.isNone && !(c.itemOwner f.item != c.num && s.stopped (c.itemOwner f.item))
      let b := { k.begun with outs := (items.map (s.fabOuts c kind)).flatten,
                              record := { k.record with shares := rowShares c (run.map fun f => (f.item, 1)) } }
      let last :=
        if leAt d 32 8 = 0 ∨ run.length ≠ cnt then []
        else [[k.doneReq s ordered (leAt d 32 8) noItem wholeCommand]]
      let s1 := (s.beginBegun k b).issueAll (run.map (s.itemReqs k kind ordered) ++ last)
      items.foldl (fun t f => t.fabFault k f) s1

/-- FABRIC_PUT descriptors of one OP; WRITE's row takes the reserved ones. -/
def isPut (fa : Bool) (d : Bytes) : Bool := isOpcode 8 d && (byteAt d 26 == 1) == fa

/-- FABRIC_PUT WRITE (R632). -/
def execFabricPutWrite (ctx : Nat) (s : State) : Host.Outcome State Fault Refusal :=
  done s (s.runCmd ctx (isPut false) (fabricBody false))

/-- FABRIC_PUT FETCH_ADD (R631). -/
def execFabricPutFetchAdd (ctx : Nat) (s : State) : Host.Outcome State Fault Refusal :=
  done s (s.runCmd ctx (isPut true) (fabricBody false))

/-- FABRIC_GET (R632). -/
def execFabricGet (ctx : Nat) (s : State) : Host.Outcome State Fault Refusal :=
  done s (s.runCmd ctx (isOpcode 9) (fabricBody true))

/-- A request serves an item of another context that has been torn down or halted since (R448). -/
def State.ownerStopped (s : State) (r : Req) : Bool :=
  match s.reqCmd? r with
  | none => false
  | some b => (findItem b.build r.item).any fun x => x.ctx != r.ctx && s.stopped x.ctx

/-- A request that is not issued any more: unsent when the owner of its item stopped (R448). -/
def State.barred (s : State) (r : Req) : Bool := r.sent == 0 && s.ownerStopped r

/-- A request that is never sent: one barred, or a DONE_ADDR request that awaits one (R633). -/
def State.neverSent (s : State) (r : Req) : Bool :=
  s.barred r || s.allReqs.any fun x => !x.after && r.awaits x && s.barred x

/-- Every request of a command has its outcome, or is never sent (R633, R376, R448). -/
def State.fabricDone (s : State) (n : Nat) (i : Word) : Bool :=
  s.allReqs.all fun r =>
    !(r.ctx == n && r.index == i && r.epoch == s.ctxEpoch n) || r.dead || r.finished || s.neverSent r

/-- A request of a command that has its outcome, or was never sent, and to which no response is to come: a FETCH_ADD that
gives LOCAL stands until its FA_RESULT (R628). -/
def Req.settled (r : Req) (n : Nat) (i e : Word) : Bool :=
  r.ctx == n && r.index == i && r.epoch == e && (r.finished || r.sent == 0) &&
    !(r.kind == Rec.fetchAdd && r.localVa != 0 && r.got.isEmpty && r.sent != 0 && !r.dead)

/-- The requests of a command that has completed are forgotten; those of a context torn down since stand, so that what
comes for them is counted (R648). -/
def State.endReqs (s : State) (n : Nat) (i : Word) : State :=
  let left := List.filter fun r => !Req.settled r n i (s.ctxEpoch n)
  s.updFab fun x => { x with peers := x.peers.map fun p => p.onReqs left, past := left x.past }

/-! ### The responder (R619, R626 to R630, R642) -/

/-- Where a peer's request goes: the context of its window, or why it is refused (R616, R617, R619). -/
def State.hallTarget (s : State) (d a n : Nat) (fetchAdd : Bool) : Except Code (Nat × Nat) :=
  if (s.homeGlob d).device ≠ some (hallDevice a) ∨ hallOffset a + n > 2 ^ 48 ∨ (fetchAdd ∧ hallOffset a % 8 ≠ 0) then
    .error Err.hallAddrInvalid
  else
    match s.liveCtx? (hallWindow a) with
    | none => .error Err.hallNoWindow
    | some c => .ok (c.num, hallOffset a)

/-- CUM carried over the TSNs performed or refused above it; `fuel` bounds them. -/
def cumUpTo : Nat → Word → List Word → Word × List Word
  | 0, c, l => (c, l)
  | fuel + 1, c, l => if l.contains (c + 1) then cumUpTo fuel (c + 1) (l.filter fun t => t != c + 1) else (c, l)

/-- A session holds the most credits of all. -/
def State.holdsMost (s : State) (q : Session) : Bool :=
  s.fab.peers.all fun p => p.session.all fun x => decide ((x.issued - x.returned).toNat ≤ (q.issued - q.returned).toNat)

/-- Returned credits are withheld from a session (R643). -/
def State.withholds (s : State) (q : Session) : Bool := decide (bufferCredits * 3 < s.creditsOut * 4) && s.holdsMost q

/-- The hall ranges a request touches. -/
def InRec.spans (r : InRec) : List (Nat × Nat) :=
  match r.kind with
  | 0x01 => [(r.addr, r.data.length)]
  | 0x02 =>
    let w := r.aux.toNat % 65536
    (List.range (r.aux.toNat / 65536)).map fun i => (r.addr + i * r.ld, w)
  | 0x03 => [(r.addr, r.aux.toNat)]
  | 0x04 => [(r.addr, 8)]
  | _ => []

/-- The order of two unordered requests matters where they touch one byte: one of them writes, and they are not two
additions, whose sum is the same in either order (R630). Log entry 56. -/
def InRec.clash (a b : InRec) : Bool :=
  !a.ordered && !b.ordered && !b.dup && (a.kind != 3 || b.kind != 3) && (a.kind != 4 || b.kind != 4)

/-- A request that waits while another is performed. -/
def InRec.meet (r x : InRec) : InRec := if r.clash x then { x with mixed := x.mixed ++ r.spans } else x

/-- What two runs share, as a run. -/
def sharedRun (a b : Nat × Nat) : Nat × Nat :=
  let lo := max a.1 b.1
  (lo, min (a.1 + a.2) (b.1 + b.2) - lo)

/-- The bytes that a request and the unordered ones performed while it waited all touch become unspecified (R630). -/
def State.blur (s : State) (ctx : Nat) (r : InRec) : State :=
  r.spans.foldl (fun t a => r.mixed.foldl (fun u b =>
    let x := sharedRun a b
    if x.2 = 0 then u else u.scrambleVa ctx (hallOffset x.1) x.2) t) s

/-- The bytes a request reads, those it shares with unordered ones performed while it waited unspecified (R630). -/
def InRec.blurData (r : InRec) (k : Nat) (b : Bytes) : Bytes :=
  if r.mixed.isEmpty then b
  else b.mapIdx fun i v => if r.mixed.any fun o => decide (o.1 ≤ r.addr + i ∧ r.addr + i < o.1 + o.2) then Config.freeByte (k + i) else v

/-- Free values taken for them. -/
def State.takeBlur (s : State) (r : InRec) (n : Nat) : State := if r.mixed.isEmpty then s else { s with free := s.free + n }

/-- The first copy of a request performed or refused: RETURNED rises by its cost, the credits are granted again, CUM
moves, and sixteen refusals in a row freeze the peer (R636, R642, R643, R652). -/
def State.performed (s : State) (d : Nat) (r : InRec) (refused : Bool) : State :=
  match s.session? d with
  | none => s
  | some q =>
    if r.dup then s
    else
      let cost : Word := BitVec.ofNat 32 (recCost r.data.length)
      let again := if s.withholds q then 0 else cost
      let (cum, beyond) := cumUpTo (q.beyond.length + 1) q.cum (q.beyond ++ [r.tsn])
      let n := if refused then q.refused + 1 else 0
      let s1 := s.updSession d fun q =>
        { q with returned := q.returned + cost, issued := q.issued + again, cum := cum, beyond := beyond, refused := n,
                 inbox := if refused then q.inbox else q.inbox.map r.meet }
      if n ≥ 16 then s1.freezePeer d Err.peerFrozenRefusals else s1

/-- Responses put in line for a peer. -/
def State.respond (s : State) (d : Nat) (rs : List InRec) : State :=
  s.updSession d fun q => { q with toSend := q.toSend ++ rs }

/-- A response without ADDR. -/
def response (kind : Nat) (status : Code) (tsn aux : Word) (data : Bytes) : InRec :=
  { kind := kind, ordered := false, status := status, tsn := tsn, aux := aux, addr := 0, ld := 0, data := data,
    dup := false }

/-- A request refused with a STATUS record (R630). -/
def State.refuseReq (s : State) (d : Nat) (r : InRec) (code : Code) : State :=
  (s.respond d [response Rec.status code r.tsn 0 []]).performed d r true

/-- READ_DATA records for a read's bytes (R627). -/
def State.readData (s : State) (d : Nat) (tsn : Word) (bs : Bytes) : List InRec :=
  let piece := s.payloadTo d - 32
  (List.range (cdiv bs.length piece)).map fun j =>
    response Rec.readData 0 tsn (BitVec.ofNat 32 (j * piece)) (sliceBytes bs (j * piece) (min piece (bs.length - j * piece)))

/-- A request of the peer's session taken from those received: of a type, with a TSN; an ORDERED one only once every
lower TSN is performed or refused (R630). -/
def State.takeReq (s : State) (d kind : Nat) (tsn : Word) : Option (InRec × State) :=
  if s.phase ≠ .ready then none
  else
    match s.session? d with
    | none => none
    | some q =>
      match q.inbox.find? fun r => r.kind == kind && r.tsn == tsn with
      | none => none
      | some r =>
        if r.ordered && !r.dup && q.cum + 1 != tsn then none
        else some (r, s.updSession d fun q => { q with inbox := q.inbox.erase r })

/-- WRITE performed (R626, R637). -/
def State.doWrite (s : State) (d : Nat) (tsn : Word) : State :=
  match s.takeReq d Rec.write tsn with
  | none => s
  | some (r, s1) =>
    if r.dup then s1
    else
      match s.hallTarget d r.addr r.data.length false with
      | .error e => s1.refuseReq d r e
      | .ok (c, va) =>
        match s1.vwrite c va r.data with
        | .error f => s1.refuseReq d r f.1
        | .ok t => (t.blur c r).performed d r false

/-- WRITE_RECORD (R626). -/
def execWriteRecord (device : Nat) (tsn : Word) (s : State) : Host.Outcome State Fault Refusal :=
  done s (s.doWrite device tsn)

/-- The rows of a PUSH: distance from ADDR and bytes of each (R626). -/
def pushRows (r : InRec) : List (Nat × Bytes) :=
  let w := r.aux.toNat % 65536
  (List.range (r.aux.toNat / 65536)).map fun i => (i * r.ld, sliceBytes r.data (i * w) w)

/-- The first row of a PUSH to a hall address that may not be stored. -/
def State.pushFault (s : State) (d a : Nat) (rows : List (Nat × Bytes)) : Option Code :=
  rows.findSome? fun x =>
    match s.hallTarget d a (x.1 + x.2.length) false with
    | .error e => some e
    | .ok (c, va) => (s.accessFault c (va + x.1) x.2.length true).map fun f => f.1

/-- PUSH performed row by row (R626, R637). -/
def State.doPush (s : State) (d : Nat) (tsn : Word) : State :=
  match s.takeReq d Rec.push tsn with
  | none => s
  | some (r, s1) =>
    if r.dup then s1
    else
      match s.pushFault d r.addr (pushRows r) with
      | some e => s1.refuseReq d r e
      | none =>
        (((pushRows r).foldl (fun t x => t.vstore (hallWindow r.addr) (hallOffset r.addr + x.1) x.2) s1).blur
          (hallWindow r.addr) r).performed d r false

/-- PUSH_RECORD (R626). -/
def execPushRecord (device : Nat) (tsn : Word) (s : State) : Host.Outcome State Fault Refusal :=
  done s (s.doPush device tsn)

/-- The first uncorrectable granule among what the codes showed to a read of physical runs, by the code of its tier (R630). -/
def readLost (runs : List (Nat × Nat)) (l : List MemHit) : Option Code :=
  (l.find? fun h => h.found == .uncorrectable && runs.any fun r => decide (r.1 ≤ hitAddr h ∧ hitAddr h < r.1 + r.2)).map
    fun h => if h.bulk then Err.bulkUncorrectable else Err.memUncorrectable

/-- A request answered with what it read, or refused for an uncorrectable granule; the codes' corrections are counted (R369,
R398, R630). -/
def State.serveRead (s : State) (d : Nat) (r : InRec) (runs : List (Nat × Nat)) (reads : List MemHit) (ans : List InRec) :
    State :=
  let s1 := s.hitsIn runs [] reads
  match readLost runs reads with
  | some e => s1.refuseReq d r e
  | none => (s1.respond d ans).performed d r false

/-- READ performed, a duplicate again (R627, R637). -/
def State.doRead (s : State) (d : Nat) (tsn : Word) (reads : List MemHit) : State :=
  match s.takeReq d Rec.read tsn with
  | none => s
  | some (r, s1) =>
    let n := r.aux.toNat
    match s.hallTarget d r.addr n false with
    | .error e => s1.refuseReq d r e
    | .ok (c, va) =>
      match s.vread c va n with
      | .error f => s1.refuseReq d r f.1
      | .ok bs =>
        (s1.takeBlur r n).serveRead d r (s.physRuns c (n / smallPage + 2) va n) reads
          (s.readData d tsn (r.blurData s.free bs))

/-- READ_RECORD (R627). -/
def execReadRecord (device : Nat) (turn : RecordTurn) (s : State) : Host.Outcome State Fault Refusal :=
  done s (s.doRead device turn.tsn turn.reads)

/-- The cached result of a FETCH_ADD (R637). -/
def Session.cached (q : Session) (tsn : Word) : Option Bytes := (q.faCache.find? fun x => x.1 == tsn).map fun x => x.2

/-- A result cached: those of the last 4,096 TSNs stay (R637). -/
def Session.cache (q : Session) (tsn : Word) (v : Bytes) : Session :=
  let all := (tsn, v) :: q.faCache
  let top := all.foldl (fun a x => if serialLe a x.1 then x.1 else a) tsn
  { q with faCache := all.filter fun x => decide ((top - x.1).toNat < 4096) }

/-- FETCH_ADD performed: an addition modulo 2^64 that wakes the waiters on a count, never faulting the target's context
(R628, R377, R38, R478); a duplicate is answered from the cache (R637). -/
def State.doFetchAdd (s : State) (d : Nat) (tsn : Word) (reads : List MemHit) : State :=
  match s.takeReq d Rec.fetchAdd tsn with
  | none => s
  | some (r, s1) =>
    if r.dup then
      match (s1.session? d).bind fun q => q.cached tsn with
      | none => s1
      | some v => s1.respond d [response Rec.faResult 0 tsn 0 v]
    else
      match s.hallTarget d r.addr 8 true with
      | .error e => s1.refuseReq d r e
      | .ok (c, va) =>
        match s.accessFault c va 8 true with
        | some f => s1.refuseReq d r f.1
        | none =>
          let a := s.physOf c va
          let old := r.blurData s1.free (s1.loadBytes a 8)
          match readLost [(a, 8)] reads with
          | some e => (s1.hitsIn [(a, 8)] [] reads).refuseReq d r e
          | none =>
            let s2 := ((((s1.takeBlur r 8).setSem a ((leVal old + leVal r.data) % 2 ^ 64)).blur c r).recheckAt a).hitsIn
              [(a, 8)] [] reads
            ((s2.updSession d fun q => q.cache tsn old).respond d [response Rec.faResult 0 tsn 0 old]).performed d r false

/-- FETCH_ADD_RECORD (R628). -/
def execFetchAddRecord (device : Nat) (turn : RecordTurn) (s : State) : Host.Outcome State Fault Refusal :=
  done s (s.doFetchAdd device turn.tsn turn.reads)

/-! ### Ring shards served (R629, R249 to R252, R270, R301) -/

/-- Bytes of an element of a sequence (R250). -/
def kvBytes (fmt : Nat) : Nat := if fmt ≤ 3 then 2 else 1

/-- Entry index of a page of a head's keys or values (R252). -/
def Sequence.entryAt (q : Sequence) (head kind page : Nat) : Nat := (2 * head + kind) * q.cap + page

/-- An entry of a version; one not listed is invalid. -/
def PtVersion.entry (v : PtVersion) (i : Nat) : BitVec 64 :=
  match v.entries.find? fun e => e.1 == i with
  | some e => e.2
  | none => 0

/-- Device virtual address of a page's row 0, none for an invalid entry (Table 1 of 06). -/
def entryFrame (e : BitVec 64) : Option Nat := if e.getLsbD 63 then some (bitsOf e.toNat 43 0 * 16) else none

/-- Device virtual address of a position of a head's keys or values (R249). -/
def Sequence.position? (q : Sequence) (v : PtVersion) (head kind k : Nat) : Option Nat :=
  (entryFrame (v.entry (q.entryAt head kind (k / 256)))).map fun a =>
    a + k % 256 * if kind = 0 then q.kld else q.vld

/-- The version of a sequence that a number names. -/
def Sequence.version? (q : Sequence) (n : Word) : Option PtVersion :=
  (q.current :: q.pending.toList ++ q.retiring).find? fun v => v.version == n

/-- The version a peer's walk has pinned (R270). -/
def Sequence.pinned? (q : Sequence) (d : Nat) (walk : Word) : Option Word :=
  q.walks.findSome? fun w =>
    match w with
    | .local _ _ _ => none
    | .peer v k n => if k = d ∧ n = walk then some v else none

/-- One position of a sequence, read under the owning context's mappings (R249, R301). -/
def State.seqRow (s : State) (q : Sequence) (v : PtVersion) (head kind k : Nat) : Except Code Bytes :=
  match q.position? v head kind k with
  | none => .error Err.addrNotMapped
  | some va =>
    match s.vread q.ctx va (q.d * kvBytes q.fmt) with
    | .ok bs => .ok bs
    | .error f => .error f.1

/-- The bytes a SEQ_READ asks for (Table 4 of 13), or why it is refused. -/
def State.seqBytes (s : State) (q : Sequence) (v : PtVersion) (b : Bytes) : Except Code Bytes :=
  let head := leAt b 8 2
  let kind := (byteAt b 10).toNat
  let first := leAt b 12 4
  let cnt := leAt b 16 4
  let row := q.d * kvBytes q.fmt
  if head ≥ q.hkv ∨ kind > 1 ∨ !zeroRange b 20 24 then .error Err.ringInvalid
  else
    match (byteAt b 11).toNat with
    | 0 =>
      if first + cnt > q.cap ∨ cnt * 8 > 65536 then .error Err.ringInvalid
      else .ok ((List.range cnt).map fun i => leBytes 8 (v.entry (q.entryAt head kind (first + i))).toNat).flatten
    | 1 =>
      if first + cnt > 256 * q.cap ∨ cnt * row > 65536 then .error Err.ringInvalid
      else
        ((List.range cnt).mapM fun i => s.seqRow q v head kind (first + i)).map List.flatten
    | 2 => .ok (leBytes 4 v.length ++ leBytes 4 (v.kscales.getD head 0).toNat ++ leBytes 4 (v.vscales.getD head 0).toNat)
    | _ => .error Err.ringInvalid

/-- A sequence a peer may read (R301, R629). -/
def State.ringSeq? (s : State) (handle : Nat) : Option Sequence :=
  s.seqs.find? fun q => q.handle == handle && q.ringShare && !q.gone

/-- A sequence whose walk of a peer stands, or one a peer may read. -/
def State.servedSeq? (s : State) (d handle : Nat) (walk : Word) : Option Sequence :=
  match s.seqs.find? fun q => q.handle == handle && (q.pinned? d walk).isSome with
  | some q => some q
  | none => s.ringSeq? handle

/-- SEQ_READ performed: the first of a WALK pins the current version (R629, R270). -/
def State.doSeqRead (s : State) (d : Nat) (tsn : Word) (reads : List MemHit) : State :=
  match s.takeReq d Rec.seqRead tsn with
  | none => s
  | some (r, s1) =>
    let walk : Word := BitVec.ofNat 32 (leAt r.data 0 4)
    match s.servedSeq? d (leAt r.data 4 4) walk with
    | none => s1.refuseReq d r Err.ringInvalid
    | some q =>
      let v := ((q.pinned? d walk).bind q.version?).getD q.current
      let s2 : State :=
        if (q.pinned? d walk).isSome then s1
        else { s1 with seqs := s1.seqs.map fun (x : Sequence) =>
          if x.handle = q.handle then { x with walks := x.walks ++ [.peer v.version d walk] } else x }
      match s.seqBytes q v r.data with
      | .error e => s2.refuseReq d r e
      | .ok bs => s2.serveRead d r (if byteAt r.data 11 = 1 then s.ctxRuns q.ctx else []) reads (s.readData d tsn bs)

/-- SEQ_READ_RECORD (R629). -/
def execSeqReadRecord (device : Nat) (turn : RecordTurn) (s : State) : Host.Outcome State Fault Refusal :=
  done s (s.doSeqRead device turn.tsn turn.reads)

/-- A walk of a peer by its identifier. -/
def Walk.isPeer (d : Nat) (walk : Word) : Walk → Bool
  | .local _ _ _ => false
  | .peer _ k n => k == d && n == walk

/-- SEQ_RELEASE performed: the walk's version is unpinned (R629, R637). -/
def State.doSeqRelease (s : State) (d : Nat) (tsn : Word) : State :=
  match s.takeReq d Rec.seqRelease tsn with
  | none => s
  | some (r, s1) =>
    if r.dup then s1
    else (s1.dropWalks (Walk.isPeer d (BitVec.ofNat 32 (leAt r.data 0 4)))).performed d r false

/-- SEQ_RELEASE_RECORD (R629). -/
def execSeqReleaseRecord (device : Nat) (tsn : Word) (s : State) : Host.Outcome State Fault Refusal :=
  done s (s.doSeqRelease device tsn)

/-! ### The requester's side (R627, R628, R636, R640, R648, R657) -/

/-- The next received response of a type, taken. -/
def State.takeResponse (s : State) (d kind : Nat) : Option (InRec × Session × State) :=
  if s.phase ≠ .ready then none
  else
    match s.session? d with
    | none => none
    | some q =>
      match q.inbox.find? fun r => r.kind == kind with
      | none => none
      | some r => some (r, q, s.updSession d fun q => { q with inbox := q.inbox.erase r })

/-- The request a response names. -/
def Session.req? (q : Session) (tsn : Word) : Option Req := q.reqs.find? fun r => r.sent != 0 && r.tsn == tsn

/-- A request changed. -/
def State.updReq (s : State) (d : Nat) (tsn : Word) (f : Req → Req) : State :=
  s.updSession d fun q => { q with reqs := q.reqs.map fun r => if r.sent ≠ 0 ∧ r.tsn = tsn then f r else r }

/-- A response whose issuing context has been torn down: discarded and counted (R648, R456). -/
def Req.stale (r : Req) (s : State) : Bool := r.epoch != s.ctxEpoch r.ctx

/-- READ_DATA: the data goes to the item's LOCAL range (R627, R648); what a SEQ_READ brings, the command's operand holds
already (log entry 41). -/
def State.gotReadData (s : State) (d : Nat) : State :=
  match s.takeResponse d Rec.readData with
  | none => s
  | some (x, q, s1) =>
    match q.req? x.tsn with
    | none => s1
    | some r =>
      if r.stale s then { s1 with stale := satInc s1.stale 1 }
      else if r.dead ∨ x.aux.toNat + x.data.length > r.asked then s1
      else if r.ofRing then s1.updReq d x.tsn fun r => { r with got := r.got ++ [(x.aux.toNat, x.data.length)] }
      else
        match s1.vwrite r.ctx (r.localVa + x.aux.toNat) x.data with
        | .error f => s1.reqFault d r (s.ackedBytes r) f.1 0
        | .ok t => t.updReq d x.tsn fun r => { r with got := r.got ++ [(x.aux.toNat, x.data.length)] }

/-- READ_DATA_RECORD (R627). -/
def execReadDataRecord (device : Nat) (s : State) : Host.Outcome State Fault Refusal := done s (s.gotReadData device)

/-- FA_RESULT: the earlier value goes to LOCAL, where one is given (R628, Table 6 of 13). -/
def State.gotFaResult (s : State) (d : Nat) : State :=
  match s.takeResponse d Rec.faResult with
  | none => s
  | some (x, q, s1) =>
    match q.req? x.tsn with
    | none => s1
    | some r =>
      if r.stale s then { s1 with stale := satInc s1.stale 1 }
      else if r.dead ∨ r.kind ≠ Rec.fetchAdd ∨ r.localVa = 0 then s1
      else
        match s1.vwrite r.ctx r.localVa x.data with
        | .error f => s1.reqFault d r (s.ackedBytes r) f.1 0
        | .ok t => t.updReq d x.tsn fun r => { r with got := [(0, 8)] }

/-- FA_RESULT_RECORD (R628). -/
def execFaResultRecord (device : Nat) (s : State) : Host.Outcome State Fault Refusal := done s (s.gotFaResult device)

/-- STATUS: the request's item is faulted with HALL_REFUSED (R657, R648). -/
def State.gotStatus (s : State) (d : Nat) : State :=
  match s.takeResponse d Rec.status with
  | none => s
  | some (x, q, s1) =>
    match q.req? x.tsn with
    | none => s1
    | some r =>
      if r.stale s then { s1 with stale := satInc s1.stale 1 }
      else if r.dead then s1
      else s1.reqFault d r (s.ackedBytes r) Err.hallRefused x.status

/-- STATUS_RECORD (R657). -/
def execStatusRecord (device : Nat) (s : State) : Host.Outcome State Fault Refusal := done s (s.gotStatus device)

/-- A TSN is acknowledged by an ACK (R636). -/
def ackCovers (x : InRec) (tsn : Word) : Bool :=
  serialLe tsn x.tsn ||
    (let n := (tsn - x.tsn).toNat
     decide (1 ≤ n ∧ n ≤ 64) && bitOf (leVal x.data) (n - 1))

/-- A round-trip sample: the manual gives no weights, so the sample and the smoothed figures are free values (R638; log
entry 22). -/
def Session.sample (q : Session) (k : Nat) : Session :=
  { q with samples := (Config.choice k :: q.samples).take 1024, srtt := Config.choice (k + 1),
           rttvar := Config.choice (k + 2) }

/-- ACK: the requests it covers are acknowledged; those never retransmitted give a sample (R636, R638). -/
def State.gotAck (s : State) (d : Nat) : State :=
  match s.takeResponse d Rec.ack with
  | none => s
  | some (x, q, s1) =>
    let newly (r : Req) : Bool := r.sent != 0 && !r.acked && ackCovers x r.tsn
    let sampled := q.reqs.any fun r => newly r && r.sent == 1
    let s2 := s1.updSession d fun q =>
      { q with reqs := q.reqs.map fun r => if newly r then { r with acked := true, due := false } else r }
    if sampled then
      ({ s2 with free := s2.free + 3 } : State).updSession d fun q => q.sample s2.free
    else s2

/-- ACK_RECORD (R636). -/
def execAckRecord (device : Nat) (s : State) : Host.Outcome State Fault Refusal := done s (s.gotAck device)

/-- CREDIT: SEEN rises to a larger ISSUED; a smaller one is passed over (R640). -/
def State.gotCredit (s : State) (d : Nat) : State :=
  match s.takeResponse d Rec.credit with
  | none => s
  | some (x, _, s1) => s1.updSession d fun q => { q with seen := if serialLe x.aux q.seen then q.seen else x.aux }

/-- CREDIT_RECORD (R640). -/
def execCreditRecord (device : Nat) (s : State) : Host.Outcome State Fault Refusal := done s (s.gotCredit device)

/-! ### Sending (R605, R606, R622, R625, R636 to R638, R641, R646) -/

/-- The SACK above CUM (R636). -/
def Session.sack (q : Session) : Nat :=
  (List.range 64).foldl (fun a i => if q.beyond.contains (q.cum + 1 + BitVec.ofNat 32 i) then a + 2 ^ i else a) 0

/-- The ACK and CREDIT records of a session (Table 2 of 13). -/
def Session.ackCredit (q : Session) : List InRec :=
  [response Rec.ack 0 q.cum 0 (leBytes 8 q.sack), response Rec.credit 0 0 q.issued []]

/-- Links on which a session may still send in its epoch (R606, R622). -/
def State.sendLinks (s : State) (p : Peer) (q : Session) : List Nat :=
  (s.sendPaths p).filter fun l => decide (q.sentOn l + 1 < 2 ^ 32)

/-- Frames placed on a path since the set of paths last changed (R622). -/
def Session.placed (q : Session) (all : List Nat) (l : Nat) : Nat :=
  if q.rota.map (fun x => x.1) = all then (q.rota.find? fun x => x.1 == l).elim 0 fun x => x.2 else 0

/-- The rotation with one more frame on a path. -/
def Session.place (q : Session) (all : List Nat) (l : Nat) : Session :=
  { q with rota := all.map fun k => (k, q.placed all k + if k = l then 1 else 0) }

/-- The next path of the rotation weighted by MAC rate, among some of the paths: one with the fewest frames for its rate;
which of several is free (R622; log entries 4, 23). -/
def State.nextPath (s : State) (q : Session) (all among : List Nat) : Option Nat × State :=
  let rate (l : Nat) : Nat := (s.fport (linkPort l)).macRate
  s.pickLink (among.filter fun l => among.all fun k => decide (q.placed all l * rate k ≤ q.placed all k * rate l))

/-- A protected frame of records sent on a link: its PN, its flags, its place in the rotation, and the rekey at PN 2^31
(R605, R606, R622, R625). -/
def State.sendRecords (s : State) (d l : Nat) (retx : Bool) (rs : List InRec) : State :=
  match s.peer? d with
  | none => s
  | some p =>
    match p.session with
    | none => s
    | some q =>
      let plain := (rs.map InRec.bytes).flatten
      let pn := q.sentOn l + 1
      let run := s.protectedRun l p q (bit q.ceNote + 2 * bit retx) plain
      let s1 := (s.sendFrame l (s.encap l p q.id run)).updSession d fun q =>
        { (q.place (s.sendLinks p q) l) with pn := (l, pn) :: q.pn.filter (fun x => x.1 != l), ceNote := false }
      if pn ≥ 2 ^ 31 then s1.openRekey d else s1

/-- Whether a frame of the session has been sent in its epoch: the first holds a CREDIT and an ACK (R646). -/
def Session.fresh (q : Session) : Bool := q.pn.isEmpty

/-- What stands before a frame's records: ACK and CREDIT in the first frame of an epoch. -/
def Session.lead (q : Session) : List InRec := if q.fresh then q.ackCredit else []

/-- Bytes of records. -/
def recBytes (rs : List InRec) : Nat := (rs.map fun r => 32 + r.data.length).sum

/-- A record sent behind the lead, in one frame where MAX_PAYLOAD allows, else the lead in a frame before it (R594, R646). -/
def State.sendLed (s : State) (d l : Nat) (retx : Bool) (q : Session) (r : InRec) : State :=
  if q.lead.isEmpty ∨ recBytes (q.lead ++ [r]) ≤ (s.globOf l).maxPayload then s.sendRecords d l retx (q.lead ++ [r])
  else (s.sendRecords d l false q.lead).sendRecords d l retx [r]

/-- A READ_DATA longer than a frame may carry, in two. -/
def InRec.split (r : InRec) (room : Nat) : List InRec :=
  if r.kind = Rec.readData ∧ room < r.data.length ∧ 0 < room then
    [{ r with data := r.data.take room }, { r with data := r.data.drop room, aux := r.aux + BitVec.ofNat 32 room }]
  else [r]

/-- A request not yet sent whose bytes are more than a frame may now carry, in two (R594, R632). -/
def Req.split (r : Req) (room : Nat) : List Req :=
  let two (n addr va : Nat) (a b : Word) : List Req :=
    [{ r with data := r.data.take n, aux := a, cost := recCost n },
     { r with data := r.data.drop n, aux := b, addr := addr, localVa := va, cost := recCost (r.data.length - n) }]
  if r.data.length ≤ room then [r]
  else if r.kind = Rec.write ∧ 0 < room then two room (r.addr + room) (r.localVa + room) r.aux r.aux
  else if r.kind = Rec.push then
    let w := r.aux.toNat % 65536
    let n := room / max 1 w
    if n = 0 then [r]
    else two (n * w) (r.addr + n * r.ld) r.localVa (BitVec.ofNat 32 (n * 65536 + w))
      (BitVec.ofNat 32 ((r.aux.toNat / 65536 - n) * 65536 + w))
  else [r]

/-- A DONE_ADDR request still waits (R225, R633). -/
def State.heldBack (s : State) (r : Req) : Bool :=
  r.after && s.allReqs.any fun x => !x.after && r.awaits x && !x.finished

/-- The lowest TSN not acknowledged: the window of R635 counts from it. -/
def Session.lowest (q : Session) : Word :=
  (q.reqs.filter fun r => r.sent != 0 && !r.acked).foldl (fun a r => if serialLe r.tsn a then r.tsn else a) q.nextTsn

/-- A new request may be sent (R635, R641). -/
def Session.mayAfford (q : Session) (r : Req) : Bool :=
  decide (r.cost ≤ (q.seen - q.consumed).toNat) && serialLe q.consumed q.seen &&
    decide ((q.nextTsn - q.lowest).toNat ≤ 4096)

/-- The next new request of a session, in the order of issue, with its place. -/
def State.nextNew (s : State) (q : Session) : Option Nat :=
  q.reqs.findIdx? fun r => r.sent == 0 && !s.heldBack r && !s.ownerStopped r

/-- A new request sent on a link: its TSN, CONSUMED (R635, R641). -/
def State.sendNew (s : State) (d l i : Nat) (q : Session) (r : Req) : State :=
  let r1 := { r with tsn := q.nextTsn, sent := 1, lastLink := l }
  (s.sendLed d l false q r1.record).updSession d fun q =>
    { q with reqs := q.reqs.set i r1, nextTsn := q.nextTsn + 1, consumed := q.consumed + BitVec.ofNat 32 r.cost }

/-- The next new request, where the credits allow it, on a link; one that is longer than a frame may carry is cut first. -/
def State.transmitNew (s : State) (d l : Nat) (q : Session) : Option State :=
  (s.nextNew q).bind fun i => (q.reqs[i]?).bind fun r =>
    let cut := r.split ((s.globOf l).maxPayload - 32)
    let q1 := { q with reqs := q.reqs.take i ++ cut ++ q.reqs.drop (i + 1) }
    (cut.head?).bind fun r => if q.mayAfford r then some ((s.updSession d fun _ => q1).sendNew d l i q1 r) else none

/-- A request sent again on a link under its TSN (R622, R638). -/
def State.resendOn (s : State) (d l : Nat) (q : Session) (r : Req) : State :=
  ((s.sendLed d l true q r.record).updReq d r.tsn fun r => { r with sent := r.sent + 1, lastLink := l, due := false }).updSession d
    fun q => { q with retx := q.retx + 1 }

/-- The paths on which a request may be sent again: another than the last, where another is up (R622). -/
def otherPaths (r : Req) (ls : List Nat) : List Nat :=
  let others := ls.filter fun l => l != r.lastLink
  if others.isEmpty then ls else others

/-- The next frame of a session: an acknowledgement or a request that waited for a path, then the next response, or else the
next new request the credits allow, in a frame of its own on the next path (R622, R641; log entry 23). -/
def State.transmitNext (s : State) (d : Nat) (p : Peer) (q : Session) : State :=
  let ls := s.sendLinks p q
  let (l, s1) := s.nextPath q ls ls
  match l with
  | none => s
  | some l =>
    if q.ackDue then (s1.sendRecords d l false q.ackCredit).updSession d fun q => { q with ackDue := false }
    else
      match q.reqs.find? fun r => r.due && !r.finished with
      | some r =>
        let (k, s2) := s.nextPath q ls (otherPaths r ls)
        s2.resendOn d (k.getD l) q r
      | none =>
        match q.toSend with
        | r :: rest =>
          match r.split ((s.globOf l).maxPayload - 32) with
          | x :: more => (s1.sendLed d l false q x).updSession d fun q => { q with toSend := more ++ rest }
          | [] => s
        | [] => (s1.transmitNew d l q).getD s

/-- FRAME_TRANSMIT: an admission frame that waits for a path goes first (R622). -/
def State.transmit (s : State) (d : Nat) : State :=
  match s.peer? d with
  | none => s
  | some p =>
    if s.phase ≠ .ready then s
    else if !p.admitOut.isEmpty then s.flushAdmit d
    else match p.session with
      | none => s
      | some q => s.transmitNext d p q

/-- FRAME_TRANSMIT (R622). -/
def execFrameTransmit (device : Nat) (s : State) : Host.Outcome State Fault Refusal := done s (s.transmit device)

/-- Up to 256 credits more per acknowledgement interval, within the session's limit and the free buffer: how the responder
knows of requests held back is not stated, so the number is free (R643; log entry 24). -/
def State.grantMore (s : State) (d : Nat) : State :=
  match s.session? d with
  | none => s
  | some q =>
    let held := (q.issued - q.returned).toNat
    let room := min (min 256 (sessionCredits - held)) (bufferCredits - s.creditsOut)
    let (n, s1) := s.choose (room + 1)
    s1.updSession d fun q => { q with issued := q.issued + BitVec.ofNat 32 n }

/-- ACK_TIMER: an ACK and a CREDIT in a frame of their own, which waits while no path is up (R622, R636, R643). -/
def State.ackTimer (s : State) (d : Nat) : State :=
  if s.phase ≠ .ready then s
  else
    let s1 := s.grantMore d
    match s1.peer? d with
    | none => s
    | some p =>
      match p.session with
      | none => s
      | some q =>
        let ls := s1.sendLinks p q
        let (l, s2) := s1.nextPath q ls ls
        match l with
        | none => s1.updSession d fun q => { q with ackDue := true }
        | some l => s2.sendRecords d l false q.ackCredit

/-- ACK_TIMER (R636). -/
def execAckTimer (device : Nat) (s : State) : Host.Outcome State Fault Refusal := done s (s.ackTimer device)

/-- r after a retransmission timeout (R650). -/
def Session.halve (q : Session) : Session := { q with rate := max (q.rate / 2) 1000000000 }

/-- RETRANSMIT_TIMEOUT: a request without its outcome is sent again under its TSN, on another path when one is up, and waits
while none is (R622, R638, R641, R650). -/
def State.retransmit (s : State) (d : Nat) (tsn : Word) : State :=
  match s.peer? d with
  | none => s
  | some p =>
    match p.session with
    | none => s
    | some q =>
      match q.req? tsn with
      | none => s
      | some r =>
        if s.phase ≠ .ready ∨ r.finished then s
        else
          let ls := s.sendLinks p q
          let (l, s1) := s.nextPath q ls (otherPaths r ls)
          let s2 := match l with
            | none => s1.updReq d tsn fun r => { r with due := true }
            | some l => s1.resendOn d l q r
          s2.updSession d Session.halve

/-- RETRANSMIT_TIMEOUT (R638). -/
def execRetransmitTimeout (device : Nat) (tsn : Word) (s : State) : Host.Outcome State Fault Refusal :=
  done s (s.retransmit device tsn)

/-! ### Rate control (R650) -/

/-- rtt_base: the least of the last 1,024 samples, in nanoseconds. -/
def Session.rttBase (q : Session) : Nat :=
  match q.samples with
  | [] => q.srtt
  | x :: xs => xs.foldl min x

/-- r held between 1 Gb/s and the line. -/
def clampRate (r : Rat) (line : Nat) : Rat := min (max r 1000000000) (line : Rat)

/-- One interval of R650. -/
def Session.interval (q : Session) (line : Nat) : Session :=
  if q.eceIn then
    let a := q.alpha * 15 / 16 + 1 / 16
    { q with alpha := a, rate := clampRate (q.rate * (1 - a / 2)) line, quiet := 0, eceIn := false }
  else
    let a := q.alpha * 15 / 16
    let base := q.rttBase
    if q.srtt > base + 25000 then
      let f : Rat := max (1 / 2) (1 - ((q.srtt : Rat) - base - 25000) / q.srtt)
      { q with alpha := a, rate := clampRate (q.rate * f) line, quiet := 0 }
    else
      let n := q.quiet + 1
      { q with alpha := a, quiet := n, rate := clampRate (if n ≥ 5 then q.rate * 5 / 4 else q.rate + (line : Rat) / 100) line }

/-- RATE_INTERVAL (R650). -/
def execRateInterval (device : Nat) (s : State) : Host.Outcome State Fault Refusal :=
  done s (match s.peer? device with
    | none => s
    | some p => s.updSession device fun q => q.interval (s.line p))

/-! ### A frame accepted (R609, R634, R637, R645, R652) -/

/-- Costs of the requests received and not yet performed: CONSUMED - RETURNED as the responder counts it. -/
def Session.received (q : Session) : Nat :=
  q.inbox.foldl (fun a r => if isRequest r.kind && !r.dup then a + recCost r.data.length else a) 0

/-- A request has been received before (R637). -/
def Session.seenTsn (q : Session) (tsn : Word) : Bool :=
  serialLe tsn q.cum || q.beyond.contains tsn || q.inbox.any fun r => isRequest r.kind && r.tsn == tsn

/-- One record of an accepted frame put in line, or the peer frozen for a request beyond its credits (R645). -/
def State.receiveRecord (s : State) (d : Nat) (r : InRec) : State :=
  match s.session? d with
  | none => s
  | some q =>
    if !isRequest r.kind then s.updSession d fun q => { q with inbox := q.inbox ++ [r] }
    else if q.seenTsn r.tsn then s.updSession d fun q => { q with inbox := q.inbox ++ [{ r with dup := true }] }
    else if q.received + recCost r.data.length > (q.issued - q.returned).toNat then s.freezePeer d Err.peerFrozenCredit
    else s.updSession d fun q => { q with inbox := q.inbox ++ [r] }

/-- An accepted plaintext: whole records, with no TSN more than 4,096 above CUM, or the peer is frozen (R652). -/
def State.acceptPlain (s : State) (d : Nat) (plain : Bytes) : State :=
  match s.session? d with
  | none => s
  | some q =>
    match parseRecords (plain.length / 32 + 1) plain with
    | none => s.freezePeer d Err.peerFrozenMalformed
    | some rs =>
      if rs.any fun r => isRequest r.kind && decide (4096 < serialAbove r.tsn q.cum) then
        s.freezePeer d Err.peerFrozenMalformed
      else rs.foldl (fun t r => t.receiveRecord d r) s

end Sys2Proof.Machine
end

