-- ==== Sys2Proof/Machine/Work.lean ====
section
/-! DEFINITION. What a command of the cores or the expanders does to the module once it begins: the items of its list with
their results, their writes, overlaps, pushes, NaN events and faults (01, R24 to R27; 02, R83 to R88; 03, R129; 05, R205,
R224, R225). -/
namespace Sys2Proof.Machine

open Sys2Proof

/-! ### Items -/

/-- One tensor of an item in memory: its place in the order of the chain, its plane where R205 may compare it, its runs of
device virtual addresses. -/
structure Piece where
  idx   : Nat
  plane : Option Plane
  runs  : List (Nat × Nat)
  deriving DecidableEq, Repr

/-- What an item computes. -/
structure Work where
  writes : List (Nat × Bytes)
  pushes : List PushPlane
  events : List NanEvent
  deriving DecidableEq, Repr

/-- No work: an item with no rows, or of a stopped context (R110, R448). -/
def Work.none : Work := { writes := [], pushes := [], events := [] }

/-- An item of a command: its place in the list, its ITEM, whether that names an item (R467), what it reads and writes,
what it computes or why it stops, and whether it stopped when the command began, before any of its tiles. -/
structure CoreItem where
  pos     : Nat
  item    : Nat
  itemOk  : Bool
  ins     : List Piece
  outs    : List Piece
  work    : Except Halt Work
  atStart : Bool := false
  deriving DecidableEq

/-- The work of an item that computed. -/
def CoreItem.work? (it : CoreItem) : Option Work :=
  match it.work with
  | .ok w => some w
  | .error _ => none

/-- The fault of an item that stops. -/
def CoreItem.stop? (it : CoreItem) : Option Stop :=
  match it.work with
  | .ok _ => none
  | .error h => some h.1

/-- The NaN events of an item, those before its stop included (R84). -/
def CoreItem.events (it : CoreItem) : List NanEvent :=
  match it.work with
  | .ok w => w.events
  | .error h => h.2

/-- An item refused when its command begins. -/
def CoreItem.refused (pos item : Nat) (itemOk : Bool) (outs : List Piece) (code : Code) : CoreItem :=
  { pos := pos, item := item, itemOk := itemOk, ins := [], outs := outs, work := .error ((code, []), []), atStart := true }

/-- An item that does nothing. -/
def CoreItem.idle (pos item : Nat) (itemOk : Bool) : CoreItem :=
  { pos := pos, item := item, itemOk := itemOk, ins := [], outs := [], work := .ok Work.none }

/-! ### Runs of an item (R129, R205) -/

/-- A part that is a whole plane. -/
def Plane.part (p : Plane) (idx m : Nat) : Piece :=
  { idx := idx, plane := some { p with ld := p.stride }, runs := p.ranges m }

/-- A part of one run. -/
def runPart (idx a n : Nat) : Piece := { idx := idx, plane := none, runs := [(a, n)] }

/-- What a stage reads of memory for an item. -/
def Stage.inPart (g : Stage) (e : ChainEnv) : Option Piece :=
  if g.kind = Kd.bias then some (runPart g.idx (g.at e.i) (rowBytes g.src e.n))
  else if g.kind = Kd.residual then some ((g.plane e.i g.src e.n g.pd).part g.idx e.m)
  else if g.kind = Kd.scale then
    match g.sub with
    | 0 => none
    | 1 => some { (g.plane e.i g.src 1 0).part g.idx e.m with plane := none }
    | 2 => some (runPart g.idx (g.at e.i) (rowBytes g.src e.n))
    | 3 => some { (g.plane e.i g.src (cdiv e.n (2 ^ g.glog)) 0).part g.idx e.m with plane := none }
    | _ => some { (g.plane e.i g.src e.n 0).part g.idx e.m with plane := none }
  else if g.kind = Kd.mask ∧ g.sub = 1 then some (runPart g.idx (g.at e.i) (e.m * cdiv e.n 8))
  else if g.kind = Kd.apply ∧ g.own = false then some (runPart g.idx (g.at e.i) (e.m * cdiv g.pb.toNat 128 * 8))
  else none

/-- What a stage writes to memory for an item; `own` is the plane of the item's own output in the stage's format,
of `ownM` rows. -/
def Stage.outPart (g : Stage) (e : ChainEnv) (own : Stage → Plane) (ownM : Nat) : Option Piece :=
  if g.kind = Kd.store then
    some (if g.addr = 0 then (own g).part g.idx ownM else (g.plane e.i g.ifmt e.n g.pd).part g.idx e.m)
  else if g.kind = Kd.rowstat ∧ g.addr ≠ 0 then some (runPart g.idx (g.at e.i) (e.m * cdiv e.n 128 * 8))
  else none

/-- The part of a range that may be accessed: the bytes before the first one that may not. -/
def State.reachable (s : State) (ctx : Nat) (r : Nat × Nat) (write : Bool) : Nat × Nat :=
  match s.accessFault ctx r.1 r.2 write with
  | none => r
  | some f => (r.1, f.2 - r.1)

/-- The physical runs of a list of virtual runs. -/
def State.physOfRuns (s : State) (ctx : Nat) (runs : List (Nat × Nat)) (write : Bool) : List (Nat × Nat) :=
  (runs.map fun r =>
    let q := s.reachable ctx r write
    s.physRuns ctx (q.2 / smallPage + 2) q.1 q.2).flatten

/-- The physical runs a command's items write, with the owner of each (R24, R448). -/
def State.outRuns (s : State) (c : Ctx) (items : List CoreItem) : List OutRun :=
  (items.map fun it => (it.outs.map fun p =>
    (s.physOfRuns c.num p.runs true).map fun q =>
      { owner := c.itemOwner it.item, addr := q.1, length := q.2 : OutRun }).flatten).flatten

/-- A part of an item placed in physical memory. -/
structure Placed where
  pos   : Nat
  idx   : Nat
  plane : Option Plane
  runs  : List (Nat × Nat)
  deriving DecidableEq, Repr

/-- Parts placed. -/
def State.place (s : State) (ctx : Nat) (write : Bool) (it : CoreItem) (l : List Piece) : List Placed :=
  l.map fun p => { pos := it.pos, idx := p.idx, plane := p.plane, runs := s.physOfRuns ctx p.runs write }

/-- The bytes two placed parts share. -/
def Placed.meets (a b : Placed) : List (Nat × Nat) :=
  ((a.runs.map fun x => b.runs.map fun y => overlapRun x y).flatten).filter fun r => r.2 != 0

/-- Two outputs of one item in the same place: the later stage's bytes stand. -/
def Placed.twin (a b : Placed) : Bool := a.pos == b.pos && a.runs == b.runs

/-- The bytes that outputs of a list share among themselves. -/
def outputOverlaps : List Placed → List (Nat × Nat)
  | [] => []
  | a :: l => ((l.filter fun b => !a.twin b).map fun b => a.meets b).flatten ++ outputOverlaps l

/-- An output that updates in place what an earlier RESIDUAL of its item reads (R205). -/
def Placed.inPlace (o i : Placed) : Bool :=
  o.pos == i.pos && o.plane.isSome && o.plane == i.plane && decide (i.idx < o.idx)

/-- The overlaps of a command whose bytes are unspecified (R129, R205). -/
def State.overlapsOf (s : State) (ctx : Nat) (items : List CoreItem) : List (Nat × Nat) :=
  let live := items.filter fun it => it.work?.isSome
  let outs := (live.map fun it => s.place ctx true it it.outs).flatten
  let ins := (live.map fun it => s.place ctx false it it.ins).flatten
  outputOverlaps outs ++ (outs.map fun o => ((ins.filter fun i => !o.inPlace i).map fun i => o.meets i).flatten).flatten

/-! ### Pushes (R224, R225, R618) -/

/-- The tiles of a plane of pushed rows: hall address, rows, bytes of each. -/
def PushPlane.tiles (p : PushPlane) : List (Nat × List Bytes) :=
  let width := match p.rows with
    | [] => 0
    | r :: _ => r.length
  ((List.range (cdiv p.rows.length 128)).map fun i =>
    (List.range (cdiv width p.tile)).map fun j =>
      (p.addr + 128 * i * p.ld + j * p.tile,
        ((p.rows.drop (128 * i)).take 128).map fun r => (r.drop (j * p.tile)).take p.tile)).flatten

/-- The first hall address of a list of pushes that R617 does not allow, DONE_ADDR among them (R618). -/
def State.badPush (s : State) (i : Nat) (l : List PushPlane) : Option Nat :=
  l.findSome? fun p =>
    if p.doneAt ≠ 0 ∧ s.hallOk (p.doneAt + 8 * i) 8 true = false then some (p.doneAt + 8 * i)
    else p.tiles.findSome? fun t =>
      let n := (t.2.length - 1) * p.ld + (t.2.getD 0 []).length
      if s.hallOk t.1 n false then none else some t.1

/-- The PUSH requests of a tile: whole rows, as many as a frame holds (R626). -/
def State.tileReqs (s : State) (k : Cmd) (it : CoreItem) (p : PushPlane) (t : Nat × List Bytes) : List Req :=
  let w := (t.2.getD 0 []).length
  let per := max 1 ((s.payloadTo (hallDevice t.1) - 32) / max 1 w)
  (runsOf per t.2.length t.2).mapIdx fun j rows =>
    { k.req s Rec.push false it.item it.pos (t.1 + j * per * p.ld) rows.flatten with
        aux := BitVec.ofNat 32 (rows.length * 65536 + w), ld := p.ld }

/-- The requests of an item's pushes, each plane's with its DONE_ADDR (R225). -/
def State.pushReqs (s : State) (k : Cmd) (it : CoreItem) (l : List PushPlane) : List (List Req) :=
  (l.map fun p => (p.tiles.map fun t => s.tileReqs k it p t).flatten) ++
    ((l.map fun p => p.doneAt).dedup.filter fun a => a != 0).map fun a =>
      [k.doneReq s false (a + 8 * it.pos) it.item it.pos]

/-! ### Results judged -/

/-- An item whose writes or pushes may not be made stops; its NaN events came before (R358, R618, R85). -/
def State.judgeWork (s : State) (ctx : Nat) (it : CoreItem) : CoreItem :=
  match it.work? with
  | none => it
  | some w =>
    match w.writes.findSome? fun x => s.accessFault ctx x.1 x.2.length true with
    | some f => { it with work := .error ((f.1, []), w.events) }
    | none =>
      match s.badPush it.pos w.pushes with
      | some a =>
        { it with work := .error ((Err.hallAddrInvalid, fabDetail Err.hallAddrInvalid 0 (hallDevice a) it.item a 0), w.events) }
      | none => it

/-- The fault of an item that stopped (R24, R467). -/
def State.coreItemFault (s : State) (k : Cmd) (it : CoreItem) : State :=
  match it.stop? with
  | none => s
  | some e =>
    if it.itemOk then s.cmdItemFault k it.item e.1 e.2
    else s.commandFault k.ctx k.build { k.fault e.1 with detail := e.2 } k.policy

/-- The faults of some items, in the order of the list. -/
def State.itemFaults (s : State) (k : Cmd) (items : List CoreItem) : State :=
  items.foldl (fun t it => t.coreItemFault k it) s

/-- NaN events added to the counts of the contexts that own their items (R84). -/
def State.countNans (s : State) (c : Ctx) (items : List CoreItem) : State :=
  items.foldl (fun t it =>
    if it.events.isEmpty then t
    else t.updCtx (c.itemOwner it.item) fun x => { x with nanCount := satInc x.nanCount it.events.length }) s

/-- The NaN trap record (Table 7 of 02). -/
def nanDetail (k : Cmd) (it : CoreItem) (e : NanEvent) : Bytes :=
  leBytes 2 Err.nanTrapped.toNat ++ leBytes 1 e.kind ++ leBytes 1 e.unit ++ leBytes 4 k.index.toNat ++ [k.opcode] ++
    leBytes 1 e.inst ++ leBytes 1 e.stage ++ leBytes 1 (if it.item = noItem then it.pos else it.item) ++
    leBytes 4 e.row ++ leBytes 4 e.col ++ leBytes 4 e.k ++ leBytes 4 e.outer ++ zeros 4

/-- An event of an item before another of the same command: tiles are one and the same only within one item. -/
def eventBefore (x y : CoreItem × NanEvent) : Bool :=
  x.2.before y.2 && (x.2.seq != y.2.seq || x.1.pos == y.1.pos)

/-- The events that may have been the first to arrive: those with none before them (R17, R86). -/
def firstEvents (l : List (CoreItem × NanEvent)) : List (CoreItem × NanEvent) :=
  l.filter fun y => !l.any fun x => eventBefore x y

/-- The trap of one context that owns events of a command: the record is that of one of those that may have come first, and
every output of the command becomes unspecified (R85 to R87). Log entry 43. -/
def State.trapOwner (s : State) (k : Cmd) (outs : List OutRun) (o : Nat) (evs : List (CoreItem × NanEvent)) : State :=
  let first := firstEvents evs
  let r := s.choose first.length
  match first[r.1]? with
  | none => s
  | some (it, e) =>
    if r.2.stopped o then r.2
    else (r.2.cmdItemFault k it.item Err.nanTrapped (nanDetail k it e)).scrambleOuts outs

/-- The NaN events of a command's items. -/
def itemEvents (items : List CoreItem) : List (CoreItem × NanEvent) :=
  (items.map fun it => it.events.map fun e => (it, e)).flatten

/-- The traps of the events of some owners (R27, R85). -/
def State.trapNans (s : State) (c : Ctx) (k : Cmd) (outs : List OutRun) (items : List CoreItem) (owners : List Nat) : State :=
  owners.foldl (fun t o => t.trapOwner k outs o ((itemEvents items).filter fun x => c.itemOwner x.1.item == o)) s

/-- The owners of a command's NaN events that have enabled the trap. -/
def State.trapOwners (s : State) (c : Ctx) (items : List CoreItem) : List Nat :=
  (((itemEvents items).map fun x => c.itemOwner x.1.item).dedup).filter fun o => (s.ctx? o).any fun x => x.nanTrap

/-- Whether a trap of an owner precedes the faults that its items meet while they run. An item's own events come before its
stop; a stop of an item without events has no order with the events of the others (R17), so there the model chooses freely.
Log entry 43. -/
def State.trapFirst (s : State) (c : Ctx) (items : List CoreItem) (o : Nat) : Bool × State :=
  if items.any fun it => c.itemOwner it.item == o && it.stop?.isSome && !it.atStart && it.events.isEmpty then
    ((s.choose 2).1 == 0, (s.choose 2).2)
  else (true, s)

/-- The owners of a list, parted into those whose trap precedes the other faults and those whose trap follows. -/
def State.trapOrder (s : State) (c : Ctx) (items : List CoreItem) : List Nat → List Nat × List Nat × State
  | [] => ([], [], s)
  | o :: os =>
    let p := s.trapFirst c items o
    let r := p.2.trapOrder c items os
    if p.1 then (o :: r.1, r.2.1, r.2.2) else (r.1, o :: r.2.1, r.2.2)

/-- The faults of a command's items: those found when it began, then the traps and the faults met while it ran (R24, R85). -/
def State.settleFaults (s : State) (c : Ctx) (k : Cmd) (outs : List OutRun) (items : List CoreItem) : State :=
  let order := s.trapOrder c items (s.trapOwners c items)
  let s1 := order.2.2.itemFaults k (items.filter fun it => it.atStart)
  let s2 := s1.trapNans c k outs items order.1
  let s3 := s2.itemFaults k (items.filter fun it => !it.atStart)
  s3.trapNans c k outs items order.2.1

/-! ### Running -/

/-- A command begun: entered among the begun ones, or, after a wait, set going there. -/
def State.startBegun (s : State) (k : Cmd) (b : Begun) : State :=
  if k.fresh then s.beginBegun k b
  else
    ((s.occupyCores k.ctx b).updCtx k.ctx fun c =>
      { c with begun := c.begun.map fun x => if x.ord = b.ord then b else x }).settle

/-- The corrected errors of the cores' and the expanders' SRAM counted (R92, Table 1 of 07). -/
def State.countCorrected (s : State) (hw : RunHw) : State :=
  { s with
    cores := s.cores.mapIdx fun i c => { c with ecc := c.ecc + hw.coreCorr.count i }
    exps := s.exps.mapIdx fun i e => { e with eccCorr := BitVec.ofNat 8 (min 255 (e.eccCorr.toNat + hw.expCorr.count i)) } }

/-- What units a command runs on met (R92, R309): the command is faulted, no item named. -/
def State.hwFault (s : State) (k : Cmd) (hw : RunHw) : State :=
  match hw.coreSram, hw.expSram with
  | some _, _ => s.commandFault k.ctx k.build (k.fault Err.coreSramUncorrectable) k.policy
  | none, some _ => s.commandFault k.ctx k.build (k.fault Err.expSramUncorrectable) k.policy
  | none, none => s

/-- What a command met while it ran: corrected errors of SRAM, what the codes of the memory it read showed (R368, R398,
R401), and uncorrectable words of SRAM. -/
def State.meetHw (s : State) (k : Cmd) (outs : List OutRun) (hw : RunHw) : State :=
  ((s.countCorrected hw).readHits k.ctx outs hw.reads).hwFault k hw

/-- A command of the cores or the expanders judged and planned: the state it runs in, what it stands begun as, whether
it waits for a tensor first (R333), its items, and the runs that its own walks leave unspecified. -/
structure CoreRun where
  state : State
  begun : Begun
  wait  : Bool
  items : List CoreItem
  extra : List (Nat × Nat)

/-- A command of the cores or the expanders runs: it stands begun, its items' results are written, the overlaps become
unspecified, its pushes are issued, its events counted, and its faults reported. -/
def State.runItems (s : State) (c : Ctx) (k : Cmd) (b : Begun) (raw : List CoreItem) (extra : List (Nat × Nat)) : State :=
  let items := raw.map (s.judgeWork k.ctx)
  let overlaps := s.overlapsOf k.ctx items ++ extra
  let events := (items.map fun it => it.events.length).sum
  let outs := s.outRuns c items
  let b1 := { b with outs := outs, record := { b.record with nan := events } }
  let s1 := s.startBegun k b1
  let s2 := items.foldl (fun t it =>
    match it.work? with
    | none => t
    | some w => w.writes.foldl (fun u x => u.vstore k.ctx x.1 x.2) t) s1
  let s3 := overlaps.foldl (fun t r => t.scramble r.1 r.2) s2
  let s4 := items.foldl (fun t it =>
    match it.work? with
    | none => t
    | some w => t.issueAll (t.pushReqs k it w.pushes)) s3
  ((s4.countNans c items).settleFaults c k outs items).meetHw k outs b.hw

/-- A command of the cores or the expanders begun: its descriptor judged and planned, it is invalid, waits or runs. -/
def State.runCore (s : State) (c : Ctx) (k : Cmd) (prep : Except Code CoreRun) : State :=
  match prep with
  | .error code => s.invalid k code
  | .ok r =>
    if r.wait then s.startBegun k { r.begun with waiting := true, cores := [] }
    else r.state.runItems c k r.begun r.items r.extra

/-- An item of a context for which nothing more is read or written (R448). -/
def State.itemStopped (s : State) (c : Ctx) (item : Nat) : Bool :=
  c.itemOwner item != c.num && s.stopped (c.itemOwner item)

end Sys2Proof.Machine
end

