-- ==== Sys2Proof/Machine/Matmul.lean ====
section
/-! DEFINITION. MATMUL: its descriptor and triples, the matrix products, the chained product and the element-wise product
(03, R104 to R145). -/
namespace Sys2Proof.Machine

open Sys2Proof

/-! ### The descriptor (R104 to R106, R108, R130, R133, R144) -/

/-- A MATMUL descriptor (Table 5 of 03). -/
structure MatDesc where
  list   : Nat
  cnt    : Nat
  a      : Nat
  b      : Nat
  c      : Nat
  mode   : Nat
  flags  : Nat
  mMax   : Nat
  n      : Nat
  k      : Nat
  lda    : Nat
  ldb    : Nat
  ldc    : Nat
  chain  : Nat
  tChain : Nat
  b2     : Nat
  b2s    : Nat
  n2     : Nat
  ldb2   : Nat
  b2Fmt  : Nat
  tFmt   : Nat
  deriving DecidableEq, Repr

/-- A descriptor's bytes read as one. -/
def parseMat (d : Bytes) : MatDesc :=
  let b (o : Nat) : Nat := (byteAt d o).toNat
  { list := leAt d 16 8, cnt := leAt d 24 2, a := b 26, b := b 27, c := b 28, mode := b 29, flags := leAt d 30 2,
    mMax := leAt d 32 4, n := leAt d 36 4, k := leAt d 40 4, lda := leAt d 44 4, ldb := leAt d 48 4, ldc := leAt d 52 4,
    chain := leAt d 56 8, tChain := leAt d 64 8, b2 := leAt d 72 8, b2s := leAt d 80 8, n2 := leAt d 88 4,
    ldb2 := leAt d 92 4, b2Fmt := b 100, tFmt := b 101 }

namespace MatDesc

/-! Bits of MFLAGS (Table 6 of 03). -/

def exact (x : MatDesc) : Bool := bitOf x.flags 0
def splitOk (x : MatDesc) : Bool := bitOf x.flags 1
def long (x : MatDesc) : Bool := bitOf x.flags 2
def chained (x : MatDesc) : Bool := bitOf x.flags 3
def packed (x : MatDesc) : Bool := bitOf x.flags 4
def packed2 (x : MatDesc) : Bool := bitOf x.flags 5
def ew (x : MatDesc) : Bool := bitOf x.flags 6
def startC (x : MatDesc) : Bool := bitOf x.flags 7

/-- Columns of the final output. -/
def cols (x : MatDesc) : Nat := if x.chained then x.n2 else x.n

/-- Length of a row of A. -/
def aLen (x : MatDesc) : Nat := if x.ew then x.n else x.k

/-- Order 2 of Table 12 of 03 (R105, R106). A T chain counts as a chain beside START_C. Log entry 50. -/
def flagsBad (x : MatDesc) (d : Bytes) : Bool :=
  decide (255 < x.flags) || !zeroRange d 96 100 || !zeroRange d 102 128 || (!x.chained && !zeroRange d 64 102) ||
    (x.exact && x.splitOk) ||
    (x.startC && (x.chain != 0 || x.tChain != 0 || x.c != 1 || isFp8 x.a || isFp8 x.b)) ||
    (x.ew && (x.chained || x.packed || x.k != 1))

/-- Order 3: the format checks (R45, R58, R59, R138). Where several apply at once the model answers for the reserved code
first, then for the operand, then for the pairing, and for a result format outside 0x01 to 0x03 without a chain as for an
operand. Log entry 50. -/
def formatCode (x : MatDesc) : Option Code :=
  if ([x.a, x.b, x.c] ++ if x.chained then [x.b2Fmt, x.tFmt] else []).any fmtReserved then some Err.formatReserved
  else if x.a < 2 ∨ isCode x.a ∨ x.b < 2 ∨ (x.ew ∧ isCode x.b) ∨ (x.chained ∧ x.b2Fmt < 2) ∨ (x.chain = 0 ∧ !isFloat x.c) then
    some Err.formatNotOperand
  else if !pairing x.a x.b then some Err.formatMismatch
  else none

/-- Order 4 (R98, R139). -/
def modeBad (x : MatDesc) : Bool :=
  decide (4 < x.mode) || (x.mode == 4 && (isCode x.b || (x.chained && isCode x.b2Fmt))) || (x.ew && decide (1 < x.mode))

/-- A format T may be held in (R130). -/
def tFmtOk (x : MatDesc) : Bool := x.tFmt == 2 || x.tFmt == 3 || isMx x.tFmt

/-- The modes MODE may choose from (R98, R99). -/
def modes (x : MatDesc) : List Nat :=
  if x.mode ≠ 0 then [x.mode] else if isCode x.b ∨ isCode x.b2Fmt then [1, 2, 3] else [1, 2, 3, 4]

/-- Slices of T in a mode (R133). -/
def slicesIn (x : MatDesc) (mode : Nat) : Option Nat :=
  slicesOf ((arrayMode mode).kt * (classDC x.tFmt x.b2Fmt).1) x.tFmt x.n

/-- Order 6 (R133). -/
def shapeBad (x : MatDesc) : Bool :=
  !decide (1 ≤ x.mMax ∧ x.mMax ≤ 2 ^ 24) || !decide (1 ≤ x.n ∧ x.n ≤ 2 ^ 20) || !decide (1 ≤ x.k ∧ x.k ≤ 2 ^ 20) ||
    (x.chained && (!decide (1 ≤ x.n2 ∧ x.n2 ≤ 2 ^ 20) || (x.tFmtOk && x.modes.all fun m => (x.slicesIn m).isNone)))

/-- Order 7 (R108); `stages` are those of the chain as far as it can be read, for the STOREs to C (R204). -/
def layoutBad (x : MatDesc) (stages : List Stage) : Bool :=
  !vaOk x.list || !ldOk x.a x.aLen x.lda || !ldOk x.b x.aLen x.ldb || ownLdBad x.chain x.c stages x.cols x.ldc ||
    (x.chained && (!ldOk x.b2Fmt x.n x.ldb2 || !addrOk x.b2 || !addrOk x.b2s))

/-- Order 8 (R130). A pairing of T_FMT with B2_FMT outside Table 3 of 02 is judged here, as R130 says of it, and not as the
FORMAT_MISMATCH of R58. Log entry 50. -/
def intermediateBad (x : MatDesc) : Bool := x.chained && (!x.tFmtOk || !pairing x.tFmt x.b2Fmt)

/-- Order 10 (R123): a chained product whose rows of T do not fit whole. -/
def splitMissing (x : MatDesc) : Bool :=
  x.chained && x.tFmtOk && !sliceFits x.tFmt x.n && (x.exact || !x.splitOk)

/-- Table 12 of 03 in its order; NOT_PRESENT of the cores first (R145). `adapters`: a triple names an adapter. -/
def check (x : MatDesc) (s : State) (noCores adapters : Bool) (stages : List Stage) (d : Bytes) : Option Code :=
  if noCores then some Err.coreNotPresent
  else if (x.packed ∨ x.packed2 ∨ adapters) ∧ !s.hasExpanders then some Err.exNotPresent
  else if x.flagsBad d then some Err.flagsConflict
  else
    match x.formatCode with
    | some code => some code
    | none =>
      firstBad [(x.modeBad, Err.modeInvalid), (x.cnt == 0 || decide (256 < x.cnt) || x.list % 64 != 0, Err.listRange),
        (x.shapeBad, Err.shapeRange), (x.layoutBad stages, Err.layoutInvalid), (x.intermediateBad, Err.intermediateInvalid),
        (x.splitMissing, Err.ksplitRequired)]

end MatDesc

/-- What the chain of CHAIN_ADDR is judged for. -/
def MatDesc.use (x : MatDesc) : ChainUse :=
  { n := x.cols, k := x.aLen, aFmt := some x.a, items := x.cnt, result := x.c, isT := false, ownOk := true,
    staging := if x.packed ∨ x.packed2 then 524288 else 0 }

/-- What the T chain is judged for. -/
def MatDesc.useT (x : MatDesc) : ChainUse :=
  { n := x.n, k := x.k, aFmt := none, items := x.cnt, result := 0, isT := true, ownOk := true, staging := 0 }

/-! ### Triples (R107 to R110, R343) -/

/-- An operand triple (Table 7 of 03) with its place in the list. -/
structure Triple where
  pos    : Nat
  a      : Nat
  aScale : Nat
  b      : Nat
  bScale : Nat
  ad     : Nat
  c      : Nat
  m      : Nat
  ta     : Word
  tb     : Word
  item   : Nat
  deriving DecidableEq, Repr

/-- A triple's bytes read as one. -/
def parseTriple (i : Nat) (b : Bytes) : Triple :=
  { pos := i, a := leAt b 0 8, aScale := leAt b 8 8, b := leAt b 16 8, bScale := leAt b 24 8, ad := leAt b 32 8,
    c := leAt b 40 8, m := leAt b 48 4, ta := BitVec.ofNat 32 (leAt b 52 4), tb := BitVec.ofNat 32 (leAt b 56 4),
    item := leAt b 60 2 }

/-- The addresses of B, its packed-tensor descriptor and adapter keep R108 and the tables of 07. -/
def Triple.weightOk (t : Triple) (packed : Bool) : Bool :=
  if packed then t.b % 64 == 0 && vaOk t.b && t.ad % 16 == 0 && vaOk t.ad else addrOk t.b && t.ad == 0

/-- R109: the shape of a triple. -/
def Triple.bad (t : Triple) (x : MatDesc) (b : Bytes) : Bool :=
  !zeroRange b 62 64 || decide (x.mMax < t.m) || !addrOk t.a || !addrOk t.aScale || !addrOk t.c || !addrOk t.bScale ||
    !t.weightOk x.packed || (!isMx x.a && t.aScale != 0) ||
    (!x.packed && !isMx x.b && !isCode x.b && t.bScale != 0) || !scalePresent x.a t.ta || !scalePresent x.b t.tb

/-- R109: a scale that is present and breaks R57. -/
def Triple.scaleBad (t : Triple) (x : MatDesc) : Bool :=
  (isFp8 x.a && !fposNormal t.ta) || (isFp8 x.b && !fposNormal t.tb)

/-- The packed weight of a triple with its adapter (R340, R343). -/
structure Drawn where
  tensor  : PackTensor
  adapter : Option Adapter
  deriving DecidableEq, Repr

/-- A packed tensor that serves a product of `k` by `n` in a format. -/
def PackTensor.fits (p : PackTensor) (fmt k n : Nat) : Bool := p.fmt == fmt && p.k == k && p.n == n

/-- The packed weight a triple names, or why it is refused. -/
def State.drawnOf (s : State) (ctx : Nat) (x : MatDesc) (t : Triple) : Except Code (Option Drawn) :=
  if !x.packed then .ok none
  else if t.bScale ≠ 0 then .error Err.packedInvalid
  else
    match s.readPack ctx t.b with
    | .error e => .error e
    | .ok p =>
      if !p.fits x.b x.k x.n then .error Err.packedInvalid
      else (s.readAdapter? ctx t.ad p t.tb).map fun a => some { tensor := p, adapter := a }

/-- A triple judged when the command begins: whether its ITEM names an item, and its weight or its code (R109, R467). -/
structure JudgedTriple where
  t      : Triple
  itemOk : Bool
  drawn  : Except Code (Option Drawn)
  live   : Bool                       -- it has rows, and its owner is not stopped (R110, R448)
  deriving DecidableEq

/-- One triple judged. One that reads nothing has its packed weight not looked at (R110, R448). -/
def State.judgeTriple (s : State) (c : Ctx) (x : MatDesc) (i : Nat) (b : Bytes) : JudgedTriple :=
  let t := parseTriple i b
  let live := decide (0 < t.m) && !s.itemStopped c t.item
  { t := t, itemOk := c.itemOk t.item, live := live,
    drawn :=
      if !c.itemOk t.item ∨ t.bad x b then .error Err.tripleInvalid
      else if t.scaleBad x then .error Err.scaleInvalid
      else if live then s.drawnOf c.num x t
      else .ok none }

/-- A triple that is planned and run. -/
def JudgedTriple.runs (j : JudgedTriple) : Bool :=
  j.live && match j.drawn with
    | .ok _ => true
    | .error _ => false

/-! ### Planning (R99, R111, R119 to R123, R132, R133) -/

/-- What identifies a weight group (R111). -/
def Triple.group (t : Triple) : Nat × Nat × Nat × Word := (t.b, t.bScale, t.ad, t.tb)

/-- The weight groups, in the order of their first triples, each in list order. -/
def tripleGroups (ts : List Triple) : List (List Triple) :=
  ((ts.map Triple.group).reverse.dedup.reverse).map fun g => ts.filter fun t => t.group == g

/-- Row tiles of a triple. -/
def Triple.tiles (t : Triple) : Nat := cdiv t.m 128

/-- Where a triple's rows stand: its place in the list, the passes before its weight group, and the row tiles of its group
before it. -/
structure TriplePlace where
  pos  : Nat
  pass : Nat
  off  : Nat
  deriving DecidableEq, Repr

/-- The places of the triples of a group, from the passes and row tiles before them. -/
def placesOf (pass : Nat) : Nat → List Triple → List TriplePlace
  | _, [] => []
  | off, t :: ts => { pos := t.pos, pass := pass, off := off } :: placesOf pass (off + t.tiles) ts

/-- The places of the triples of some groups, with `per` row tiles a pass. -/
def groupPlaces (per : Nat) : Nat → List (List Triple) → List TriplePlace
  | _, [] => []
  | pass, g :: gs =>
    placesOf pass 0 g ++ groupPlaces per (pass + cdiv ((g.map Triple.tiles).sum) per) gs

/-- What an expander takes for each block of a packed weight. -/
def State.supplyOf (s : State) (ctx : Nat) (d : Drawn) : Supply :=
  let p := d.tensor
  { kb := blockSpanOf p.fmt,
    t := (List.range (cdiv p.n 128)).map fun j => (List.range p.spans).map fun i =>
      s.spanCycles ctx p d.adapter (p.block (j * p.spans + i)) }

/-- Core cycles in which a quad's cores draw one expander cycle each: the most cores that one of its quads gives the
command, at the slowest of their clocks (R353). Log entry 27. -/
def State.drawRate (s : State) (cores : List Nat) (cls : Nat) : Rat :=
  let q := (List.range 32).foldl (fun a i => max a (cores.filter fun c => c / 4 == i).length) 1
  let f := (cores.map fun i => (s.cores.getD i (Core.reset false)).classKhz (s.classInForce cls)).foldl min 725000
  ((q * f : Nat) : Rat) / 1000000

/-- Lane-cycles per element of the scaling of R73, and of the conversion of R131. -/
def scaleCost (a b : Nat) : Nat := bit (isFp8 a || isFp8 b)
def convertCost (fmt : Nat) : Nat := if isMx fmt then 2 else 1

/-- What the firmware plans with: the chains, the triples that run, the supply of the weight groups and of B2, the rate at
which expander cycles pass, cores. -/
structure MatPlanning where
  chain : Option Chain
  tCh   : Option Chain
  ts    : List Triple
  first : List Supply
  second : List Supply
  draw  : Rat
  cores : Nat
  deriving DecidableEq, Repr

/-- The epilogue of a chain that may be absent, and its prologue. -/
def epilogueOf (c : Option Chain) : List Stage := (c.map Chain.epilogue).getD []
def prologueOf (c : Option Chain) : List Stage := (c.map Chain.prologue).getD []
def areaOf (c : Option Chain) : Nat := (c.map Chain.area).getD 0

/-- The job of the first product, or of the only one. -/
def MatDesc.job (x : MatDesc) (v : MatPlanning) : PlanJob :=
  let last := if x.chained then v.tCh else v.chain
  { aFmt := x.a, bFmt := x.b, n := x.n, k := x.k, col := 0,
    groups := (tripleGroups v.ts).map fun g => g.map fun t => t.m,
    ew := x.ew, startC := x.startC, pro := prologueOf v.chain, epi := epilogueOf last,
    own := last.any Chain.usesOwn, area := areaOf v.chain + areaOf v.tCh,
    staging := if x.packed ∨ x.packed2 then 524288 else 0, extra := scaleCost x.a x.b,
    conv := if x.chained then convertCost x.tFmt else 0, supply := v.first, draw := v.draw,
    split := x.splitOk && !x.exact && !x.chained, cores := v.cores }

/-- The job of the second product: T's rows against B2. -/
def MatDesc.job2 (x : MatDesc) (v : MatPlanning) : PlanJob :=
  { x.job v with aFmt := x.tFmt, bFmt := x.b2Fmt, n := x.n2, k := x.n, startC := false, pro := [],
                 epi := epilogueOf v.chain, own := v.chain.any Chain.usesOwn, extra := 0, conv := 0, supply := v.second }

/-- The plan of a MATMUL (R99, R132, R133, R232). -/
def MatDesc.planOf (x : MatDesc) (v : MatPlanning) : MatPlan :=
  if x.chained then ({ first := x.job v, second := x.job2 v } : ChainedJob).plan x.mode else (x.job v).plan x.mode

/-- The parts of K as ranges of k. -/
def MatPlan.parts (p : MatPlan) (k : Nat) : List (Nat × Nat) :=
  if p.p ≤ 1 then [(0, k)]
  else (List.range p.p).map fun i =>
    (p.lo.getD i 0 * p.kt, if i + 1 < p.p then p.lo.getD (i + 1) 0 * p.kt else k)

/-- The statistics a plan gives (Table 11 of 09); `shares` are the rows of the owners of its items. -/
def CmdRec.planned (r : CmdRec) (p : MatPlan) (chain : Option Chain) (shares : List (Nat × Nat)) : CmdRec :=
  { r with mode := p.mode, plan := p.plan, p := p.p, cores := p.deal.dedup.length, shares := shares,
           chainTag := (chain.map fun c => c.tag).getD 0, partLo := (List.range 8).map fun i => p.lo.getD i 0 }

/-! ### Products -/

/-- A matrix of one part of K of the output elements, from rows of A and columns of B (R71, R97, R115). -/
def productPart (code : Bool) (part : Nat × Nat) (start : Option Mat) (a b : List Row) : Mat :=
  a.mapIdx fun m ra => b.mapIdx fun n rb =>
    let s0 := match start with
      | some x => (x.getD m []).getD n 0
      | none => 0
    dotPart code part.1 part.2 s0 ra rb

/-- A part of a product: its range of k, its start values, its accumulators. -/
structure PartMat where
  lo    : Nat
  hi    : Nat
  start : Option Mat
  acc   : Mat
  deriving DecidableEq, Repr

/-- The parts of a product: part 0 from the start values, the others from +0 (R121). -/
def productParts (code : Bool) (parts : List (Nat × Nat)) (start : Option Mat) (a b : List Row) : List PartMat :=
  parts.mapIdx fun i p =>
    let s0 := if i = 0 then start else none
    { lo := p.1, hi := p.2, start := s0, acc := productPart code p s0 a b }

/-- The parts added in order into part 0 (R121). -/
def joinParts : List PartMat → Mat
  | [] => []
  | p :: ps => ps.foldl (fun acc q => zipMat fadd acc q.acc) p.acc

/-- The k at which an output element of a part first turns NaN. -/
def firstNan (code : Bool) (lo hi : Nat) (start : Word) (a b : Row) : Nat :=
  let unit := addendK code
  let l := partOfSums unit lo hi (addends code a b)
  if code then
    match (partOfSums 32 lo hi (groupSums a b)).findIdx? fisNan with
    | some j => lo + 32 * j
    | none => nanAt unit lo start l
  else nanAt unit lo start l

/-- The array of a tile by its column tile and k; `q` runs share a unit's rows (Table 4 of 03; 04, R174). -/
def arrayOf (mode d q run ct k : Nat) : Nat :=
  match mode with
  | 2 => 2 * ((ct / 2 * q + run) % 2) + ct % 2
  | 3 => ct % 2 + 2 * (k / (128 * d) % 2)
  | 4 => ct / 4 % 4
  | _ => (ct * q + run) % 4

/-- The row of no elements. -/
def Row.empty : Row := { vals := [], xs := [], groups := [] }

/-- How the arrays run a product: mode, d, runs of a unit, length of the k that a tap restarts, weight codes. -/
structure ArrayUse where
  mode : Nat
  d    : Nat
  q    : Nat
  tapK : Nat
  code : Bool
  deriving DecidableEq, Repr

/-- The value of a start matrix, +0 without one. -/
def startAt (start : Option Mat) (m n : Nat) : Word :=
  match start with
  | some x => (x.getD m []).getD n 0
  | none => 0

/-- The NaN events of the arrays over a part of K: one for each output tile whose operands hold a NaN or which turns NaN
(R83, R84, R127). -/
def arrayEvents (u : ArrayUse) (tiles : List Tile) (a b : List Row) (p : PartMat) : List NanEvent :=
  tiles.filterMap fun t =>
    let cs := (List.range t.cn).map fun i => t.c0 + i
    let bad : List (Nat × Nat) :=
      (t.rows.map fun m => (cs.filter fun c => fisNan ((p.acc.getD m []).getD c 0)).map fun c => (m, c)).flatten
    let read : Bool :=
      (t.rows.any fun m => (a.getD m Row.empty).nanIn p.lo p.hi) || (cs.any fun c => (b.getD c Row.empty).nanIn p.lo p.hi) ||
      t.rows.any fun m => cs.any fun c => fisNan (startAt p.start m c)
    if bad.isEmpty ∧ !read then none
    else
      let ks := bad.map fun q =>
        firstNan u.code p.lo p.hi (startAt p.start q.1 q.2) (a.getD q.1 Row.empty) (b.getD q.2 Row.empty)
      let k := ks.foldl min (ks.headD p.lo)
      some { kind := if read then 1 else 2, unit := 1, stage := arrayOf u.mode u.d u.q t.run (t.c0 / 128) (k % u.tapK),
             row := t.row, col := t.c0, k := k, outer := t.outer, phase := 1, tile := [t.outer, t.row, t.c0] }

/-- The events of the NaNs that adding the parts makes, on the core of part 0: KIND 2, at the first k of the part added; a
part that is a NaN already had its own event. Log entry 43. -/
def joinEvents (u : ArrayUse) (tiles : List Tile) : Mat → List PartMat → List NanEvent
  | _, [] => []
  | acc, p :: ps =>
    let sum := zipMat fadd acc p.acc
    let marks := zipMat (fun x y => if x then 0 else if fisNan y then 2 else 0)
      (zipMat (fun x y => fisNan x || fisNan y) acc p.acc) sum
    ((stageEvents tiles 0 marks).map fun e =>
      { e with unit := 1, stage := arrayOf u.mode u.d u.q 0 (e.col / 128) (p.lo % u.tapK), k := p.lo, phase := 1,
               step := p.lo }) ++ joinEvents u tiles sum ps

/-- The scaling of R73: the matrix, and the events of the NaNs it makes. It stands before every stage and has no stage number
of its own: UNIT 2, STAGE 0. A NaN accumulator that it reads had its event in the arrays. Log entry 43. -/
def scaleMat (x : Mat) (c : Option Word) (tiles : List Tile) : Mat × List NanEvent :=
  match c with
  | none => (x, [])
  | some c =>
    let y := mapMat (fun v => fmul v c) x
    (y, (stageEvents tiles 0 (zipMat (fun a b => if fisNan a then 0 else if fisNan b then 2 else 0) x y)).map fun e =>
      { e with step := 0 })

/-- c of R73. -/
def tensorFactor (a b : Nat) (ta tb : Word) : Option Word :=
  if isFp8 a ∨ isFp8 b then some (if isCode b then ta else fmul ta tb) else none

/-- An element-wise product (R136, R137). -/
def ewMat (start : Option Mat) (a b : List Row) (n : Nat) : Mat :=
  (List.zipWith (fun x y => (x, y)) a b).mapIdx fun m p => (List.range n).map fun i =>
    let v := rnd32 (Val.mul (p.1.val i) (p.2.val i))
    match start with
    | some s => fadd ((s.getD m []).getD i 0) v
    | none => v

/-- The events of an element-wise product. -/
def ewEvents (start : Option Mat) (a b : List Row) (acc : Mat) (n : Nat) : List NanEvent :=
  let read (m i : Nat) : Bool :=
    ((a.getD m Row.empty).val i).isNan ||
      ((b.getD m Row.empty).val i).isNan ||
      match start with
      | some s => fisNan ((s.getD m []).getD i 0)
      | none => false
  let marks := acc.mapIdx fun m r => r.mapIdx fun i v => nanMark (read m i) (fisNan v)
  (stageEvents (grid acc.length n) 0 marks).map fun e => { e with unit := 1, stage := e.col / 128 % 4, phase := 1 }

/-- A conversion that goes on as stored elements: the rows read back, and the events of the NaNs it makes, in tiles where
the stage before has none (R83, R131, R213), under the number of the stage before it. Log entry 43. -/
def convertRows (fmt stage : Nat) (tiles : List Tile) (x : Mat) : List Row × List NanEvent :=
  let rows := x.map (readBack fmt false 0)
  let marks := zipMat (fun a b => if fisNan a then 1 else if fisNan b then 2 else 0) x (rows.map Row.words)
  (rows, ((stageEvents tiles stage marks).filter fun e => e.kind == 2).map fun e => { e with step := 64 })

/-! ### An item's work -/

/-- What a MATMUL's items share. -/
structure MatEnv where
  x      : MatDesc
  chain  : Option Chain
  tCh    : Option Chain
  b2     : Option Drawn
  plan   : MatPlan
  cores  : List Nat
  places : List TriplePlace
  deriving DecidableEq, Repr

/-- Where a triple's rows stand. -/
def MatEnv.placeOf (v : MatEnv) (t : Triple) : TriplePlace :=
  (v.places.find? fun p => p.pos == t.pos).getD { pos := t.pos, pass := 0, off := 0 }

/-- The pass of a row of a triple. -/
def MatEnv.passAt (v : MatEnv) (t : Triple) (row : Nat) : Nat :=
  (v.placeOf t).pass + ((v.placeOf t).off + row / 128) / max 1 v.plan.per

/-- The passes that hold a triple's rows. -/
def MatEnv.passesOf (v : MatEnv) (t : Triple) : List Nat :=
  (List.range (v.passAt t (128 * (t.tiles - 1)) + 1)).drop (v.passAt t 0)

/-- The unit of a pass that has a column, for a part. -/
def MatEnv.unitAt (v : MatEnv) (pass col part : Nat) : Nat :=
  (pass * v.plan.cgs + if v.plan.cgs ≤ 1 then 0 else col / v.plan.cw) * v.plan.p + part

/-- The core of a unit. -/
def MatEnv.coreAt (v : MatEnv) (u : Nat) : Nat := v.cores.getD (v.plan.deal.getD u 0) 0

/-- An event of a triple's tile put on its core, in a phase, for a part. -/
def MatEnv.stamp (v : MatEnv) (t : Triple) (phase part : Nat) (e : NanEvent) : NanEvent :=
  let u := v.unitAt (v.passAt t e.row) e.col part
  { e with inst := v.coreAt u, seq := u, phase := phase }

/-- Parts whose range along K or T meets some positions. -/
def MatPlan.partsMeeting (p : MatPlan) (lo hi : Nat) : List Nat :=
  if p.p ≤ 1 then [0]
  else (List.range p.p).filter fun i =>
    decide (p.lo.getD i 0 * p.kt < hi) && (i + 1 == p.p || decide (lo < p.lo.getD (i + 1) 0 * p.kt))

/-- One unit for each core among some units. -/
def MatEnv.perCore (v : MatEnv) (us : List Nat) : List Nat :=
  us.foldl (fun l u => if l.any fun w => v.coreAt w == v.coreAt u then l else l ++ [u]) []

/-- The units of a pass that take part of its rows of A, from the k of a block of it. -/
def MatEnv.proUnits (v : MatEnv) (pass k : Nat) : List Nat :=
  let parts := if v.x.chained then List.range v.plan.p else v.plan.partsMeeting k (k + 128)
  ((List.range v.plan.cgs).map fun cg => parts.map fun i => (pass * v.plan.cgs + cg) * v.plan.p + i).flatten

/-- The events of a prologue: every core that takes units of a pass applies it to that pass's rows (R214, R215). -/
def MatEnv.proEvents (v : MatEnv) (t : Triple) (ev : List NanEvent) : List NanEvent :=
  (ev.map fun e => (v.perCore (v.proUnits (v.passAt t e.row) e.col)).map fun u =>
    { e with inst := v.coreAt u, seq := u, phase := 0 }).flatten

/-- The units of a pass that draw a block of the weight. -/
def MatEnv.drawUnits (v : MatEnv) (pass : Nat) (b : Block) : List Nat :=
  let parts := if v.x.chained then v.plan.partsMeeting b.c0 (b.c0 + b.cn) else v.plan.partsMeeting b.k0 (b.k0 + b.kn)
  parts.map fun i => v.unitAt pass b.c0 i

/-- The expander that delivers a block to a pass of a triple. -/
def MatEnv.expanderOf (v : MatEnv) (t : Triple) (b : Block) : Nat :=
  v.coreAt ((v.drawUnits (v.passAt t 0) b).headD 0) / 4

/-- The passes whose first rows are a triple's: their weights are counted with it (R84). Log entry 43. -/
def MatEnv.ownPasses (v : MatEnv) (t : Triple) : List Nat :=
  let p := v.placeOf t
  (v.passesOf t).filter fun i => decide (p.off ≤ (i - p.pass) * v.plan.per)

/-- The events of the spans that a triple's weight came in: one for each unit they were delivered to (R341). -/
def MatEnv.spanEvents (v : MatEnv) (t : Triple) (spans : List Span) : List NanEvent :=
  ((v.ownPasses t).map fun pass => (spans.map fun sp => (v.drawUnits pass sp.block).filterMap fun u =>
    sp.event? (v.coreAt u / 4) u).flatten).flatten

/-- The quads whose cores take a triple's units. -/
def MatEnv.quadsOf (v : MatEnv) (t : Triple) : List Nat :=
  (((v.passesOf t).map fun pass => (List.range (v.plan.cgs * v.plan.p)).map fun i =>
    v.coreAt (pass * v.plan.cgs * v.plan.p + i) / 4).flatten).dedup

/-- Plane of A, of raw B, of raw B2, and of C in a format. -/
def MatDesc.planeA (x : MatDesc) (t : Triple) : Plane :=
  { addr := t.a, fmt := x.a, len := x.aLen, ld := x.lda, saddr := t.aScale }
def MatDesc.planeB (x : MatDesc) (t : Triple) : Plane :=
  { addr := t.b, fmt := x.b, len := x.aLen, ld := x.ldb, saddr := t.bScale }
def MatDesc.planeB2 (x : MatDesc) : Plane :=
  { addr := x.b2, fmt := x.b2Fmt, len := x.n, ld := x.ldb2, saddr := x.b2s }
def MatDesc.planeC (x : MatDesc) (t : Triple) (fmt saddr : Nat) : Plane :=
  { addr := t.c, fmt := fmt, len := x.cols, ld := x.ldc, saddr := saddr }

/-- The item's own output as a STORE with ADDR 0 sees it (R204). -/
def MatDesc.ownPlane (x : MatDesc) (t : Triple) (g : Stage) : Plane :=
  x.planeC t g.ifmt (if isMx g.ifmt then g.scalesAt t.pos g.pd else 0)

/-- A STORE to the item's own output. -/
def MatDesc.ownStore (x : MatDesc) (t : Triple) : OwnStore := fun g m => storeOwn (x.ownPlane t g) g m

/-- The rows of A after the prologue, with its events (R211 to R215). -/
def State.matA (s : State) (ctx : Nat) (v : MatEnv) (t : Triple) : Except Halt (List Row × List NanEvent) := do
  let rows ← atOnce (s.readRows ctx (v.x.planeA t) t.m)
  match (prologueOf v.chain).getLast? with
  | none => .ok (rows, [])
  | some last =>
    let e : ChainEnv := { ctx := ctx, i := t.pos, m := t.m, n := v.x.aLen }
    let tiles := grid t.m v.x.aLen
    let f ← (s.runStages e tiles noOwn (prologueOf v.chain) (Flow.start (rows.map Row.words))).mapError
      fun h => (h.1, v.proEvents t h.2)
    let c := convertRows v.x.a last.idx tiles f.x
    .ok (c.1, v.proEvents t (f.events ++ c.2))

/-- The columns of B: raw, or as the expanders deliver them. -/
def State.matB (s : State) (ctx : Nat) (v : MatEnv) (t : Triple) (d : Option Drawn) : Except Stop Delivered :=
  match d with
  | none => do
    let rows ← s.readRows ctx (v.x.planeB t) (if v.x.ew then t.m else v.x.n)
    .ok { rows := rows, spans := [] }
  | some d => s.deliver ctx (v.expanderOf t) d.tensor d.adapter t.tb

/-- The columns of B2. -/
def State.matB2 (s : State) (ctx : Nat) (v : MatEnv) (t : Triple) : Except Stop Delivered :=
  match v.b2 with
  | none => do
    let rows ← s.readRows ctx v.x.planeB2 v.x.n2
    .ok { rows := rows, spans := [] }
  | some d => s.deliver ctx (v.expanderOf t) d.tensor none 0

/-- The start values of the accumulators (R115). In a chained product they are those of the first product, from the columns
that C has; beyond them it starts from +0. Log entry 50. -/
def State.matStart (s : State) (ctx : Nat) (v : MatEnv) (t : Triple) : Except Stop (Option Mat) :=
  if v.x.startC then do
    let p := v.x.planeC t 1 0
    let rows ← s.readRows ctx { p with ld := p.stride, len := min p.len v.x.n } t.m
    .ok (some (rows.map Row.words))
  else .ok none

/-- The product of rows by columns over the parts of K, with its events; `phase` is that of its arrays. -/
def MatEnv.product (v : MatEnv) (t : Triple) (u : ArrayUse) (phase n : Nat) (parts : List (Nat × Nat)) (start : Option Mat)
    (a b : List Row) : Mat × List NanEvent :=
  let ps := productParts u.code parts start a b
  let tiles := grid t.m n
  let each := (ps.mapIdx fun i p => (arrayEvents u tiles a b p).map (v.stamp t phase i)).flatten
  let joined := match ps with
    | [] => []
    | p :: rest => (joinEvents u tiles p.acc rest).map (v.stamp t phase 0)
  (joinParts ps, each ++ joined)

/-- A second product from the first's accumulators (R130 to R135): the values, the events of its way, what its chain wrote. -/
def State.secondProduct (s : State) (ctx : Nat) (v : MatEnv) (t : Triple) (x : Mat) :
    Except Halt (Mat × List NanEvent × List (Nat × Bytes)) := do
  let e : ChainEnv := { ctx := ctx, i := t.pos, m := t.m, n := v.x.n }
  let tiles := grid t.m v.x.n
  let stages := epilogueOf v.tCh
  let put (l : List NanEvent) : List NanEvent := l.map fun e => v.stamp t 2 (v.plan.partAt e.col) e
  let f ← (s.runStages e tiles noOwn stages (Flow.start x)).mapError fun h => (h.1, put h.2)
  let tr := convertRows v.x.tFmt (stages.length - 1) tiles f.x
  let ev := put (f.events ++ tr.2)
  let b ← afterEvents ev (atOnce (s.matB2 ctx v t))
  let u : ArrayUse :=
    { mode := v.plan.mode, d := (classDC v.x.tFmt v.x.b2Fmt).1, q := 1, tapK := v.x.n + 256, code := isCode v.x.b2Fmt }
  let r := v.product t u 3 v.x.n2 (v.plan.parts v.x.n) none tr.1 b.rows
  .ok (r.1, ev ++ r.2, f.writes)

/-- The first product of a triple, or its only one, scaled, with its events (R104 to R137). -/
def State.firstProduct (s : State) (ctx : Nat) (v : MatEnv) (t : Triple) (d : Option Drawn) :
    Except Halt (Mat × List NanEvent) := do
  let x := v.x
  let a ← s.matA ctx v t
  let b ← afterEvents a.2 (atOnce (s.matB ctx v t d))
  let ev := a.2 ++ v.spanEvents t b.spans
  let start ← afterEvents ev (atOnce (s.matStart ctx v t))
  let u : ArrayUse := { mode := v.plan.mode, d := (classDC x.a x.b).1, q := 1, tapK := x.k + 256, code := isCode x.b }
  let put (phase : Nat) (e : NanEvent) : NanEvent := v.stamp t phase (if x.chained then v.plan.partAt e.col else 0) e
  let r : Mat × List NanEvent :=
    if x.ew then
      let acc := ewMat start a.1 b.rows x.n
      (acc, (ewEvents start a.1 b.rows acc x.n).map (put 1))
    else if x.chained then
      let ps := productParts u.code [(0, x.k)] start a.1 b.rows
      (joinParts ps, ((ps.map (arrayEvents u (grid t.m x.n) a.1 b.rows)).flatten).map (put 1))
    else v.product t u 1 x.n (v.plan.parts x.k) start a.1 b.rows
  let sc := scaleMat r.1 (tensorFactor x.a x.b t.ta t.tb) (grid t.m x.n)
  .ok (sc.1, ev ++ r.2 ++ sc.2.map (put 2))

/-- The work of a triple: its products, its chain, what it stores (R104 to R137, R201 to R228). -/
def State.matWork (s : State) (ctx : Nat) (v : MatEnv) (t : Triple) (d : Option Drawn) : Except Halt Work := do
  let x := v.x
  let one ← s.firstProduct ctx v t d
  let fin ← if x.chained then afterEvents one.2 (s.secondProduct ctx v t one.1) else .ok (one.1, [], [])
  let before := one.2 ++ fin.2.1
  match v.chain with
  | none => .ok { writes := fin.2.2 ++ storeRows (x.planeC t x.c 0) false 0 fin.1, pushes := [], events := before }
  | some c =>
    let e : ChainEnv := { ctx := ctx, i := t.pos, m := t.m, n := x.cols }
    let put (l : List NanEvent) : List NanEvent := before ++ l.map (v.stamp t (if x.chained then 4 else 2) 0)
    let f ← (s.runStages e (grid t.m x.cols) (x.ownStore t) c.epilogue (Flow.start fin.1)).mapError fun h => (h.1, put h.2)
    .ok { writes := fin.2.2 ++ f.writes, pushes := f.pushes, events := put f.events }

/-- What a packed weight occupies: its descriptor, its planes or its stream with index and tables, and its adapter. -/
def Drawn.runs (d : Drawn) : List (Nat × Nat) :=
  let p := d.tensor
  [(p.addr, 128), (p.elem, if p.saffron then 16 * p.streamEnd else p.n * rowBytes p.fmt p.k),
    (p.scale, p.n * scaleBytes p.fmt p.k)] ++
    (if p.saffron then [(p.index, 4 * p.blocks), (p.tables, 320)] else []) ++
    match d.adapter with
    | none => []
    | some a => [(a.addr, 64), (a.u, a.k * rowBytes a.fmt a.rank), (a.v, a.n * rowBytes a.fmt a.rank)]

/-- What a triple reads, the C of START_C apart (R129). -/
def MatEnv.ins (v : MatEnv) (ctx : Nat) (t : Triple) (d : Option Drawn) : List Piece :=
  let x := v.x
  let e (n : Nat) : ChainEnv := { ctx := ctx, i := t.pos, m := t.m, n := n }
  let b : Piece := match d with
    | some d => { idx := 0, plane := none, runs := d.runs }
    | none => { (x.planeB t).part 0 (if x.ew then t.m else x.n) with plane := none }
  let b2 : List Piece :=
    if !x.chained then []
    else match v.b2 with
      | some d => [{ idx := 0, plane := none, runs := d.runs }]
      | none => [{ x.planeB2.part 0 x.n2 with plane := none }]
  let sides := match v.chain with
    | none => []
    | some c => c.stages.filterMap fun g => g.inPart (e (if g.prologue then x.aLen else x.cols))
  let tSides := match v.tCh with
    | none => []
    | some c => c.stages.filterMap fun g => g.inPart (e x.n)
  [{ (x.planeA t).part 0 t.m with plane := none }, b] ++ b2 ++ sides ++ tSides

/-- What a triple writes. -/
def MatEnv.outs (v : MatEnv) (ctx : Nat) (t : Triple) : List Piece :=
  let x := v.x
  let e (n : Nat) : ChainEnv := { ctx := ctx, i := t.pos, m := t.m, n := n }
  (match v.tCh with
    | none => []
    | some c => c.stages.filterMap fun g => g.outPart (e x.n) (x.ownPlane t) t.m) ++
  match v.chain with
    | none => [(x.planeC t x.c 0).part 0 t.m]
    | some c => c.epilogue.filterMap fun g => g.outPart (e x.cols) (x.ownPlane t) t.m

/-- A triple as an item of the command. -/
def State.matItem (s : State) (ctx : Nat) (v : MatEnv) (j : JudgedTriple) : CoreItem :=
  let outs := if j.live ∧ j.t.m ≤ v.x.mMax then v.outs ctx j.t else []
  match j.drawn with
  | .error code => .refused j.t.pos j.t.item j.itemOk outs code
  | .ok d =>
    if !j.live then .idle j.t.pos j.t.item j.itemOk
    else
      { pos := j.t.pos, item := j.t.item, itemOk := j.itemOk, ins := v.ins ctx j.t d, outs := outs,
        work := s.matWork ctx v j.t d }

/-! ### The command -/

/-- The chains of a MATMUL, or the first failure of Table 11 of 05 (R242). -/
def State.matChains (s : State) (ctx : Nat) (x : MatDesc) : Except Code (Option Chain × Option Chain) := do
  let c ← s.readChain? ctx x.chain x.use
  let t ← s.readChain? ctx x.tChain x.useT
  .ok (c, t)

/-- The packed B2 of a chained product (R343). -/
def State.matDrawn2 (s : State) (ctx : Nat) (x : MatDesc) : Except Code (Option Drawn) :=
  if !x.packed2 ∨ !x.chained then .ok none
  else
    match s.readPack ctx x.b2 with
    | .error e => .error e
    | .ok p =>
      if x.b2s ≠ 0 ∨ !p.fits x.b2Fmt x.n x.n2 then .error Err.packedInvalid
      else .ok (some { tensor := p, adapter := none })

/-- The packed weight of a triple that runs. -/
def JudgedTriple.drawn? (j : JudgedTriple) : Option Drawn :=
  match j.drawn with
  | .ok d => d
  | .error _ => none

/-- What the firmware plans a MATMUL with. -/
def State.matPlanning (s : State) (k : Cmd) (chains : Option Chain × Option Chain) (run : List JudgedTriple)
    (b2 : Option Drawn) (cores : List Nat) : MatPlanning :=
  let ts := run.map fun j => j.t
  let drawnOf (t : Triple) : Option Drawn := (run.find? fun j => j.t.pos == t.pos).bind JudgedTriple.drawn?
  { chain := chains.1, tCh := chains.2, ts := ts,
    first := (tripleGroups ts).filterMap fun g => (g.head?.bind drawnOf).map (s.supplyOf k.ctx),
    second := b2.toList.map (s.supplyOf k.ctx), draw := s.drawRate cores k.cls, cores := cores.length }

/-- The tables and factors that the expanders then hold, of the weights a command draws (R342). -/
def State.drawAll (s : State) (ctx : Nat) (v : MatEnv) (run : List JudgedTriple) : State :=
  let t1 := run.foldl (fun t j =>
    match j.drawn? with
    | some d => t.drawn ctx (v.quadsOf j.t) d.tensor d.adapter
    | none => t) s
  match v.b2 with
  | some d => t1.drawn ctx ((v.plan.deal.map fun i => v.cores.getD i 0 / 4).dedup) d.tensor none
  | none => t1

/-- A MATMUL judged and planned once its list is read (R109, R144, R333). -/
def State.matPlanned (s : State) (hw : RunHw) (c : Ctx) (k : Cmd) (x : MatDesc) (raw : Bytes)
    (chains : Option Chain × Option Chain) (b2 : Option Drawn) : CoreRun :=
  let cores := s.partCores c.partition
  let js := (List.range x.cnt).map fun i => s.judgeTriple c x i (sliceBytes raw (64 * i) 64)
  let run := js.filter JudgedTriple.runs
  let tensors := ((run.filterMap JudgedTriple.drawn? ++ b2.toList).map fun d => s.physOf k.ctx d.tensor.addr).dedup
  let plan := x.planOf (s.matPlanning k chains run b2 cores)
  let ts := run.map fun j => j.t
  let v : MatEnv :=
    { x := x, chain := chains.1, tCh := chains.2, b2 := b2, plan := plan, cores := cores,
      places := groupPlaces (max 1 plan.per) 0 (tripleGroups ts) }
  let b : Begun :=
    { k.begun with long := x.long, tensors := tensors, cores := cores, list := some raw,
                   unitMode := if x.ew then 5 else plan.mode,
                   record := k.record.planned plan chains.1 (rowShares c (ts.map fun t => (t.item, t.m))),
                   hw := { hw with expSram := if tensors.isEmpty then none else hw.expSram } }
  { state := s.drawAll k.ctx v run, begun := b, wait := s.mustWait k.ord none tensors,
    items := js.map (s.matItem k.ctx v), extra := [] }

/-- The operand list of a command: as read before a wait, or read now, once (R109). -/
def State.listOf (s : State) (k : Cmd) (addr n : Nat) : Except Code Bytes :=
  match k.list with
  | some b => .ok b
  | none => (s.vread k.ctx addr n).mapError fun f => f.1

/-- A triple of a list names an adapter, as far as the list can be read. -/
def State.namesAdapter (s : State) (k : Cmd) (x : MatDesc) : Bool :=
  match s.listOf k x.list (64 * min x.cnt 256) with
  | .error _ => false
  | .ok b => (List.range (min x.cnt 256)).any fun i => leAt b (64 * i + 32) 8 != 0

/-- A MATMUL judged and planned (R144, R333). -/
def State.matRun (hw : RunHw) (s : State) (c : Ctx) (k : Cmd) : Except Code CoreRun :=
  let x := parseMat k.desc
  let noCores := (s.partCores c.partition).isEmpty
  match x.check s noCores (s.namesAdapter k x) (s.peekChain k.ctx x.chain) k.desc with
  | some code => .error code
  | none => do
    let chains ← s.matChains k.ctx x
    let raw ← s.listOf k x.list (64 * x.cnt)
    let b2 ← s.matDrawn2 k.ctx x
    .ok (s.matPlanned hw c k x raw chains b2)

/-- MATMUL begun. -/
def matmulBody (hw : RunHw) (s : State) (c : Ctx) (k : Cmd) : State := s.runCore c k (s.matRun hw c k)

/-- MATMUL descriptors without ELEMENTWISE, and with it. -/
def isMatmul (ew : Bool) (d : Bytes) : Bool := isOpcode 1 d && (byteAt d 30).getLsbD 6 == ew

/-- MATMUL (R104). -/
def execMatmul (ctx : Nat) (hw : RunHw) (s : State) : Host.Outcome State Fault Refusal :=
  done s (s.runCmd ctx (isMatmul false) (matmulBody hw))

/-- MATMUL with ELEMENTWISE (R136). -/
def execMatmulElementwise (ctx : Nat) (hw : RunHw) (s : State) : Host.Outcome State Fault Refusal :=
  done s (s.runCmd ctx (isMatmul true) (matmulBody hw))

end Sys2Proof.Machine
end

