-- ==== Sys2Proof/Machine/Aperture.lean ====
section
/-! DEFINITION. Host writes through an aperture, with what they do to the commands that use a packed tensor (07, R335; 11,
R549, R550). -/
namespace Sys2Proof.Machine

open Sys2Proof

/-- The descriptor of a packed tensor at a physical address, with the index table, table records and stream of a Saffron
one, as physical runs. -/
def State.packRuns (s : State) (ctx a : Nat) : List (Nat × Nat) :=
  let p := parsePack 0 (s.loadBytes a 128)
  (a, 128) :: if p.saffron then s.physOfRuns ctx [(p.index, 4 * p.count), (p.tables, 320), (p.elem, 16 * p.cap)] false else []

/-- A begun command uses a packed tensor that some written bytes belong to. -/
def State.usesPack (s : State) (ctx : Nat) (b : Begun) (as : List Nat) : Bool :=
  !b.waiting && b.tensors.any fun t => (s.packRuns ctx t).any fun r => as.any fun a => decide (r.1 ≤ a ∧ a < r.1 + r.2)

/-- The items of a command that draw from packed tensors: those of a MATMUL's list; other commands have none. -/
def Begun.packItems (b : Begun) : List Nat :=
  if b.opcode = 1 then
    match b.list with
    | none => [noItem]
    | some raw => (List.range (raw.length / 64)).map fun i => (parseTriple i (sliceBytes raw (64 * i) 64)).item
  else [noItem]

/-- The codes a command may fault with when its packed tensor is written under it (R319, R320, R325). -/
def upsetCodes : List Code :=
  [Err.blockHeaderInvalid, Err.tableStale, Err.blockCheckFailed, Err.expandOverrun, Err.expandShort]

/-- A command whose packed tensor the host writes while it runs: what it delivers is unspecified, and it may fault, the
choice being free (R335). Log entry 4. -/
def State.upset (s : State) (n : Nat) (b : Begun) : State :=
  let (i, s1) := (s.scrambleOuts b.outs).choose (upsetCodes.length + 1)
  match upsetCodes[i]? with
  | none => s1
  | some code =>
    let items := b.packItems
    let (j, s2) := s1.choose items.length
    let free (k : Nat) : Nat := (Config.freeWord (s2.free + k)).toNat
    ({ s2 with free := s2.free + 5 } : State).itemFaultAt n b.build (items.getD j noItem)
      { code := code, cmdCtx := n, cmdIndex := b.index, opcode := b.opcode,
        detail := expanderDetail code (free 0) (free 1) (free 2) (free 3) (free 4) } b.policy

/-- The commands that use a packed tensor some written bytes belong to. -/
def State.packUsers (s : State) (as : List Nat) : List (Nat × Begun) :=
  (s.ctxs.map fun c => (c.begun.filter fun b => s.usesPack c.num b as).map fun b => (c.num, b)).flatten

/-- A host write through BAR2, and what it does to the commands under way (R335, R549). -/
def State.apertureStore (s : State) (p off : Nat) (bs : Bytes) : State :=
  let t := s.apertureWrite p off bs
  match s.apertureTarget p off bs with
  | none => t
  | some as => (s.packUsers as).foldl (fun u x => u.upset x.1 x.2) t

/-- APERTURE_WRITE (R549). -/
def execApertureWrite (port : Nat) (offset : Nat) (bytes : Bytes) (s : State) : Host.Outcome State Fault Refusal :=
  done s (s.apertureStore port offset bytes)

end Sys2Proof.Machine
end

