-- ==== Sys2Proof/Machine/PageTables.lean ====
section
/-! DEFINITION. Sequences and their page tables: PT_COMMIT create, edit and destroy, and the swap of versions
(06_attention.md, R249 to R270, R306). -/
namespace Sys2Proof.Machine

open Sys2Proof

/-! ### Versions (R253, R260, R265 to R267) -/

/-- The version an edit works on and is judged against: pending if one exists, current otherwise (R259, R260). -/
def Sequence.latest (q : Sequence) : PtVersion := q.pending.getD q.current

/-- The pending version becomes current; the version that was current stays while a walk is on it (R253, R268). -/
def Sequence.swap (q : Sequence) : Sequence :=
  match q.pending with
  | none => q
  | some v => ({ q with current := v, pending := none, retiring := q.retiring ++ [q.current] }).trim

/-- A free one of the three buffers (R253, R261). -/
def Sequence.hasFree (q : Sequence) : Bool := q.pending.isNone && decide (q.retiring.length < 2)

/-- SWAP_AT of a reply (Table 3 of 06). -/
def Sequence.swapAt (q : Sequence) : Nat := if q.bound.isSome then 0 else 1

/-- A sequence changed. -/
def State.updSeq (s : State) (handle : Nat) (f : Sequence → Sequence) : State :=
  { s with seqs := s.seqs.map fun q => if q.handle = handle then f q else q }

/-- The sequence of a handle that commands and commits may name (R262). -/
def State.seq? (s : State) (handle : Nat) : Option Sequence :=
  s.seqs.find? fun q => q.handle == handle && !q.gone

/-- Sequences bound to entries of a list cease to be bound (R267). -/
def State.unbind (s : State) (entries : List Nat) : State :=
  { s with seqs := s.seqs.map fun q =>
      if q.bound.any fun e => entries.contains e then { q with bound := none } else q }

/-- Phase 1 of a STEP_BUILD: pending versions of sequences bound to the entries become current (R265, R464). -/
def State.swapBound (s : State) (entries : List Nat) : State :=
  { s with seqs := s.seqs.map fun q => if q.bound.any fun e => entries.contains e then q.swap else q }

/-! ### The PT_COMMIT body (Table 2 of 06) -/

/-- A PT_COMMIT body. -/
structure PtBody where
  fmt    : Nat
  flags  : Nat
  ctx    : Nat
  seq    : Nat
  base   : Word
  hkv    : Nat
  d      : Nat
  cap    : Nat
  bound  : Nat
  length : Nat
  kld    : Nat
  vld    : Nat
  edits  : Nat
  count  : Nat
  scales : Nat
  deriving DecidableEq, Repr

/-- A body's bytes read as one. -/
def parsePt (b : Bytes) : PtBody :=
  { fmt := (byteAt b 1).toNat, flags := (byteAt b 2).toNat, ctx := leAt b 4 4, seq := leAt b 8 4,
    base := BitVec.ofNat 32 (leAt b 12 4), hkv := leAt b 16 2, d := leAt b 18 2, cap := leAt b 20 4,
    bound := leAt b 24 4, length := leAt b 28 4, kld := leAt b 32 4, vld := leAt b 36 4, edits := leAt b 40 8,
    count := leAt b 48 4, scales := leAt b 56 8 }

def PtBody.setLength (x : PtBody) : Bool := bitOf x.flags 1
def PtBody.setScales (x : PtBody) : Bool := bitOf x.flags 2

/-- A create field in an edit or destroy (order 1 of Table 15). -/
def PtBody.createFields (x : PtBody) : Bool :=
  x.fmt != 0 || bitOf x.flags 0 || x.hkv != 0 || x.d != 0 || x.cap != 0 || x.bound != 0 || x.kld != 0 || x.vld != 0

/-- Order 2 of Table 15: a create's shape. -/
def State.ptShapeBad (s : State) (x : PtBody) : Bool :=
  let ld (n : Nat) : Bool := n % 16 == 0 && decide (x.d * kvBytes x.fmt ≤ n)
  !decide (2 ≤ x.fmt ∧ x.fmt ≤ 5) || !decide (1 ≤ x.hkv ∧ x.hkv ≤ 256) ||
    !(decide (64 ≤ x.d ∧ x.d ≤ 256) && x.d % 32 == 0) || !decide (1 ≤ x.cap ∧ x.cap ≤ 8192) ||
    !ld x.kld || !ld x.vld ||
    (x.bound != 0xFFFFFFFF && !(s.entries.any fun e => e.index == x.bound && e.ctx == x.ctx))

/-! ### Edit lists (R256, R257, Table 4 of 06) -/

/-- An edit record. -/
structure EditRec where
  head : Nat
  kind : Nat
  eop  : Nat
  page : Nat
  va   : Nat
  deriving DecidableEq, Repr

/-- A record's bytes read as one. -/
def parseEdit (b : Bytes) : EditRec :=
  { head := leAt b 0 2, kind := (byteAt b 2).toNat, eop := (byteAt b 3).toNat, page := leAt b 4 4, va := leAt b 8 8 }

/-- A record breaks Table 4 or R257. -/
def State.editBad (s : State) (q : Sequence) (r : EditRec) : Bool :=
  let ld := if r.kind = 0 then q.kld else q.vld
  decide (q.hkv ≤ r.head) || decide (1 < r.kind) || decide (1 < r.eop) || decide (q.cap ≤ r.page) ||
    (if r.eop = 1 then r.va != 0
     else r.va % 16 != 0 || !vaOk r.va ||
       !(List.range 256).all fun i => s.mapped q.ctx (r.va + i * ld) (q.d * kvBytes q.fmt))

/-- The entry a set record makes (Table 1 of 06). -/
def State.setEntry (s : State) (ctx va : Nat) : BitVec 64 :=
  let tier := match s.mapping? ctx va with
    | some m => if m.tier = .stack then 0 else 1
    | none => 0
  BitVec.ofNat 64 (2 ^ 63 + tier * 2 ^ 61 + va / 16)

/-- A record applied to a version; a later record for the same entry wins (R256). -/
def State.applyEdit (s : State) (q : Sequence) (v : PtVersion) (r : EditRec) : PtVersion :=
  let i := q.entryAt r.head r.kind r.page
  let rest := v.entries.filter fun e => e.1 != i
  { v with entries := if r.eop = 1 then rest else (i, s.setEntry q.ctx r.va) :: rest }

/-- What a commit brings: its records, its length, its scales. -/
structure PtChange where
  edits  : List EditRec
  length : Option Nat
  scales : Option (List Word × List Word)
  deriving DecidableEq, Repr

/-- The change of a body, none where order 4 of Table 15 refuses it. -/
def State.ptChange (s : State) (x : PtBody) (q : Sequence) : Option PtChange :=
  if 65536 < x.count ∨ x.edits % 16 ≠ 0 ∨ (x.count = 0 ∧ x.edits ≠ 0) ∨
      (if x.setLength then 256 * q.cap < x.length else x.length ≠ 0) ∨ (!x.setScales ∧ x.scales ≠ 0) then none
  else
    match s.vread q.ctx x.edits (16 * x.count), s.vread q.ctx x.scales (if x.setScales then 8 * q.hkv else 0) with
    | .ok raw, .ok sc =>
      let rs := (List.range x.count).map fun i => parseEdit (sliceBytes raw (16 * i) 16)
      let ws := (List.range (2 * q.hkv)).map fun i => BitVec.ofNat 32 (leAt sc (4 * i) 4)
      if (rs.any fun r => s.editBad q r) || (x.setScales && ws.any fun w => !fposNormal w) then none
      else
        some { edits := rs, length := if x.setLength then some x.length else none,
               scales := if x.setScales then some (ws.take q.hkv, ws.drop q.hkv) else none }
    | _, _ => none

/-- A change applied to a version. -/
def State.applyChange (s : State) (q : Sequence) (c : PtChange) (v : PtVersion) : PtVersion :=
  let w := c.edits.foldl (s.applyEdit q) v
  { w with length := c.length.getD w.length,
           kscales := match c.scales with
             | some p => p.1
             | none => w.kscales,
           vscales := match c.scales with
             | some p => p.2
             | none => w.vscales }

/-- The reply body of Table 3 of 06. -/
def ptReply (handle : Nat) (version : Word) (at_ : Nat) : Bytes := leBytes 4 handle ++ leBytes 4 version.toNat ++ leBytes 1 at_

/-! ### Create (R258, R263) -/

/-- The empty version 1 of a sequence. -/
def emptyVersion : PtVersion := { version := 1, entries := [], length := 0, kscales := [], vscales := [] }

/-- The sequence a create makes, before its edits. An entry that is not active binds nothing (R267). -/
def State.newSeq (s : State) (x : PtBody) : Sequence :=
  { handle := s.nextSeq, ctx := x.ctx, fmt := x.fmt, hkv := x.hkv, d := x.d, cap := x.cap, kld := x.kld, vld := x.vld,
    ringShare := bitOf x.flags 0,
    bound := if s.entries.any fun e => e.index == x.bound && e.state == .active then some x.bound else none,
    current := emptyVersion, pending := none, retiring := [], walks := [], gone := false }

/-- PT_COMMIT create carried out (R258, R263, R306). -/
def carryPtCreate (s : State) (m : Msg) : Carried :=
  let x := parsePt m.body
  if 7 < x.flags ∨ x.seq ≠ 0 ∨ x.base ≠ 0 then refuse s Err.seqInvalid
  else if s.ptShapeBad x then refuse s Err.headShapeInvalid
  else
    let q := s.newSeq x
    match s.ptChange x q with
    | none => refuse s Err.ptEditInvalid
    | some c =>
      if 4 ≤ x.fmt ∧ c.scales.isNone then refuse s Err.ptEditInvalid
      else if !s.fits x.ctx (48 * x.hkv * x.cap) 0 then refuse s Err.ptCapacity
      else
        let q1 := { q with current := s.applyChange q c q.current }
        match ({ s with seqs := s.seqs ++ [q1], nextSeq := s.nextSeq + 1 } : State).fitFw with
        | none => refuse s Err.ptCapacity
        | some t => accept t (ptReply q1.handle 1 q1.swapAt)

/-- PT_COMMIT with OP 0 (R258). -/
def execPtCommitCreate (slot : SlotRef) (s : State) : Host.Outcome State Fault Refusal :=
  done s (s.takeRow slot .ptCreate carryPtCreate)

/-! ### Edit and destroy (R259 to R262) -/

/-- The sequence an edit or a destroy names, none where order 1 of Table 15 refuses it. -/
def State.ptNamed (s : State) (x : PtBody) : Option Sequence :=
  if 7 < x.flags ∨ x.createFields then none else (s.seq? x.seq).filter fun q => q.ctx == x.ctx

/-- PT_COMMIT edit carried out (R259 to R261, R306). -/
def carryPtEdit (s : State) (m : Msg) : Carried :=
  let x := parsePt m.body
  match s.ptNamed x with
  | none => refuse s Err.seqInvalid
  | some q =>
    if x.base ≠ q.latest.version then refuse s Err.ptVersionConflict
    else
      match s.ptChange x q with
      | none => refuse s Err.ptEditInvalid
      | some c =>
        if q.pending.isNone ∧ !q.hasFree then refuse s Err.ptBusy
        else
          let v := { s.applyChange q c q.latest with version := q.latest.version + 1 }
          accept (s.updSeq q.handle fun y => { y with pending := some v }) (ptReply q.handle v.version q.swapAt)

/-- PT_COMMIT with OP 1 (R260). -/
def execPtCommitEdit (slot : SlotRef) (s : State) : Host.Outcome State Fault Refusal :=
  done s (s.takeRow slot .ptEdit carryPtEdit)

/-- A destroy carries no edit, length or scales. -/
def PtBody.changes (x : PtBody) : Bool :=
  x.flags != 0 || x.length != 0 || x.edits != 0 || x.count != 0 || x.scales != 0

/-- PT_COMMIT destroy carried out (R262, R306): R259 refuses an edit alone for its BASE_VERSION. -/
def carryPtDestroy (s : State) (m : Msg) : Carried :=
  let x := parsePt m.body
  match (s.ptNamed x).filter fun _ => !x.changes with
  | none => refuse s Err.seqInvalid
  | some q =>
    accept ((s.updSeq q.handle fun y => { y with gone := true }).dropWalks fun _ => false)
      (ptReply q.handle q.current.version q.swapAt)

/-- PT_COMMIT with OP 2 (R262). -/
def execPtCommitDestroy (slot : SlotRef) (s : State) : Host.Outcome State Fault Refusal :=
  done s (s.takeRow slot .ptDestroy carryPtDestroy)

end Sys2Proof.Machine
end

