-- ==== Sys2Proof/Machine/Attend.lean ====
section
/-! DEFINITION. ATTEND: its items, masks, walks, the arithmetic of one row, key splits and ring steps (06_attention.md,
R243 to R248, R264 to R305). -/
namespace Sys2Proof.Machine

open Sys2Proof

/-! ### The descriptor (Tables 6 and 7 of 06) -/

/-- An ATTEND descriptor. -/
structure AttDesc where
  list     : Nat
  cnt      : Nat
  fmt      : Nat
  oFmt     : Nat
  mask     : Nat
  flags    : Nat
  d        : Nat
  hq       : Nat
  hkv      : Nat
  cand     : Nat
  ringStep : Nat
  scale    : Word
  frameLen : Nat
  window   : Nat
  qLd      : Nat
  oLd      : Nat
  chain    : Nat
  deriving DecidableEq, Repr

/-- A descriptor's bytes read as one. -/
def parseAtt (d : Bytes) : AttDesc :=
  let b (o : Nat) : Nat := (byteAt d o).toNat
  { list := leAt d 16 8, cnt := leAt d 24 2, fmt := b 26, oFmt := b 27, mask := b 28, flags := b 29, d := leAt d 30 2,
    hq := leAt d 32 2, hkv := leAt d 34 2, cand := b 36, ringStep := b 37, scale := BitVec.ofNat 32 (leAt d 40 4),
    frameLen := leAt d 44 4, window := leAt d 48 4, qLd := leAt d 52 4, oLd := leAt d 56 4, chain := leAt d 64 8 }

namespace AttDesc

/-! Bits of AFLAGS (Table 7 of 06). -/

def long (x : AttDesc) : Bool := bitOf x.flags 0
def ring (x : AttDesc) : Bool := bitOf x.flags 1
def partIn (x : AttDesc) : Bool := bitOf x.flags 2
def partOut (x : AttDesc) : Bool := bitOf x.flags 3
def bitmap (x : AttDesc) : Bool := bitOf x.flags 4
def splitOk (x : AttDesc) : Bool := bitOf x.flags 5
def exact (x : AttDesc) : Bool := bitOf x.flags 6

/-- Query heads that share a key-value head. -/
def grp (x : AttDesc) : Nat := x.hq / x.hkv

/-- Elements of a query row. -/
def cols (x : AttDesc) : Nat := x.hq * x.d

/-- Order 1 of Table 14 (R273). RING_STEP is 0 without RING (Table 6). -/
def flagsBad (x : AttDesc) (d : Bytes) : Bool :=
  decide (127 < x.flags) || !zeroRange d 38 40 || !zeroRange d 60 64 || !zeroRange d 72 128 || (x.long && x.ring) ||
    (x.exact && x.splitOk) || (x.splitOk && (x.ring || x.partIn || x.partOut)) ||
    (x.partOut && (x.chain != 0 || x.oFmt != 0)) || (!x.ring && x.ringStep != 0)

/-- Order 3 (Table 14): any QKV_FMT outside 0x02 to 0x05 is no operand. -/
def formatCode (x : AttDesc) : Option Code :=
  if !decide (2 ≤ x.fmt ∧ x.fmt ≤ 5) then some Err.formatNotOperand
  else if (if x.chain ≠ 0 ∨ x.partOut then decide (x.oFmt ≠ 0) else !isFloat x.oFmt) then some Err.formatReserved
  else none

/-- Order 5. -/
def shapeBad (x : AttDesc) : Bool :=
  !(decide (64 ≤ x.d ∧ x.d ≤ 256) && x.d % 32 == 0) || !decide (1 ≤ x.hq ∧ x.hq ≤ 256) ||
    !decide (1 ≤ x.hkv ∧ x.hkv ≤ 256) || x.hq % x.hkv != 0 || decide (16 < x.cand)

/-- The mask kind uses FRAME_LEN, and WINDOW (Table 10 of 06). -/
def usesFrames (x : AttDesc) : Bool := x.mask == 2 || x.mask == 5
def usesWindow (x : AttDesc) : Bool := x.mask == 3 || x.mask == 4 || x.mask == 5

/-- Order 6 (R281). -/
def maskBad (x : AttDesc) : Bool :=
  decide (5 < x.mask) || (x.frameLen != 0) != x.usesFrames || (x.window != 0) != x.usesWindow ||
    decide (2 ^ 21 < x.frameLen) || decide (2 ^ 24 < x.window)

/-- Order 8; `stages` are those of the chain as far as it can be read, for the STOREs to O (R204). Under PART_OUT, O_LD is
judged at the element size of the queries. -/
def layoutBad (x : AttDesc) (stages : List Stage) : Bool :=
  !vaOk x.list || !ldOk x.fmt x.cols x.qLd ||
    (if x.partOut then !ldOk x.fmt x.cols x.oLd else ownLdBad x.chain x.oFmt stages x.cols x.oLd)

/-- Table 14 of 06 up to order 8; NOT_PRESENT of the cores first (R145). -/
def check (x : AttDesc) (noCores fabric : Bool) (stages : List Stage) (d : Bytes) : Option Code :=
  match firstBad [(noCores, Err.coreNotPresent), (x.flagsBad d, Err.flagsConflict),
      (x.ring && !fabric, Err.fabNotPresent)] with
  | some code => some code
  | none =>
    match x.formatCode with
    | some code => some code
    | none =>
      firstBad [(!fposNormal x.scale, Err.scaleInvalid), (x.shapeBad, Err.headShapeInvalid),
        (x.maskBad, Err.maskInvalid), (x.cnt == 0 || decide (256 < x.cnt) || x.list % 16 != 0, Err.listRange),
        (x.layoutBad stages, Err.layoutInvalid)]

/-- What the chain is judged for (R288): an APPLY with OWN has no complete row. -/
def use (x : AttDesc) : ChainUse :=
  { n := x.cols, k := x.cols, aFmt := none, items := x.cnt, result := x.oFmt, isT := false, ownOk := false, staging := 0 }

end AttDesc

/-! ### Items (Tables 8, 9 and 11 of 06) -/

/-- An item entry with its place in the list. -/
structure AttItem where
  pos    : Nat
  q      : Nat
  o      : Nat
  part   : Nat
  bitmap : Nat
  ring   : Nat
  seq    : Nat
  rows   : Nat
  pos0   : Nat
  lo     : Nat
  hi     : Nat
  tq     : Word
  item   : Nat
  deriving DecidableEq, Repr

/-- An entry's bytes read as one. -/
def parseAttItem (i : Nat) (b : Bytes) : AttItem :=
  { pos := i, q := leAt b 0 8, o := leAt b 8 8, part := leAt b 16 8, bitmap := leAt b 24 8, ring := leAt b 32 8,
    seq := leAt b 40 4, rows := leAt b 44 4, pos0 := leAt b 48 4, lo := leAt b 52 4, hi := leAt b 56 4,
    tq := BitVec.ofNat 32 (leAt b 60 4), item := leAt b 64 2 }

/-- R275, R277: the shape of an entry. -/
def AttItem.bad (t : AttItem) (x : AttDesc) (b : Bytes) : Bool :=
  !zeroRange b 66 80 || !addrOk t.q || !addrOk t.o || !addrOk t.part || !vaOk t.bitmap ||
    !addrOk t.ring || (x.partOut && t.o != 0) || (!x.partIn && !x.partOut && t.part != 0) ||
    (!x.bitmap && t.bitmap != 0) || (!x.ring && t.ring != 0) || !decide (1 ≤ t.rows ∧ t.rows ≤ 2 ^ 21) ||
    (x.cand != 0 && t.rows != x.cand) || decide (2 ^ 24 < t.pos0 + t.rows) || !scalePresent x.fmt t.tq

/-- A shard of a ring record. -/
structure ShardRec where
  device : Nat
  seq    : Nat
  base   : Nat
  len    : Nat
  deriving DecidableEq, Repr

/-- A ring record (Table 11 of 06). -/
structure RingRec where
  size   : Nat
  rank   : Nat
  gbps   : Nat
  shards : List ShardRec
  deriving DecidableEq, Repr

/-- A record's bytes read as one. -/
def parseRing (b : Bytes) : RingRec :=
  { size := (byteAt b 0).toNat, rank := (byteAt b 1).toNat, gbps := leAt b 4 4,
    shards := (List.range (byteAt b 0).toNat).map fun i =>
      { device := leAt b (16 + 16 * i) 2, seq := leAt b (20 + 16 * i) 4, base := leAt b (24 + 16 * i) 4,
        len := leAt b (28 + 16 * i) 4 } }

/-- Two shards share a position. -/
def ShardRec.meets (a b : ShardRec) : Bool := decide (a.base < b.base + b.len) && decide (b.base < a.base + a.len)

/-- No two shards of a list overlap. -/
def shardsApart : List ShardRec → Bool
  | [] => true
  | a :: l => !(l.any a.meets) && shardsApart l

/-- R298, R299: a record that may serve an item. -/
def RingRec.ok (r : RingRec) (own : Option Nat) (seq step : Nat) (b : Bytes) : Bool :=
  decide (2 ≤ r.size ∧ r.size ≤ 8) && decide (r.rank < r.size) && zeroRange b 2 4 && zeroRange b 8 16 &&
    decide (1 ≤ r.gbps ∧ r.gbps ≤ 1000) && decide (step < r.size) &&
    ((List.range r.size).all fun i => zeroRange b (18 + 16 * i) (20 + 16 * i)) &&
    (r.shards.all fun s =>
      decide (s.device < 4096) && decide (1 ≤ s.len ∧ s.len ≤ 2 ^ 21) && decide (s.base + s.len ≤ 2 ^ 24)) &&
    decide ((r.shards.map fun s => s.len).sum ≤ 2 ^ 24) && shardsApart r.shards &&
    match r.shards[r.rank]? with
    | none => false
    | some s => own == some s.device && s.seq == seq

/-- The keys and values an item reads: a local sequence at a version, or what a ring peer served. -/
inductive KvSource where
  | here (q : Sequence) (v : PtVersion)
  | peer (r : RemoteShard)
  deriving DecidableEq, Repr

/-- The shard an item visits: where its positions begin, its source, and the supply of a remote one in GB/s. -/
structure Shard where
  base   : Nat
  device : Nat
  handle : Nat                        -- its sequence there
  source : KvSource
  gbps   : Option Nat
  deriving DecidableEq, Repr

/-- The visited shard of a ring step (R300): its number. -/
def RingRec.visited (r : RingRec) (step : Nat) : Nat := (r.rank + r.size - step % r.size) % r.size

/-- What a peer serves an item (R301, R303): lost where no session is up. -/
def State.ringPeer (s : State) (device : Nat) (r : Option RemoteShard) : RemoteShard :=
  let gone : RemoteShard := { verdict := .lost, kscales := [], vscales := [], kvalid := [], vvalid := [], keys := [], values := [] }
  match (s.peer? device).bind fun p => p.session, r with
  | some _, some x => x
  | _, _ => gone

/-- The shard of an item and its length, or why the item faults at the start (R276, R299). -/
def State.shardOf (s : State) (ctx : Nat) (x : AttDesc) (t : AttItem) (q : Sequence) (remote : Option RemoteShard) :
    Except Code (Shard × Nat) :=
  if !x.ring then .ok ({ base := 0, device := 0, handle := 0, source := .here q q.current, gbps := none }, q.current.length)
  else
    match s.vread ctx t.ring 144 with
    | .error f => .error f.1
    | .ok b =>
      let r := parseRing b
      if !r.ok s.fab.glob.device t.seq x.ringStep b then .error Err.ringInvalid
      else
        let n := r.visited x.ringStep
        match r.shards[n]? with
        | none => .error Err.ringInvalid
        | some h =>
          if n = r.rank then .ok ({ base := h.base, device := h.device, handle := h.seq, source := .here q q.current, gbps := none }, h.len)
          else .ok ({ base := h.base, device := h.device, handle := h.seq, source := .peer (s.ringPeer h.device remote), gbps := some r.gbps }, h.len)

/-- The sequence of an item: of its owning context or of the issuing one (R276, Table 8 of 06). -/
def State.itemSeq (s : State) (c : Ctx) (t : AttItem) : Option Sequence :=
  (s.seq? t.seq).filter fun q => q.ctx == c.itemOwner t.item || q.ctx == c.num

/-- An entry judged when the command begins (R276, R277, R467, R448). -/
structure JudgedAtt where
  t      : AttItem
  itemOk : Bool
  shard  : Except Code Shard
  live   : Bool
  deriving DecidableEq

/-- One entry judged. -/
def State.judgeAtt (s : State) (c : Ctx) (x : AttDesc) (remote : List RemoteShard) (i : Nat) (b : Bytes) : JudgedAtt :=
  let t := parseAttItem i b
  { t := t, itemOk := c.itemOk t.item, live := !s.itemStopped c t.item,
    shard :=
      if !c.itemOk t.item ∨ t.bad x b then .error Err.tripleInvalid
      else if isFp8 x.fmt ∧ !fposNormal t.tq then .error Err.scaleInvalid
      else
        match s.itemSeq c t with
        | none => .error Err.seqInvalid
        | some q =>
          match s.shardOf c.num x t q remote[i]? with
          | .error e => .error e
          | .ok (h, len) =>
            if t.lo % 128 ≠ 0 ∨ !decide (t.lo < t.hi ∧ t.hi ≤ len) ∨ 2 ^ 21 < t.hi - t.lo then .error Err.seqRange
            else if q.d ≠ x.d ∨ q.hkv ≠ x.hkv ∨ q.fmt ≠ x.fmt then .error Err.seqMismatch
            else .ok h }

/-- The shard of an entry that runs. -/
def JudgedAtt.runs? (j : JudgedAtt) : Option Shard :=
  if !j.live then none
  else match j.shard with
    | .ok h => some h
    | .error _ => none

/-! ### Query blocks (R289, R290) -/

/-- A query block: its key-value head, its number, its first query row, its rows as query head and query row, and the
query rows that decide which key blocks it visits (R280). -/
structure QBlock where
  kv    : Nat
  b     : Nat
  row   : Nat
  rows  : List (Nat × Nat)
  cover : List Nat
  deriving DecidableEq, Repr

/-- Heads a decode-shaped block packs (R290). -/
def AttDesc.packed (x : AttDesc) : Nat := min x.grp (min 16 (128 / x.cand))

/-- The query blocks of an item for one key-value head, by query head and then by block (R289), or the packed blocks of
the candidates (R290). -/
def AttDesc.headBlocks (x : AttDesc) (rows g : Nat) : List QBlock :=
  if x.cand = 0 then
    ((List.range x.grp).map fun i => (List.range (cdiv rows 128)).map fun b =>
      { kv := g, b := b, row := 128 * b,
        rows := (List.range (min 128 (rows - 128 * b))).map fun r => (g * x.grp + i, 128 * b + r),
        cover := (List.range 128).map fun r => 128 * b + r : QBlock }).flatten
  else
    let p := x.packed
    (List.range (cdiv x.grp p)).map fun b =>
      { kv := g, b := b, row := 0,
        rows := ((List.range (min p (x.grp - b * p))).map fun i =>
          (List.range x.cand).map fun c => (g * x.grp + b * p + i, c)).flatten,
        cover := List.range x.cand }

/-- The query blocks of an item. -/
def AttDesc.blocks (x : AttDesc) (rows : Nat) : List QBlock :=
  ((List.range x.hkv).map (x.headBlocks rows)).flatten

/-- Most query blocks of a pass (R247): 26 partial outputs of one tile, or 13 of two; half of them in the alternating plan
(R232). -/
def AttDesc.perPass (x : AttDesc) (alt : Bool) : Nat :=
  let n := if x.d ≤ 128 then 26 else 13
  if alt then n / 2 else n

/-- The passes of an item for a key-value head: its blocks in order, as many to a pass as R247 admits (R289, R290). -/
def AttDesc.passes (x : AttDesc) (alt : Bool) (rows g : Nat) : List (List QBlock) :=
  let l := x.headBlocks rows g
  runsOf (x.perPass alt) l.length l

/-! ### Masks (R278 to R280, Table 10 of 06) -/

/-- MASK_KIND keeps a key position for a query position. -/
def AttDesc.keeps (x : AttDesc) (q k : Nat) : Bool :=
  let fq := q / x.frameLen
  let fk := k / x.frameLen
  match x.mask with
  | 0 => true
  | 1 => decide (k ≤ q)
  | 2 => decide (fk ≤ fq)
  | 3 => decide (q < k + x.window) && decide (k ≤ q)
  | 4 => decide (q < k + x.window) && decide (k < q + x.window)
  | _ => decide (fq < fk + x.window) && decide (fk ≤ fq)

/-- The bytes of a block bitmap that a query block uses, from the byte of its first key block: what R279 gives for the
key positions of an item. -/
def State.bitmapOf (s : State) (ctx : Nat) (x : AttDesc) (t : AttItem) (base b : Nat) : Except Stop (Nat × Bytes) :=
  if !x.bitmap then .ok (0, [])
  else
    let first := (base + t.lo) / 1024
    let last := (base + t.hi - 1) / 1024
    let row := if x.ring then 2 ^ 24 / 1024 else cdiv t.hi 1024
    (s.fetch ctx (t.bitmap + b * row + first) (last + 1 - first)).map fun bs => (first, bs)

/-- The bitmap's bit of an absolute key position. -/
def bitmapBit (m : Nat × Bytes) (k : Nat) : Bool := (byteAt m.2 (k / 1024 - m.1)).getLsbD (k / 128 % 8)

/-- A key position is kept for a query row. -/
def AttDesc.kept (x : AttDesc) (t : AttItem) (base : Nat) (m : Nat × Bytes) (r k : Nat) : Bool :=
  decide (t.lo ≤ k ∧ k < t.hi) && x.keeps (t.pos0 + r) (base + k) && (!x.bitmap || bitmapBit m (base + k))

/-- A key block is visited for a query block (R280). -/
def AttDesc.visits (x : AttDesc) (t : AttItem) (base : Nat) (m : Nat × Bytes) (q : QBlock) (k0 : Nat) : Bool :=
  q.cover.any fun r => (List.range 128).any fun i => x.kept t base m r (k0 + i)

/-- The key blocks of part `i` of `p` of an item, by their first positions (R293). -/
def AttItem.partBlocks (t : AttItem) (p i : Nat) : List Nat :=
  let n := cdiv (t.hi - t.lo) 128
  (List.range ((i + 1) * n / p - i * n / p)).map fun j => t.lo + 128 * (i * n / p + j)

/-! ### The arithmetic of one row (R282 to R286, R294) -/

/-- The running state of a row. -/
structure RowState where
  m : Word
  l : Word
  o : List Word
  deriving DecidableEq, Repr

/-- A row at its start. -/
def RowState.start (d : Nat) : RowState := { m := fnegInf, l := 0, o := List.replicate d 0 }

/-- p in the value format (R283): the element value. -/
def probElem (fmt : Nat) (p : Word) : Val :=
  decodeVal (elemFmt fmt)
    (encodeVal (elemFmt fmt) (overflowOf fmt false) (Word.val (if isFp8 fmt then fmul p 0x43800000 else p)))

/-- pd: the value of an element of p, divided by 256 for plain FP8. -/
def probWord (fmt : Nat) (v : Val) : Word := rnd32 (if isFp8 fmt then Val.scale (-8) v else v)

/-- A row of element values. -/
def valsRow (l : List Val) : Row := { vals := l, xs := [], groups := [] }

/-- Marks of the score product, the statistics and the value product for a row and a key block (R287). -/
structure RowMarks where
  score : Nat
  stat  : Nat
  value : Nat
  deriving DecidableEq, Repr

/-- No NaN anywhere. -/
def RowMarks.clear : RowMarks := { score := 0, stat := 0, value := 0 }

/-- A row of values with the positions that are not kept left out (R287). -/
def keptOnly (vs : List Row) (kept : List Bool) (d : Nat) : Row :=
  valsRow (List.zipWith (fun r b => if b then r.vals.getD d (.fin false 0 0) else .fin false 0 0) vs kept)

/-- One visited key block met by one row: `ks` and `vs` are the block's 128 positions, zero at and beyond KEY_HI; `kept`
says which are kept. The marks are those of kept positions alone; the rescaling of o belongs to the statistics unit (R246),
so a NaN it makes is an event of the statistics. Log entry 43. -/
def RowState.meet (fmt : Nat) (cs : Word) (q : Row) (ks vs : List Row) (kept : List Bool) (st : RowState) :
    RowState × RowMarks :=
  let acc := ks.map fun k => dotFrom 0 q k
  let s := List.zipWith (fun a k => if k then fmul a cs else fnegInf) acc kept
  let any := kept.contains true
  let inNan := (List.zipWith (fun k b => b && (q.hasNan || k.hasNan)) ks kept).contains true
  let sNan := (List.zipWith (fun a b => b && fisNan a) s kept).contains true
  let mark0 := nanMark inNan sNan
  let m2 := fmax st.m (maxList s)
  if m2 = fnegInf then (st, { RowMarks.clear with score := mark0 })
  else
    let p := List.zipWith (fun v k => if k then fexp (fsub v m2) else 0) s kept
    let pq := p.map (probElem fmt)
    let lt := sumFirst (pq.map (probWord fmt))
    let alpha := if st.m = fnegInf then 0 else fexp (fsub st.m m2)
    let l := fadd (fmul st.l alpha) lt
    let scaled := st.o.map fun v => fmul v alpha
    let o := scaled.mapIdx fun d v => dotFrom v (valsRow pq) (valsRow (vs.map fun r => r.vals.getD d (.fin false 0 0)))
    let seen := scaled.mapIdx fun d v => dotFrom v (valsRow pq) (keptOnly vs kept d)
    let pNan := p.any fisNan
    let vNan := (List.zipWith (fun r b => b && r.hasNan) vs kept).contains true
    let mark1 := nanMark (sNan || fisNan st.m || fisNan st.l || st.o.any fisNan) (pNan || fisNan l || scaled.any fisNan)
    let mark2 := nanMark (pNan || vNan || scaled.any fisNan) (seen.any fisNan)
    ({ m := m2, l := l, o := o },
      if any then { score := mark0, stat := mark1, value := mark2 } else RowMarks.clear)

/-- Two parts of a row combined (R294). -/
def RowState.combine (a b : RowState) : RowState :=
  let m2 := fmax a.m b.m
  let term (m v : Word) : Word := if m = fnegInf then 0 else fmul v (fexp (fsub m m2))
  { m := m2, l := fadd (term a.m a.l) (term b.m b.l),
    o := List.zipWith (fun x y => fadd (term a.m x) (term b.m y)) a.o b.o }

/-- A partial state that holds a NaN. -/
def RowState.hasNan (a : RowState) : Bool := fisNan a.m || fisNan a.l || a.o.any fisNan

/-- The mark of combining two parts: a NaN made of none; a part that holds one had its own event. Log entry 43. -/
def RowState.combineMark (a b : RowState) : Nat :=
  if a.hasNan ∨ b.hasNan then 0 else if (a.combine b).hasNan then 2 else 0

/-- A row finished: its scale and the reciprocal of its sum; +0 where nothing was kept. -/
def RowState.finish (cv : Word) (st : RowState) : List Word :=
  if st.l = 0 then st.o.map fun _ => 0 else st.o.map fun v => fmul (fmul v cv) (fdiv fone st.l)

/-! ### Reading keys and values (R249, R254, R301, R303) -/

/-- One position of a head's keys (`kind` 0) or values (1). -/
def State.kvRow (s : State) (x : AttDesc) (src : KvSource) (g kind k : Nat) : Except Stop Row :=
  let e := x.d * kvBytes x.fmt
  let row (b : Bytes) : Row := decodeRow x.fmt x.d b []
  match src with
  | .here q v =>
    match q.position? v g kind k with
    | none => .error (Err.pageNotValid, [])
    | some va => (s.fetch q.ctx va e).map row
  | .peer r =>
    match r.verdict with
    | .refused => .error (Err.ringInvalid, [])
    | .lost => .error (Err.ringPeerLost, [])
    | .served =>
      let valid := if kind = 0 then r.kvalid else r.vvalid
      let data := if kind = 0 then r.keys else r.values
      if (valid.getD g []).getD (k / 256) false then .ok (row (sliceBytes (data.getD g []) (k * e) e))
      else .error (Err.pageNotValid, [])

/-- The 128 positions of a key block, zero at and beyond KEY_HI (R284). -/
def State.kvBlock (s : State) (x : AttDesc) (t : AttItem) (src : KvSource) (g kind k0 : Nat) : Except Stop (List Row) :=
  (List.range 128).mapM fun i =>
    if k0 + i < t.hi then s.kvRow x src g kind (k0 + i) else .ok (valsRow (List.replicate x.d (.fin false 0 0)))

/-- Tensor scales of a head's keys and values. -/
def KvSource.scales (src : KvSource) (g : Nat) : Word × Word :=
  match src with
  | .here _ v => (v.kscales.getD g 0, v.vscales.getD g 0)
  | .peer r => (r.kscales.getD g 0, r.vscales.getD g 0)

/-- A query block named: its key-value head, its first query head, its number. -/
def QBlock.key (q : QBlock) : List Nat := [q.kv, (q.rows.headD (0, 0)).1, q.b]

/-- A unit of an ATTEND: its item's place in the list and the query blocks of its pass, named. -/
structure AttUnit where
  pos    : Nat
  blocks : List (List Nat)
  deriving DecidableEq, Repr

/-- The units on their cores: parts of each in turn (R292). -/
structure AttDealing where
  cores  : List Nat
  units  : List AttUnit
  places : List Nat
  deriving DecidableEq, Repr

/-- The unit that has a query block of an item. -/
def AttDealing.unitOf (d : AttDealing) (pos : Nat) (q : QBlock) : Option Nat :=
  d.units.findIdx? fun u => u.pos == pos && u.blocks.contains q.key

/-- The core of a unit's part, by its place in the order of dealing. -/
def AttDealing.coreAt (d : AttDealing) (u : Nat) : Nat := d.cores.getD (d.places.getD u 0) 0

/-- Nothing dealt. -/
def AttDealing.none : AttDealing := { cores := [], units := [], places := [] }

/-- What an item's rows share: the descriptor, the item, its shard, P, and the core, unit of each query block's part. -/
structure AttRun where
  x     : AttDesc
  t     : AttItem
  shard : Shard
  parts : Nat
  deal  : AttDealing
  deriving DecidableEq, Repr

/-- cs and cv of the recurrence. -/
def AttRun.cs (v : AttRun) (g : Nat) : Word :=
  if isFp8 v.x.fmt then fmul v.x.scale (fmul v.t.tq (v.shard.source.scales g).1) else v.x.scale
def AttRun.cv (v : AttRun) (g : Nat) : Word :=
  if isFp8 v.x.fmt then fmul (v.shard.source.scales g).2 0x3B800000 else fone

/-- An event of a query block put on the core of a part of its unit. -/
def AttRun.stamp (v : AttRun) (q : QBlock) (phase part : Nat) (e : NanEvent) : NanEvent :=
  match v.deal.unitOf v.t.pos q with
  | some i =>
    let u := i * v.parts + part
    { e with inst := v.deal.coreAt u, seq := u, phase := phase }
  | none => e

/-- The events of a query block at a key block. -/
def blockEvents (q : QBlock) (k0 : Nat) (marks : List RowMarks) : List NanEvent :=
  [(0, fun (m : RowMarks) => m.score), (1, fun m => m.stat), (2, fun m => m.value)].filterMap fun st =>
    let l := marks.map st.2
    let kd := tileKind l
    if kd = 0 then none
    else
      some { kind := kd, unit := 3, stage := st.1, row := q.row, col := 0, k := k0,
             outer := (q.rows.getD ((l.findIdx? fun a => a == kd).getD 0) (0, 0)).1, tile := q.key,
             step := 3 * (k0 / 128) + st.1 }

/-- The events of combining a part into the first: statistics, at the part's first key block. Log entry 43. -/
def combineEvents (q : QBlock) (k0 : Nat) (a b : List RowState) : List NanEvent :=
  (blockEvents q k0 ((List.zipWith RowState.combineMark a b).map fun m => { RowMarks.clear with stat := m })).map fun e =>
    { e with step := 3 * 2 ^ 17 + k0 }

/-- The rows of a query block over a list of key blocks in order (R285), after some events. -/
def State.attWalk (s : State) (v : AttRun) (m : Nat × Bytes) (q : QBlock) (part : Nat) (qs : List Row) :
    List Nat → List RowState → List NanEvent → Except Halt (List RowState × List NanEvent)
  | [], st, ev => .ok (st, ev)
  | k0 :: rest, st, ev =>
    if !v.x.visits v.t v.shard.base m q k0 then s.attWalk v m q part qs rest st ev
    else do
      let ks ← afterEvents ev (atOnce (s.kvBlock v.x v.t v.shard.source q.kv 0 k0))
      let vs ← afterEvents ev (atOnce (s.kvBlock v.x v.t v.shard.source q.kv 1 k0))
      let met := List.zipWith (fun (p : (Nat × Nat) × Row) a =>
        a.meet v.x.fmt (v.cs q.kv) p.2 ks vs
          ((List.range 128).map fun i => v.x.kept v.t v.shard.base m p.1.2 (k0 + i))) (q.rows.zip qs) st
      s.attWalk v m q part qs rest (met.map fun a => a.1)
        (ev ++ (blockEvents q k0 (met.map fun a => a.2)).map (v.stamp q 1 part))

/-- A partial-state entry (Table 9 of 06). -/
def AttRun.partAt (v : AttRun) (h r : Nat) : Nat := v.t.part + (h * v.t.rows + r) * (8 + 4 * v.x.d)

/-- The start of a row (R286); a NaN of a partial state is the one pattern of R49. -/
def State.rowStart (s : State) (ctx : Nat) (v : AttRun) (p : Nat × Nat) : Except Stop RowState :=
  if !v.x.partIn then .ok (RowState.start v.x.d)
  else do
    let b ← s.fetch ctx (v.partAt p.1 p.2) (8 + 4 * v.x.d)
    let w (o : Nat) : Word := quietNan (BitVec.ofNat 32 (leAt b o 4))
    .ok { m := w 0, l := w 4, o := (List.range v.x.d).map fun d => w (8 + 4 * d) }

/-- The later parts of a query block combined into the first, in order (R294). -/
def State.attParts (s : State) (v : AttRun) (m : Nat × Bytes) (q : QBlock) (qs : List Row) :
    List Nat → List RowState → List NanEvent → Except Halt (List RowState × List NanEvent)
  | [], st, ev => .ok (st, ev)
  | i :: rest, st, ev => do
    let blocks := v.t.partBlocks v.parts i
    let r ← s.attWalk v m q i qs blocks (q.rows.map fun _ => RowState.start v.x.d) ev
    s.attParts v m q qs rest (List.zipWith RowState.combine st r.1)
      (r.2 ++ (combineEvents q (blocks.headD 0) st r.1).map (v.stamp q 1 0))

/-- A query block run after some events: the state of each of its rows. -/
def State.attBlock (s : State) (ctx : Nat) (v : AttRun) (qRows : List Row) (q : QBlock) (ev : List NanEvent) :
    Except Halt (List ((Nat × Nat) × RowState) × List NanEvent) := do
  let m ← afterEvents ev (atOnce (s.bitmapOf ctx v.x v.t v.shard.base q.b))
  let qs := q.rows.map fun p => valsRow (((qRows.getD p.2 (valsRow [])).vals.drop (p.1 * v.x.d)).take v.x.d)
  let st ← afterEvents ev (atOnce (q.rows.mapM (s.rowStart ctx v)))
  let a ← s.attWalk v m q 0 qs (v.t.partBlocks v.parts 0) st ev
  let r ← s.attParts v m q qs ((List.range (v.parts - 1)).map fun i => i + 1) a.1 a.2
  .ok (q.rows.zip r.1, r.2)

/-- The query blocks of an item one after another. -/
def State.attBlocks (s : State) (ctx : Nat) (v : AttRun) (qRows : List Row) :
    List QBlock → List ((Nat × Nat) × RowState) → List NanEvent →
      Except Halt (List ((Nat × Nat) × RowState) × List NanEvent)
  | [], rows, ev => .ok (rows, ev)
  | q :: qs, rows, ev => do
    let b ← s.attBlock ctx v qRows q ev
    s.attBlocks ctx v qRows qs (rows ++ b.1) b.2

/-! ### Outputs -/

/-- Planes of the queries, and of the output in a format. -/
def AttDesc.planeQ (x : AttDesc) (t : AttItem) : Plane :=
  { addr := t.q, fmt := x.fmt, len := x.cols, ld := x.qLd, saddr := 0 }
def AttDesc.planeO (x : AttDesc) (t : AttItem) (fmt saddr : Nat) : Plane :=
  { addr := t.o, fmt := fmt, len := x.cols, ld := x.oLd, saddr := saddr }

/-- The item's own output as a STORE with ADDR 0 sees it (R204, R288). -/
def AttDesc.ownPlane (x : AttDesc) (t : AttItem) (g : Stage) : Plane :=
  x.planeO t g.ifmt (if isMx g.ifmt then g.scalesAt t.pos g.pd else 0)

/-- The tiles of the finished output: one query block by one head's D columns (R288). -/
def AttDesc.tiles (x : AttDesc) (rows : Nat) : List Tile :=
  ((List.range x.hq).map fun h => (List.range (cdiv rows 128)).map fun b =>
    { rows := (List.range (min 128 (rows - 128 * b))).map fun r => 128 * b + r, c0 := h * x.d, cn := x.d, run := 0,
      row := 128 * b, outer := h : Tile }).flatten

/-- The writes of partial states (R286). -/
def AttRun.partWrites (v : AttRun) (l : List ((Nat × Nat) × RowState)) : List (Nat × Bytes) :=
  l.map fun p => (v.partAt p.1.1 p.1.2,
    leBytes 4 p.2.m.toNat ++ leBytes 4 p.2.l.toNat ++ (p.2.o.map fun w => leBytes 4 w.toNat).flatten)

/-- The finished matrix: row r, head h in columns h x D. -/
def AttRun.matrix (v : AttRun) (l : List ((Nat × Nat) × RowState)) : Mat :=
  (List.range v.t.rows).map fun r => ((List.range v.x.hq).map fun h =>
    match l.find? fun p => p.1 == (h, r) with
    | some p => p.2.finish (v.cv (h / v.x.grp))
    | none => List.replicate v.x.d 0).flatten

/-- The query block that a tile of the finished output comes from. -/
def AttRun.blockOf (v : AttRun) (e : NanEvent) : Option QBlock :=
  (v.x.blocks v.t.rows).find? fun q => q.rows.contains (e.outer, e.row)

/-- An event of the chain put on the core that finished its tile. -/
def AttRun.stampOut (v : AttRun) (e : NanEvent) : NanEvent :=
  match v.blockOf e with
  | some q => v.stamp q 2 0 e
  | none => e

/-- The work of an item. PUSH tiles are a head's D columns (R288); the partials of a ROWSTAT stay those of 128 columns that
R216 lays out. Log entry 47. -/
def State.attWork (s : State) (ctx : Nat) (v : AttRun) (chain : Option Chain) : Except Halt Work := do
  let qRows ← atOnce (s.readRows ctx (v.x.planeQ v.t) v.t.rows)
  let bl ← s.attBlocks ctx v qRows (v.x.blocks v.t.rows) [] []
  let rows := bl.1
  let ev := bl.2
  if v.x.partOut then .ok { writes := v.partWrites rows, pushes := [], events := ev }
  else
    let y := v.matrix rows
    match chain with
    | none => .ok { writes := storeRows (v.x.planeO v.t v.x.oFmt 0) false 0 y, pushes := [], events := ev }
    | some c =>
      let e : ChainEnv := { ctx := ctx, i := v.t.pos, m := v.t.rows, n := v.x.cols, tw := v.x.d }
      let put (l : List NanEvent) : List NanEvent := ev ++ l.map v.stampOut
      let f ← (s.runStages e (v.x.tiles v.t.rows) (fun g m => storeOwn (v.x.ownPlane v.t g) g m) c.stages
        (Flow.start y)).mapError fun h => (h.1, put h.2)
      .ok { writes := f.writes, pushes := f.pushes, events := put f.events }

/-- What an item reads through the issuing context, its start state apart. -/
def AttDesc.ins (x : AttDesc) (ctx : Nat) (t : AttItem) (chain : Option Chain) : List Piece :=
  let e : ChainEnv := { ctx := ctx, i := t.pos, m := t.rows, n := x.cols }
  { (x.planeQ t).part 0 t.rows with plane := none } ::
    match chain with
    | none => []
    | some c => c.stages.filterMap fun g => g.inPart e

/-- What an item writes. -/
def AttDesc.outs (x : AttDesc) (ctx : Nat) (t : AttItem) (chain : Option Chain) : List Piece :=
  let e : ChainEnv := { ctx := ctx, i := t.pos, m := t.rows, n := x.cols }
  if x.partOut then [runPart 0 t.part (x.hq * t.rows * (8 + 4 * x.d))]
  else
    match chain with
    | none => [(x.planeO t x.oFmt 0).part 0 t.rows]
    | some c => c.stages.filterMap fun g => g.outPart e (x.ownPlane t) t.rows

/-- The physical bytes of the pages an item's walks read. -/
def State.walkRuns (s : State) (v : AttRun) : List (Nat × Nat) :=
  match v.shard.source with
  | .peer _ => []
  | .here q ver =>
    let e := v.x.d * kvBytes v.x.fmt
    ((List.range v.x.hkv).map fun g => ([0, 1].map fun kind =>
      ((List.range (v.t.hi - v.t.lo)).map fun i =>
        match q.position? ver g kind (v.t.lo + i) with
        | none => []
        | some va => s.physOfRuns q.ctx [(va, e)] false).flatten).flatten).flatten

/-! ### Plans (R232, R292, R293, R295, R302; Rates) -/

/-- P for a number of units and the fewest key blocks of an item (R293). -/
def AttDesc.partsFor (x : AttDesc) (units cores blocks : Nat) : Nat :=
  if x.splitOk && decide (0 < units ∧ units < cores) then max 1 (min (splitParts units cores) blocks) else 1

/-- Streamed rows of a query block (R291). -/
def QBlock.streamed (q : QBlock) : Nat := Machine.streamed q.rows.length

/-- Every second member of a list, from the first. -/
def alternate {α : Type} : List α → List α
  | [] => []
  | [a] => [a]
  | a :: _ :: l => a :: alternate l

/-- Rows the fuller of A0 and A1 streams for the blocks of a pass that visit a key block (Rates). -/
def AttDesc.passRows (x : AttDesc) (visit : List (Bool × Nat)) : Nat :=
  let sum (l : List (Bool × Nat)) : Nat := (l.map fun p => if p.1 then p.2 else 0).sum
  if x.d ≤ 128 then max (sum (alternate visit)) (sum (alternate (visit.drop 1))) else sum visit

/-- Cycles of the supply of a key block on one of `cores` cores (Rates). -/
def supplyCycles (x : AttDesc) (gbps : Option Nat) (cores : Nat) : Nat :=
  let bytes := 256 * x.d * kvBytes x.fmt
  match gbps with
  | none => cdiv bytes 256
  | some g => cdiv (bytes * 3 * cores) (5 * max 1 g)

/-- c of the Rates. -/
def AttDesc.rate (x : AttDesc) : Nat := if isFp8 x.fmt then 1 else 2

/-- Planned cycles of a pass over one part of the key range. -/
def State.passCycles (s : State) (ctx : Nat) (v : AttRun) (cores : Nat) (pass : List QBlock) (p i : Nat) : Nat :=
  let maps := pass.map fun q => match s.bitmapOf ctx v.x v.t v.shard.base q.b with
    | .ok m => m
    | .error _ => (0, [])
  let sup := supplyCycles v.x v.shard.gbps cores
  288 + ((v.t.partBlocks p i).map fun k0 =>
    let visit := List.zipWith (fun q m => (v.x.visits v.t v.shard.base m q k0, q.streamed)) pass maps
    if visit.any fun p => p.1 then max (v.x.rate * v.x.passRows visit) (max 128 sup) else 0).sum

/-- A pass of an item for a key-value head, as a unit. -/
structure AttPass where
  run    : AttRun
  blocks : List QBlock
  deriving DecidableEq, Repr

/-- The units of some items before a split, in order of item, key-value head and pass (R292). -/
def attPasses (x : AttDesc) (alt : Bool) (runs : List AttRun) : List AttPass :=
  runs.flatMap fun v => (List.range x.hkv).flatMap fun g =>
    (x.passes alt v.t.rows g).map fun l => { run := v, blocks := l }

/-- A part of a pass as planned: the finished tiles of two query blocks stand in a slot where A0 and A1 share them (R244).
Log entry 27. -/
def State.attUnit (s : State) (ctx cores : Nat) (x : AttDesc) (epi : List Stage) (p i no : Nat) (a : AttPass) : PlanUnit :=
  let drain (q : QBlock) : Nat :=
    if epi.isEmpty ∨ 0 < i then 0
    else ((columnTiles x.d).map fun c => drainCycles epi 0 0 q.rows.length c.2).sum
  { cyc := s.passCycles ctx a.run cores a.blocks p i,
    slots := (runsOf (if x.d ≤ 128 then 2 else 1) a.blocks.length a.blocks).map fun l =>
      (x.rate * (l.map QBlock.streamed).foldl max 0, (l.map drain).sum),
    wp := (a.blocks.map fun q => q.rows.length).sum * (8 + 4 * x.d), rcw := 0, pass := no, pro := 0 }

/-- A way to run an ATTEND: PLAN, P, the units on their cores. -/
structure AttPlan where
  way  : Nat
  p    : Nat
  deal : AttDealing
  deriving DecidableEq, Repr

/-- An ATTEND planned, its passes full or half full, with the cycles of its busiest core. -/
def State.attPlanIn (s : State) (ctx : Nat) (cores : List Nat) (x : AttDesc) (epi : List Stage) (runs : List AttRun)
    (way : Nat) : AttPlan × Nat :=
  let passes := attPasses x (way == 1) runs
  let least := (runs.map fun v => cdiv (v.t.hi - v.t.lo) 128).foldl min 8
  let n := cores.length
  let p := x.partsFor passes.length n least
  let us := (passes.mapIdx fun no a => (List.range p).map fun i => s.attUnit ctx n x epi p i no a).flatten
  let places := dealt n (us.map PlanUnit.cyc)
  ({ way := way, p := p,
     deal := { cores := cores, places := places,
               units := passes.map fun a => { pos := a.run.t.pos, blocks := a.blocks.map QBlock.key } } },
    busiest n (way == 1) places (us.map fun u => [u]) + splitCycles p (us.map PlanUnit.wp))

/-- The plan of an ATTEND (R232, R292, R293). -/
def State.attPlan (s : State) (ctx : Nat) (cores : List Nat) (x : AttDesc) (chain : Option Chain) (runs : List AttRun) :
    AttPlan :=
  let epi := epilogueOf chain
  match fewest ((if epi.isEmpty then [0] else [0, 1]).map (s.attPlanIn ctx cores x epi runs)) with
  | some p => p.1
  | none => { way := 0, p := 1, deal := .none }

/-- R302: the estimate of a ring step exceeds 2 ms at 600 MHz. -/
def State.ringTooLong (s : State) (ctx : Nat) (cores : List Nat) (x : AttDesc) (runs : List AttRun) : Bool :=
  decide (1200000 < (s.attPlanIn ctx cores x [] runs 0).2)

/-! ### The command -/

/-- Unbound sequences that the items name take their pending versions (R266). -/
def State.attSwap (s : State) (c : Ctx) (ts : List AttItem) : State :=
  { s with seqs := s.seqs.map fun q =>
      if q.bound.isNone ∧ !q.gone ∧ (ts.any fun t => (s.itemSeq c t).any fun y => y.handle == q.handle) then q.swap else q }

/-- The walks of a command begin (R264). -/
def State.beginWalks (s : State) (k : Cmd) (runs : List AttRun) : State :=
  { s with seqs := s.seqs.map fun q =>
      if runs.any fun v => match v.shard.source with
        | .here y _ => y.handle == q.handle
        | .peer _ => false
      then { q with walks := q.walks ++ [.local q.current.version k.ctx k.ord] } else q }

/-- A fault of an item of a ring step that its peer caused carries the detail of R656. -/
def AttRun.faultDetail (v : AttRun) (h : Halt) : Halt :=
  if v.x.ring ∧ (h.1.1 = Err.ringInvalid ∨ h.1.1 = Err.ringPeerLost) then
    ((h.1.1, fabDetail h.1.1 0 v.shard.device v.t.item 0 0), h.2)
  else h

/-- An entry as an item of the command. -/
def State.attItem (s : State) (ctx : Nat) (x : AttDesc) (chain : Option Chain) (p : AttPlan) (j : JudgedAtt) : CoreItem :=
  let outs := if j.live then x.outs ctx j.t chain else []
  match j.shard with
  | .error code => .refused j.t.pos j.t.item j.itemOk outs code
  | .ok h =>
    if !j.live then .idle j.t.pos j.t.item j.itemOk
    else
      let v : AttRun := { x := x, t := j.t, shard := h, parts := p.p, deal := p.deal }
      { pos := j.t.pos, item := j.t.item, itemOk := j.itemOk, ins := x.ins ctx j.t chain, outs := outs,
        work := (s.attWork ctx v chain).mapError v.faultDetail }

/-- The outputs of items whose walks read pages that the command itself writes become unspecified. -/
def State.walkOverlaps (s : State) (ctx : Nat) (runs : List AttRun) (items : List CoreItem) : List (Nat × Nat) :=
  let outs (it : CoreItem) : List (Nat × Nat) := s.physOfRuns ctx (it.outs.map fun p => p.runs).flatten true
  let written := (items.map outs).flatten
  (items.map fun it =>
    if runs.any fun v => v.t.pos == it.pos &&
        (s.walkRuns v).any fun r => written.any fun w => (overlapRun r w).2 != 0
    then outs it else []).flatten

/-- The statistics an ATTEND plans (R295): PLAN, P, and the first key block of each part of its first item. -/
def CmdRec.attended (r : CmdRec) (p : AttPlan) (chain : Option Chain) (first : Option AttItem) (shares : List (Nat × Nat)) :
    CmdRec :=
  { r with plan := p.way, p := p.p, cores := p.deal.places.dedup.length, shares := shares,
           chainTag := (chain.map fun c => c.tag).getD 0,
           partLo := (List.range 8).map fun i => match first with
             | some t => if i < p.p then ((t.partBlocks p.p i).headD 0) / 128 else 0
             | none => 0 }

/-- The data of a SEQ_READ (Table 4 of 13). -/
def seqReadData (walk handle head kind what first count : Nat) : Bytes :=
  leBytes 4 walk ++ leBytes 4 handle ++ leBytes 2 head ++ leBytes 1 kind ++ leBytes 1 what ++ leBytes 4 first ++
    leBytes 4 count ++ zeros 4

/-- A range asked for in runs of at most `most`: first and count of each. -/
def askRuns (most lo hi : Nat) : List (Nat × Nat) :=
  (List.range (cdiv (hi - lo) most)).map fun i => (lo + i * most, min most (hi - lo - i * most))

/-- The SEQ_READs that serve an item of a ring step, each with the bytes it asks for: per head its length and scales, then
for the keys and the values the entries of its pages and its positions (R301, R629). Log entry 41. -/
def AttDesc.ringAsks (x : AttDesc) (t : AttItem) (handle walk : Nat) : List (Bytes × Nat) :=
  let e := x.d * kvBytes x.fmt
  let plane (g kind : Nat) : List (Bytes × Nat) :=
    ((askRuns 8192 (t.lo / 256) (cdiv t.hi 256)).map fun r => (seqReadData walk handle g kind 0 r.1 r.2, 8 * r.2)) ++
      (askRuns (65536 / max 1 e) t.lo t.hi).map fun r => (seqReadData walk handle g kind 1 r.1 r.2, e * r.2)
  ((List.range x.hkv).map fun g => (seqReadData walk handle g 0 2 0 0, 12) :: (plane g 0 ++ plane g 1)).flatten

/-- What the items of a ring step read from peers (R303, R629): each item has a walk of its own. -/
def State.ringReads (s : State) (c : Ctx) (ord : Nat) (x : AttDesc) (js : List JudgedAtt) (items : List CoreItem) :
    List RingRead :=
  (js.zip items).filterMap fun p => p.1.runs?.bind fun h => match h.source with
    | .here _ _ => none
    | .peer _ =>
      if p.2.stop?.isSome then none
      else some { device := h.device, item := p.1.t.item, outs := s.outRuns c [p.2], part := p.1.t.pos,
                  asks := x.ringAsks p.1.t h.handle (256 * ord + p.1.t.pos) }

/-- The requests of an item of a ring step: its SEQ_READs, and the SEQ_RELEASE of its walk after them (R624, R629). -/
def Cmd.ringReqs (k : Cmd) (s : State) (r : RingRead) : List Req :=
  let a := r.device * 2 ^ 52
  (r.asks.map fun q => { k.req s Rec.seqRead false r.item r.part a q.1 with want := q.2 }) ++
    [{ k.req s Rec.seqRelease false r.item r.part a (leBytes 4 (256 * k.ord + r.part) ++ zeros 4) with after := true }]

/-- An ATTEND planned once its list is read. -/
def State.attPlanned (s : State) (hw : RunHw) (c : Ctx) (k : Cmd) (x : AttDesc) (chain : Option Chain)
    (js : List JudgedAtt) (runs : List AttRun) : CoreRun :=
  let cores := s.partCores c.partition
  let p := s.attPlan k.ctx cores x chain runs
  let items := js.map (s.attItem k.ctx x chain p)
  let b : Begun :=
    { k.begun with long := x.long, cores := cores, unitMode := 6,
                   record := k.record.attended p chain ((runs.map fun v => v.t).head?)
                     (rowShares c (runs.map fun v => (v.t.item, v.t.rows))),
                   ring := s.ringReads c k.ord x js items, hw := { hw with expSram := none } }
  { state := s.beginWalks k runs, begun := b, wait := false, items := items, extra := s.walkOverlaps k.ctx runs items }

/-- An ATTEND judged and planned (R271 to R305). -/
def State.attRun (hw : RunHw) (remote : List RemoteShard) (s : State) (c : Ctx) (k : Cmd) : Except Code CoreRun :=
  let x := parseAtt k.desc
  let cores := s.partCores c.partition
  match x.check cores.isEmpty s.hasFabric (s.peekChain k.ctx x.chain) k.desc with
  | some code => .error code
  | none => do
    let raw ← s.listOf k x.list (80 * x.cnt)
    let entry (i : Nat) : Bytes := sliceBytes raw (80 * i) 80
    let s1 := s.attSwap c ((List.range x.cnt).map fun i => parseAttItem i (entry i))
    let js := (List.range x.cnt).map fun i => s1.judgeAtt c x remote i (entry i)
    let runs := js.filterMap fun j => j.runs?.map fun h =>
      ({ x := x, t := j.t, shard := h, parts := 1, deal := .none } : AttRun)
    if x.ring ∧ s1.ringTooLong k.ctx cores x runs then .error Err.ringStepTooLong
    else
      let chain ← s.readChain? k.ctx x.chain x.use
      .ok (s1.attPlanned hw c k x chain js runs)

/-- What a begun ring step reads from its peers, by the ordinal of its beginning. -/
def State.ringOf (s : State) (k : Cmd) : List RingRead :=
  match (s.ctx? k.ctx).bind fun c => c.begun.find? fun b => b.ord == k.ord with
  | some b => b.ring
  | none => []

/-- ATTEND begun: a ring step's reads go to its peers (R301, R624). -/
def attendBody (hw : RunHw) (remote : List RemoteShard) (s : State) (c : Ctx) (k : Cmd) : State :=
  let s1 := s.runCore c k (s.attRun hw remote c k)
  s1.issueAll ((s1.ringOf k).map (k.ringReqs s1))

/-- ATTEND (R271). -/
def execAttend (ctx : Nat) (hw : RunHw) (remote : List RemoteShard) (s : State) : Host.Outcome State Fault Refusal :=
  done s (s.runCmd ctx (isOpcode 3) (attendBody hw remote))

end Sys2Proof.Machine
end

