-- ==== Sys2Proof/Machine/Links.lean ====
section
/-! DEFINITION. Fabric ports: FABRIC_CONFIG, subports up and down, link tests, and the judgement of received frames (12,
R583 to R590, R608 to R613; 16, R736 to R738). -/
namespace Sys2Proof.Machine

open Sys2Proof

/-! ### FABRIC_CONFIG (R586 to R590) -/

/-- Table 4 of 12. -/
def fabGlobalOk (b : Bytes) : Bool :=
  let et := leAt b 6 2
  let mp := leAt b 12 2
  decide (leAt b 4 2 ≤ 4095) && decide (0x0600 ≤ et) && !([0x0800, 0x86DD, 0x8100, 0x8808, 0x88CC].contains et) &&
    decide (1024 ≤ leAt b 8 2) && byteAt b 10 != 0 && decide ((byteAt b 11).toNat < 64) && mp % 1024 == 0 &&
    decide (1024 ≤ mp ∧ mp ≤ 8192)

/-- The settings of a GLOBAL body. -/
def fabGlobalOf (b : Bytes) : FabGlobal :=
  { device := some (leAt b 4 2), etherType := BitVec.ofNat 16 (leAt b 6 2), udpPort := BitVec.ofNat 16 (leAt b 8 2),
    hopLimit := byteAt b 10, dscp := byteAt b 11, maxPayload := leAt b 12 2 }

/-- A configuration form handed to its port groups, the message waiting for them (R590). -/
def State.configWait (s : State) (m : Msg) (groups : List Nat) : Carried :=
  .wait (s.updFab fun x => { x with pending := x.pending ++ [{ body := m.body, groups := groups, seq := m.seq, ord := s.ord }] }).tick

/-- FABRIC_CONFIG GLOBAL carried out (R587, R588, R590). -/
def carryFabGlobal (s : State) (m : Msg) : Carried :=
  let b := m.body
  if !fabGlobalOk b then refuse s Err.fabricConfigInvalid
  else if s.fab.glob.device ≠ some (leAt b 4 2) ∧ (s.fab.peers.any fun p => p.session.isSome) = true then
    refuse s Err.fabricBusy
  else
    match s.ownerRecord Kind.fabricGlobal [] (sliceBytes b 4 10) with
    | none => refuse s Err.journalFull
    | some t => (t.updFab fun x => { x with glob := fabGlobalOf b }).configWait m (List.range 6)

/-- FABRIC_CONFIG GLOBAL (R588). -/
def execFabricConfigGlobal (slot : SlotRef) (s : State) : Host.Outcome State Fault Refusal :=
  done s (s.takeRow slot .fabGlobal carryFabGlobal)

/-- Table 5 of 12. -/
def fabPortOk (b : Bytes) : Bool :=
  let mode := (byteAt b 2).toNat
  let fl := (byteAt b 5).toNat
  let vid := leAt b 6 2
  let pcp := (byteAt b 8).toNat
  decide ((byteAt b 1).toNat < 24) && decide (mode ≤ 2) && decide ((byteAt b 3).toNat ≤ 3) &&
    decide ((byteAt b 4).toNat ≤ 2) && (mode != 2 || (byteAt b 3 == 0 && byteAt b 4 == 0)) && decide (fl ≤ 1) &&
    (fl == 0 || mode == 1) && (if fl = 1 then decide (1 ≤ vid ∧ vid ≤ 4094 ∧ pcp ≤ 7) else vid == 0 && pcp == 0)

/-- FABRIC_CONFIG PORT carried out (R587, R589, R590). -/
def carryFabPort (s : State) (m : Msg) : Carried :=
  let b := m.body
  if !fabPortOk b ∨ (byteAt b 2 ≠ 0 ∧ s.fab.glob.device = none) then refuse s Err.fabricConfigInvalid
  else s.configWait m [(byteAt b 1).toNat / 4]

/-- FABRIC_CONFIG PORT (R589). -/
def execFabricConfigPort (slot : SlotRef) (s : State) : Host.Outcome State Fault Refusal :=
  done s (s.takeRow slot .fabPort carryFabPort)

/-- A global unicast address: not unspecified, loopback, multicast or link-local. -/
def globalUnicast (a : Nat) : Bool := decide (2 ≤ a) && a / 2 ^ 120 != 0xFF && a / 2 ^ 118 != 0x3FA

/-- Table 6 of 12. -/
def State.fabSubportOk (s : State) (b : Bytes) : Bool :=
  let port := (byteAt b 1).toNat
  let f := s.fport port
  let enc := (byteAt b 3).toNat
  let ip := beAt b 8 16
  let nh := beAt b 24 6
  decide (port < 24) && decide ((byteAt b 2).toNat < f.subports) && decide (enc ≤ 1) && (enc == 0 || f.mode == 1) &&
    decide ((byteAt b 4).toNat ≤ 1) &&
    (if enc = 1 then globalUnicast ip && nh != 0 && nh / 2 ^ 40 % 2 == 0 else ip == 0 && nh == 0)

/-- FABRIC_CONFIG SUBPORT carried out (R587, R590). -/
def carryFabSubport (s : State) (m : Msg) : Carried :=
  if !s.fabSubportOk m.body then refuse s Err.fabricConfigInvalid else s.configWait m [(byteAt m.body 1).toNat / 4]

/-- FABRIC_CONFIG SUBPORT (R586). -/
def execFabricConfigSubport (slot : SlotRef) (s : State) : Host.Outcome State Fault Refusal :=
  done s (s.takeRow slot .fabSubport carryFabSubport)

/-! ### Subports up and down (R583 to R585) -/

/-- A subport out of service, its settings kept. -/
def Subport.drop (x : Subport) : Subport :=
  { x with up := false, training := false, fecLock := false, badRun := 0,
           counters := if x.up then x.counters.modify Ctr.linkDowns (· + 1) else x.counters }

/-- A subport that begins Table 3 of 12 at step 2. -/
def Subport.train (x : Subport) : Subport := { x with training := true }

/-- A subport's SUBPORT settings at zero (R588, R589). -/
def Subport.unset (x : Subport) : Subport := { x with encap := false, noLldp := false, ipv6 := 0, nextHop := 0 }

/-- Every subport of a port changed. -/
def State.eachSub (s : State) (p : Nat) (f : Subport → Subport) : State :=
  (List.range 8).foldl (fun t i => t.updSub (8 * p + i) f) s

/-- The subports of a port's mode begin their bring-up. -/
def State.bringUp (s : State) (p : Nat) : State :=
  let f := s.fport p
  if f.testing then s else (List.range f.subports).foldl (fun t i => t.updSub (8 * p + i) Subport.train) s

/-- A PORT form applied (R589). -/
def State.applyPort (s : State) (b : Bytes) : State :=
  let p := (byteAt b 1).toNat
  let f := s.fport p
  let g := { f with mode := (byteAt b 2).toNat, breakout := (byteAt b 3).toNat, media := (byteAt b 4).toNat,
                    vlan := (byteAt b 5).getLsbD 0, vid := leAt b 6 2, pcp := (byteAt b 8).toNat }
  let s1 := s.updFport p fun _ => g
  if f.mode = g.mode ∧ f.breakout = g.breakout ∧ f.media = g.media then s1
  else ((s1.eachSub p Subport.drop).eachSub p Subport.unset).bringUp p

/-- A SUBPORT form applied. -/
def State.applySubport (s : State) (b : Bytes) : State :=
  s.updSub (8 * (byteAt b 1).toNat + (byteAt b 2).toNat) fun x =>
    { x with encap := byteAt b 3 == 1, noLldp := (byteAt b 4).getLsbD 0, ipv6 := BitVec.ofNat 128 (beAt b 8 16),
             nextHop := BitVec.ofNat 48 (beAt b 24 6) }

/-- A configuration form applied by a port group (R523, R590). -/
def State.applyForm (s : State) (g : Nat) (b : Bytes) : State :=
  match (byteAt b 0).toNat with
  | 0 => s.updFab fun x => { x with groups := x.groups.set g (fabGlobalOf b) }
  | 1 => s.applyPort b
  | _ => s.applySubport b

/-- A form may be applied now: a form for a port under test waits for the test's end (R737). -/
def State.formReady (s : State) (b : Bytes) : Bool := byteAt b 0 == 0 || !(s.fport (byteAt b 1).toNat).testing

/-- The next form a port group may apply, applied; its message is replied once every group concerned has (R590). -/
def State.groupForm (s : State) (g : Nat) : State :=
  match s.fab.pending.find? fun f => f.groups.contains g && s.formReady f.body with
  | none => s
  | some f =>
    let rest := f.groups.filter fun x => x != g
    let s1 := (s.applyForm g f.body).updFab fun x =>
      { x with pending := if rest.isEmpty then x.pending.filter (fun y => y.seq != f.seq)
               else x.pending.map fun y => if y.seq = f.seq then { y with groups := rest } else y }
    if rest.isEmpty then s1.replyWaiting f.seq Err.success (zeros 240) else s1

/-- A port group's part of each REMOVE_PEER that waits (R599). -/
def State.groupRemovals (s : State) (g : Nat) : State :=
  let step := s.fab.removing.map fun r => (r.1, r.2.1, r.2.2.filter fun x => x != g)
  let gone := step.filter fun r => r.2.2.isEmpty
  let s1 := s.updFab fun x =>
    { x with removing := step.filter (fun r => !r.2.2.isEmpty)
             peers := x.peers.filter fun p => !(gone.any fun r => r.2.1 == p.device) }
  gone.foldl (fun t r => t.replyWaiting r.1 Err.success (zeros 240)) s1

/-- A test word applied to a port: ENABLE 1 takes its subports down and clears its lanes, ENABLE 0 starts its bring-up
(R737). -/
def State.applyPrbs (s : State) (p : Nat) (w : Word) : State :=
  let was := (s.fport p).testing
  let s1 := s.updFport p fun f => { f with prbs := w, armed := none }
  if prbsRuns w then
    (s1.eachSub p Subport.drop).updFab fun x =>
      { x with lanes := x.lanes.mapIdx fun i y => if i / 8 = p then (false, 0) else y }
  else if was then s1.bringUp p else s1

/-- The ordinal of the next form a port group may apply. -/
def State.nextFormOrd (s : State) (g : Nat) : Option Nat :=
  (s.fab.pending.find? fun f => f.groups.contains g && s.formReady f.body).map fun f => f.ord

/-- The armed registers of a port group applied, where they were armed before a form's issue (R525, R528, R736). -/
def State.groupArms (s : State) (g : Nat) (form : Option Nat) : State :=
  (List.range 4).foldl (fun t i =>
    let f := t.fport (4 * g + i)
    match f.armed with
    | none => t
    | some w => if form.all fun n => decide (f.armOrd < n) then t.applyPrbs (4 * g + i) w else t) s

/-- SUBPORT_UP: steps 4 and 5 of Table 3 of 12 (R583, R611). -/
def State.subportUp (s : State) (l : Nat) : State :=
  let x := s.sub l
  if !s.linkExists l ∨ !x.training ∨ x.up then s
  else
    let s1 := s.updSub l fun x => { x with up := true, training := false, fecLock := true, badRun := 0 }
    let s2 := if x.encap && x.ipv6 != 0 then s1.sendAdvert l false else s1
    if x.noLldp then s2 else s2.sendLldp l

/-- SUBPORT_UP (R583). -/
def execSubportUp (link : Nat) (s : State) : Host.Outcome State Fault Refusal := done s (s.subportUp link)

/-- SUBPORT_BRINGUP_RETRY: a subport not up 3 s after step 2 begins again at step 2 (R583). -/
def State.bringupRetry (s : State) (l : Nat) : State :=
  if !s.linkExists l ∨ (s.sub l).up then s
  else s.updSub l fun x => { x with training := true, fecLock := false }

/-- SUBPORT_BRINGUP_RETRY (R583). -/
def execSubportBringupRetry (link : Nat) (s : State) : Host.Outcome State Fault Refusal :=
  done s (s.bringupRetry link)

/-- A subport that was up goes down and begins again (R584). -/
def State.subportDown (s : State) (l : Nat) : State :=
  if !s.linkExists l ∨ !(s.sub l).up then s else s.updSub l fun x => x.drop.train

/-- SUBPORT_FEC_LOCK_LOSS (R584). -/
def execSubportFecLockLoss (link : Nat) (s : State) : Host.Outcome State Fault Refusal := done s (s.subportDown link)

/-- SUBPORT_ERROR_WINDOW: the codewords of a window counted; the eighth bad window in a row takes the subport down
(R584). -/
def State.errorWindow (s : State) (l unc corr sym : Nat) : State :=
  if !s.linkExists l ∨ !(s.sub l).up then s
  else
    let s1 := ((s.count l Ctr.fecUncorrected unc).count l Ctr.fecCorrected corr).count l Ctr.fecSymbols sym
    let n := if unc > 64 then (s.sub l).badRun + 1 else 0
    if n ≥ 8 then s1.subportDown l else s1.updSub l fun x => { x with badRun := n }

/-- SUBPORT_ERROR_WINDOW (R584). -/
def execSubportErrorWindow (link : Nat) (uncorrectable : Nat) (corrected : Nat) (symbols : Nat) (s : State) :
    Host.Outcome State Fault Refusal := done s (s.errorWindow link uncorrectable corrected symbols)

/-- LLDP_TIMER: each subport that is up, unless NO_LLDP is set (R611, Table 6 of 12). -/
def State.lldpTimer (s : State) (l : Nat) : State :=
  if !s.linkExists l ∨ !(s.sub l).up ∨ (s.sub l).noLldp then s else s.sendLldp l

/-- LLDP_TIMER (R611). -/
def execLldpTimer (link : Nat) (s : State) : Host.Outcome State Fault Refusal := done s (s.lldpTimer link)

/-! ### Pattern checkers (R738) -/

/-- A link lane checks a pattern: its port is under test with the lane's CHK_LANES bit, and PATTERN is that pattern. -/
def State.laneChecks (s : State) (i : Nat) (pattern : Nat) : Bool :=
  let f := s.fport (i / 8)
  f.present && f.testing && f.prbs.getLsbD (i % 8) && bitsOf f.prbs.toNat 30 28 == pattern

/-- PRBS_CHECKER_LOCK (R738). -/
def execPrbsCheckerLock (lane : Nat) (pattern : BitVec 1) (s : State) : Host.Outcome State Fault Refusal :=
  done s (if s.laneChecks lane pattern.toNat then
    s.updFab fun x => { x with lanes := x.lanes.modify lane fun y => (true, y.2) } else s)

/-- A lane's count of bit errors, which stops at 0x7FFF_FFFF (Table 5 of 16). -/
def addErrors (e : BitVec 31) (n : Nat) : BitVec 31 := BitVec.ofNat 31 (min (e.toNat + n) 0x7FFFFFFF)

/-- PRBS_CHECKER_LOCK_LOSS: the bit errors counted while the lane was locked, and LOCK cleared (R738). -/
def execPrbsCheckerLockLoss (lane : Nat) (errors : Nat) (s : State) : Host.Outcome State Fault Refusal :=
  done s (s.updFab fun x =>
    { x with lanes := x.lanes.modify lane fun y => if y.1 then (false, addErrors y.2 errors) else y })

/-! ### A received frame (R609) -/

/-- A received Beykai header, parsed (Table 8 of 12). -/
structure Beykai where
  cls     : Nat
  flags   : Nat
  link    : Nat
  src     : Nat
  session : Word
  epoch   : Word
  pn      : Nat
  head    : Bytes                     -- the 32 bytes of the header
  body    : Bytes
  deriving DecidableEq, Repr

/-- A Beykai header with its body, none when VERSION, CLASS, a reserved byte, LENGTH or DST_DEVICE is wrong. -/
def parseBeykai (own : Option Nat) (h : Bytes) : Option Beykai :=
  let cls := (byteAt h 1).toNat
  let flags := (byteAt h 2).toNat
  let len := beAt h 4 2
  if h.length < 32 ∨ byteAt h 0 ≠ 1 ∨ !(cls == 1 || cls == 2) ∨ (if cls = 1 then flags ≠ 0 else flags > 3) ∨
      h.length ≠ 32 + len ∨ beAt h 6 2 ≥ 4096 ∨ own ≠ some (beAt h 8 2) ∨ !zeroRange h 10 12 ∨ !zeroRange h 28 32 ∨
      (if cls = 1 then beAt h 20 8 ≠ 0 else len < 32) then none
  else
    some { cls := cls, flags := flags, link := (byteAt h 3).toNat, src := beAt h 6 2,
           session := BitVec.ofNat 32 (beAt h 12 4), epoch := BitVec.ofNat 32 (beAt h 16 4), pn := beAt h 20 8,
           head := h.take 32, body := h.drop 32 }

/-- Whether a frame is addressed to a subport (R609). -/
def State.addressed (s : State) (l dst : Nat) : Bool :=
  let ip := (s.sub l).ipv6.toNat
  dst == (s.linkMac l).toNat || dst == 0xFFFFFFFFFFFF || dst == 0x0180C200000E ||
    (ip != 0 && dst == 0x3333FF000000 + ip % 2 ^ 24)

/-- A device has an entry as a port group sees it (R599). -/
def State.entryAt (s : State) (l d : Nat) : Option Peer :=
  if s.fab.removing.any fun r => r.2.1 == d && !r.2.2.contains (linkGroup l) then none else s.peer? d

/-- An epoch is that of the session, or the previous one within its 10 ms (R608). -/
def Session.current (q : Session) (e : Word) : Bool := e == q.epoch || (q.prevOk && e + 1 == q.epoch)

/-- The receive window of an epoch and sending link. -/
def Session.window (q : Session) (e : Word) (link : Nat) : PnWindow :=
  (q.windows.find? fun w => w.epoch == e && w.link == link).getD { epoch := e, link := link, high := 0, seen := [] }

/-- A PN below the window of 1,024, or accepted already (R608). -/
def PnWindow.replay (w : PnWindow) (pn : Nat) : Bool := decide (pn + 1024 ≤ w.high) || w.seen.contains pn

/-- A PN marked accepted. -/
def PnWindow.mark (w : PnWindow) (pn : Nat) : PnWindow :=
  let h := max w.high pn
  { w with high := h, seen := (pn :: w.seen).filter fun n => decide (h < n + 1024) }

/-- A frame accepted: its PN marked, its notes kept, its plaintext handed to the transport (R608, R609, R625). -/
def State.acceptFrame (s : State) (l d : Nat) (b : Beykai) (ce : Bool) (plain : Bytes) : State :=
  let s1 := s.updSession d fun q =>
    { q with windows := (q.window b.epoch b.link).mark b.pn ::
               q.windows.filter (fun w => !(w.epoch == b.epoch && w.link == b.link)),
             eceIn := q.eceIn || bitOf b.flags 0, ceNote := q.ceNote || ce }
  let s2 := s1.count l Ctr.rxAccepted 1
  let s3 := if ce then s2.count l Ctr.rxCe 1 else s2
  s3.acceptPlain d plain

/-- Admission frames a port group passed in the last second (R609). -/
def State.admitted1s (s : State) (g now : Nat) : Nat :=
  (s.fab.admits.filter fun a => a.1 == g && decide (now < a.2 + 1000)).length

/-- An admission frame judged (R609); a payload that breaks Table 11 of 12 goes no further. -/
def State.judgeAdmission (s : State) (l : Nat) (b : Beykai) (now : Nat) : State :=
  let g := linkGroup l
  if s.admitted1s g now ≥ 100 then s.count l Ctr.rxAdmitRate 1
  else
    let s1 := (s.count l Ctr.rxAdmitTaken 1).updFab fun x =>
      { x with admits := (g, now) :: x.admits.filter fun a => decide (now < a.2 + 1000) }
    if !admitOk b.body ∨ b.session = 0 then s1
    else
      let a : AdmitIn := { link := l, session := b.session, epoch := b.epoch, payload := b.body }
      s1.updPeer b.src fun p => { p with admitIn := p.admitIn ++ [a] }

/-- A protected frame judged: its tag is computed under the key of the receiving direction (R604, R605, R608, R609). -/
def State.judgeProtected (s : State) (l : Nat) (p : Peer) (b : Beykai) (ce : Bool) : State :=
  match p.session with
  | none => s.count l Ctr.rxNoSession 1
  | some q =>
    if q.id ≠ b.session ∨ !q.current b.epoch then s.count l Ctr.rxNoSession 1
    else if (q.window b.epoch b.link).replay b.pn then s.count l Ctr.rxReplay 1
    else
      match sm4GcmOpen (q.rxKey b.epoch) (frameNonce (q.rxSalt b.epoch) b.link b.pn) b.head b.body with
      | none => s.count l Ctr.rxBadTag 1
      | some plain => s.acceptFrame l p.device b ce plain

/-- A Beykai run judged (R609). -/
def State.judgeBeykai (s : State) (l : Nat) (h : Bytes) (ce : Bool) (f : WireFrame) : State :=
  match parseBeykai (s.globOf l).device h with
  | none => s.count l Ctr.rxMalformed 1
  | some b =>
    match s.entryAt l b.src with
    | none => s.count l Ctr.rxUnadmitted 1
    | some p =>
      if p.frozen.isSome then s.count l Ctr.rxFrozenPeer 1
      else if b.cls = 1 then s.judgeAdmission l b f.at_ms
      else s.judgeProtected l p b ce

/-- An IPv6 packet judged (R609, R611). -/
def State.judgeIpv6 (s : State) (l : Nat) (pkt : Bytes) (f : WireFrame) : State :=
  let ip := beBytes 16 (s.sub l).ipv6.toNat
  let nh := (byteAt pkt 6).toNat
  let pay := pkt.drop 40
  let dst := sliceBytes pkt 24 16
  if pkt.length < 40 ∨ beAt pkt 4 2 ≠ pay.length then s.count l Ctr.rxOther 1
  else if nh = 17 ∧ dst = ip ∧ pay.length ≥ 4 ∧ beAt pay 2 2 = (s.globOf l).udpPort.toNat then
    if pay.length < 8 ∨ beAt pay 4 2 ≠ pay.length ∨ beAt pay 6 2 = 0 ∨ !udpSumOk (sliceBytes pkt 8 16) dst pay then
      s.count l Ctr.rxL3l4Bad 1
    else s.judgeBeykai l (pay.drop 8) (beAt pkt 0 2 / 16 % 4 == 3) f
  else if nh = 58 ∧ byteAt pay 0 = 135 ∧ byteAt pkt 7 = 255 ∧ sliceBytes pay 8 16 = ip ∧ pay.length ≥ 24 then
    (s.sendAdvert l true).count l Ctr.rxNdAnswered 1
  else s.count l Ctr.rxOther 1

/-- A frame past its size and FCS judged by its destination and EtherType (R609). -/
def State.judgeFrame (s : State) (l : Nat) (f : WireFrame) : State :=
  let b := f.bytes.take (f.bytes.length - 4)
  let direct := (s.fport (linkPort l)).mode == 2
  if beAt b 12 2 = 0x8808 then s.count l Ctr.rxPause 1
  else if !s.addressed l (beAt b 0 6) then s.count l Ctr.rxNotOurs 1
  else
    let o := if beAt b 12 2 = 0x8100 then 16 else 12
    let ty := beAt b o 2
    let pay := b.drop (o + 2)
    if ty = (s.globOf l).etherType.toNat then s.judgeBeykai l pay false f
    else if !direct ∧ ty = 0x86DD ∧ (s.sub l).ipv6 ≠ 0 then s.judgeIpv6 l pay f
    else s.count l Ctr.rxOther 1

/-- A received frame (R609); on a subport that is not up it is lost (R585). -/
def State.frameReceive (s : State) (l : Nat) (f : WireFrame) : State :=
  let n := f.bytes.length
  if !s.linkExists l ∨ !(s.sub l).up then s
  else if !f.fecOk ∨ !f.fcsOk then s.count l Ctr.rxFcsError 1
  else if n < 64 ∨ n > 9216 then s.count l Ctr.rxSizeError 1
  else ((s.count l Ctr.rxFrames 1).count l Ctr.rxBytes n).judgeFrame l f

/-- FRAME_RECEIVE (R609). -/
def execFrameReceive (link : Nat) (frame : WireFrame) (s : State) : Host.Outcome State Fault Refusal :=
  done s (s.frameReceive link frame)

/-! ### Status (R612, R613, R738) -/

/-- FAB_PORT_STATUS of a port (Table 12 of 12). -/
def State.fabPortStatus (s : State) (p : Nat) : Nat :=
  let f := s.fport p
  let set (g : Subport → Bool) : Nat := (List.range 8).foldl (fun a i => if g (s.sub (8 * p + i)) then a + 2 ^ i else a) 0
  packFields [(0, 8), (set fun x => x.training, 8), (set fun x => x.up, 8), (0, 3), (f.breakout, 2), (f.mode, 2),
    (bit f.present, 1)]

/-- SUBPORT_STATUS of a link (Table 13 of 12). -/
def State.subportStatus (s : State) (l : Nat) : Nat :=
  let f := s.fport (linkPort l)
  let x := s.sub l
  let rate := if l % 8 ≥ f.subports then 0 else if f.mode = 2 then 5 else 4 - f.breakout
  packFields [(0, 25), (bit x.encap, 1), (rate, 3), (bit x.fecLock, 1), (bit x.training, 1), (bit x.up, 1)]

/-- A counter of a link's block by its offset: 64 bits. -/
def State.counterAt (s : State) (l o : Nat) : Nat := (s.sub l).counters.getD (o / 8 - 1) 0 % 2 ^ 64

/-- FAB_PRBS_LANE of a link lane (Table 5 of 16). -/
def State.prbsLane (s : State) (i : Nat) : Nat :=
  let y := s.fab.lanes.getD i (false, 0)
  packFields [(y.2.toNat, 31), (bit y.1, 1)]

end Sys2Proof.Machine
end

