-- ==== Sys2Proof/Machine/Power.lean ====
section
/-! DEFINITION. The platform unit: power policy, the brake, energy, temperatures, the thermal stop, ageing and the
sideband registers (14; 17, R748 to R752). -/
namespace Sys2Proof.Machine

open Sys2Proof

/-- The platform unit works: the module is powered, out of reset and its start has ended. -/
def State.platformRuns (s : State) : Bool := s.phase == .ready || s.phase == .startHalted || s.phase == .recovery

/-- Changes of the platform's registers. -/
def State.updPlt (s : State) (f : Plt → Plt) : State := { s with plt := f s.plt }

/-- Changes of the duties. -/
def State.updHeat (s : State) (f : Heat → Heat) : State := { s with heat := f s.heat }

/-! ### POWER_POLICY (R667 to R670) -/

/-- Table 3 of 14, the reserved bytes apart. -/
def policyOk (b : Bytes) : Bool :=
  let set := (byteAt b 0).toNat
  let cap := leAt b 2 2
  decide (1 ≤ set ∧ set ≤ 7) && decide ((byteAt b 1).toNat ≤ 7) &&
    (if bitOf set 0 then decide (1200 ≤ cap ∧ cap ≤ 3600) else cap == 0)

/-- The settings a policy leaves, over the ones that wait already. -/
def Plt.settings (p : Plt) : Nat × Nat :=
  match p.policyWait.getLast? with
  | some w => (w.1, w.2.1)
  | none => (p.capW, p.classLimit)

/-- POWER_POLICY carried out: journalled with PERSIST, then waiting for the next window (R668, R669). -/
def carryPowerPolicy (s : State) (m : Msg) : Carried :=
  let b := m.body
  let set := (byteAt b 0).toNat
  if !policyOk b then refuse s Err.powerPolicyInvalid
  else
    let cap := if bitOf set 0 then leAt b 2 2 else s.plt.settings.1
    let cls := if bitOf set 1 then (byteAt b 1).toNat else s.plt.settings.2
    let t := if bitOf set 2 then s.ownerRecord Kind.powerPolicy [] (leBytes 2 cap ++ leBytes 1 cls) else some s
    match t with
    | none => refuse s Err.journalFull
    | some t => .wait (t.updPlt fun p => { p with policyWait := p.policyWait ++ [(cap, cls, m.seq)] })

/-- POWER_POLICY (R668). -/
def execPowerPolicy (slot : SlotRef) (s : State) : Host.Outcome State Fault Refusal :=
  done s (s.takeRow slot .powerPolicy carryPowerPolicy)

/-- The waiting policies applied at the start of a window, with the cap in force (R667), and replied. -/
def State.applyPolicies (s : State) : State :=
  let waits := s.plt.policyWait
  let s1 := s.updPlt fun p =>
    let (cap, cls) := p.settings
    { p with capW := cap, classLimit := cls, policyWait := [], capInForce := min cap p.boardW }
  waits.foldl (fun t w =>
    t.replyWaiting w.2.2 Err.success
      (replyBody (leBytes 2 (min w.1 s1.plt.boardW) ++ leBytes 2 s1.plt.boardW ++ leBytes 1 w.2.1))) s1

/-! ### The brake (R671 to R673) -/

/-- The procedure of R671 on one sample, in milliwatts and nanojoules. -/
def Heat.brake (h : Heat) (capW idleW p : Nat) (settled : Bool) : Heat :=
  let i := h.sample + 1
  let e := h.energyNj + p
  let h1 := { h with sample := i, energyNj := e, sinceRise := h.sinceRise + 1 }
  if i ≥ 1000 ∨ !settled ∨ h.stopped then h1
  else
    let b : Rat := capW * 1000000
    let allow : Rat := (b - e) / (1000 - i : Nat)
    let idle : Rat := idleW * 1000
    let q : Rat := p
    if q > allow then
      if allow ≤ idle ∨ q ≤ idle then { h1 with dp := 0 }
      else { h1 with dp := ((h.dp : Rat) * (allow - idle) / (q - idle)).floor.toNat }
    else if h.dp = 0 then
      if allow ≥ q + 50000 then { h1 with dp := 1, sinceRise := 0 } else h1
    else if h.dp < 64 ∧ 10 ≤ h1.sinceRise then
      let est : Rat := idle + (q - idle) * (h.dp + 1) / h.dp
      if est ≤ 98 / 100 * min ((capW : Rat) * 1000) allow then { h1 with dp := h.dp + 1, sinceRise := 0 } else h1
    else h1

/-- POWER_SAMPLE: one sample of the input power, within the window's 1,000 (R671). -/
def State.powerSample (s : State) (mw : Nat) (settled : Bool) : State :=
  if !s.platformRuns ∨ s.heat.sample ≥ 1000 then s
  else s.updHeat fun h => h.brake s.plt.capInForce s.plt.idleW mw settled

/-- POWER_SAMPLE (R671). -/
def execPowerSample (milliwatts : Nat) (settled : Bool) (s : State) : Host.Outcome State Fault Refusal :=
  doneHeat s (s.powerSample milliwatts settled)

/-! ### Energy (R679 to R683) -/

/-- The rows of a command's items by owning context, of a command begun or among the last completed (R26). -/
def State.sharesOf (s : State) (n : Nat) (i : Word) : List (Nat × Nat) :=
  match s.ctx? n with
  | none => []
  | some c =>
    match c.begun.find? fun b => b.index == i with
    | some b => b.record.shares
    | none => ((c.records.find? fun r => r.index == i).map fun r => r.shares).getD []

/-- An amount divided among contexts in proportion to rows, each part rounded down; the rounding rest goes to the step
context (R26). Log entry 39. -/
def byRows (n x : Nat) (rows : List (Nat × Nat)) : List (Nat × Nat) :=
  let total := (rows.map fun r => r.2).sum
  if total = 0 then [(n, x)]
  else
    let parts := rows.map fun r => (r.1, x * r.2 / total)
    (n, x - (parts.map fun p => p.2).sum) :: parts

/-- Energy in microjoules that an activity entry gives each context, of a remainder shared by all units in proportion, each
share rounded down (R26, R680). Log entry 39. -/
def State.shareOf (s : State) (rest total : Nat) (a : ActivityOwner × Nat) : List (Nat × Nat) :=
  let x := rest * a.2 / total
  match a.1 with
  | .ctx c => [(c, x)]
  | .items c i => byRows c x (s.sharesOf c i)

/-- A context's internal energy raised; a number without a live counter leaves its share in the bucket. -/
def addUj (gone : List Nat) (l : List (Nat × Nat)) (p : Nat × Nat) : List (Nat × Nat) :=
  l.map fun q => if q.1 = p.1 ∧ gone.contains p.1 = false then (q.1, q.2 + p.2) else q

/-- One window's energy divided (R680). -/
def State.divide (s : State) (uj : Nat) (activity : List (ActivityOwner × Nat)) : Plt :=
  let p := s.plt
  let rest := uj - min uj (p.idleW * 1000)
  let total := activity.foldl (fun t a => t + a.2) 0
  let p1 := { p with inputUj := p.inputUj + uj }
  if total = 0 then p1
  else
    { p1 with ctxUj := ((activity.map (s.shareOf rest total)).flatten).foldl (addUj p.destroyed) p.ctxUj }

/-- POWER_WINDOW_END: after 1,000 samples the window's energy is divided, the counters are rewritten, an excess is
counted, and the waiting settings apply at the start of the next window (R673, R679 to R682, R667). -/
def State.powerWindowEnd (s : State) (activity : List (ActivityOwner × Nat)) : State :=
  if !s.platformRuns ∨ s.heat.sample < 1000 then s
  else
    let uj := s.heat.energyNj / 1000
    let s1 := s.updPlt fun p =>
      let p1 := s.divide uj activity
      { p1 with energySeq := p.energySeq + 1, lastMeanW := uj / 1000,
                exceeded := if s.heat.energyNj > 1000000 * p.capInForce then satInc p.exceeded 1 else p.exceeded }
    (s1.updHeat fun h => { h with sample := 0, energyNj := 0 }).applyPolicies

/-- POWER_WINDOW_END (R680). -/
def execPowerWindowEnd (activity : List (ActivityOwner × Nat)) (s : State) : Host.Outcome State Fault Refusal :=
  doneHeat s (s.powerWindowEnd activity)

/-! ### Heat (R674 to R678; 08, R393 to R396) -/

/-- The sensors of the thermal stop's journal record. -/
def sensorKey : Sensor → List Nat
  | .core n => [0, n]
  | .field f => [1, f]
  | .bulk b => [3, b]
  | .coolant => [4, 0]

/-- The thermal stop (Table 6 of 14): duty 0, the halt, the journal record and the trip contact. -/
def State.thermalStop (s : State) (sensor : List Nat) (reading : Nat) : State :=
  if s.heat.stopped then s
  else
    let s1 := s.updHeat fun h => { h with stopped := true, dp := 0 }
    let s2 : State := { s1 with ccx := { s1.ccx with halted := true, haltCode := Err.thermalStop } }
    let body := (sensor.map fun n => leBytes 1 n).flatten ++ leBytes 2 reading ++ leBytes 2 s.plt.capInForce
    let s3 := s2.moduleRecord Kind.thermalStop [s.store.lastSeq + 1] body id
    ({ s3 with pins := { s3.pins with thermTrip := true } }).emit .thermTrip

/-- Cores, fields, sites and packages of a part. -/
def Part.cores (p : Part) : Nat := if p = .l then 96 else 128
def Part.fields (p : Part) : Nat := if p = .l then 3 else 4
def Part.sites (p : Part) : Nat := if p = .l then 6 else 8
def Part.pkgs (p : Part) : Nat := if p = .l then 16 else 32

/-- A junction reading's effect on D_j (R675). -/
def stepDuty (d : Nat) (fall rise : Bool) : Nat := if fall then max 8 (d - 8) else if rise then min 64 (d + 8) else d

/-- A core's junction reading (R674 to R678). -/
def State.coreReading (s : State) (n : Nat) (r : Reading) : State :=
  match r with
  | .failed => s.updHeat fun h => { h with dj := h.dj.set n 32, djFailed := n :: h.djFailed.filter fun x => x != n }
  | .celsius t =>
    let s1 := s.updHeat fun h => { h with coreTemp := h.coreTemp.set n (min t 255) }
    if t ≥ 115 then s1.thermalStop (sensorKey (.core n)) t
    else if s.heat.djFailed.contains n then s1
    else s1.updHeat fun h => { h with dj := h.dj.modify n fun d => stepDuty d (t > 105) (t ≤ 102) }

/-- A field interconnect reading (R677, R678). -/
def State.fieldReading (s : State) (f : Nat) (r : Reading) : State :=
  match r with
  | .failed => s.updHeat fun h => { h with df := h.df.set f 32, dfFailed := f :: h.dfFailed.filter fun x => x != f }
  | .celsius t => if t ≥ 115 then s.thermalStop (sensorKey (.field f)) t else s

/-- A bulk package reading (R396, R397); a failed one only gives no reading. -/
def State.bulkReading (s : State) (b : Nat) (r : Reading) : State :=
  match r with
  | .failed => s
  | .celsius t =>
    let s1 := { s with pkgs := s.pkgs.modify b fun x => { x with temp := t, refresh := Config.bulkRefresh t } }
    if t > 105 then s1.thermalStop (sensorKey (.bulk b)) t else s1

/-- A coolant inlet reading in tenths of a degree (R678, R751). -/
def State.coolantTaken (s : State) (tenths : Nat) : State :=
  let s1 := s.updHeat fun h => { h with coolantFailed := false }
  if tenths > 600 then s1.thermalStop (sensorKey .coolant) (tenths / 10) else s1

/-- A failed coolant reading (R751). -/
def State.coolantFails (s : State) : State := s.updHeat fun h => { h with coolantFailed := true }

/-- SENSOR_READING: a reading or a failure of a sensor the part has (R674). -/
def State.sensorReading (s : State) (sn : Sensor) (r : Reading) : State :=
  if !s.platformRuns then s
  else
    match sn with
    | .core n => if n < s.part.cores then s.coreReading n r else s
    | .field f => if f < s.part.fields then s.fieldReading f r else s
    | .bulk b => if b < s.part.pkgs then s.bulkReading b r else s
    | .coolant =>
      match r with
      | .celsius t => s.coolantTaken (10 * t)
      | .failed => s.coolantFails

/-- SENSOR_READING (R674). -/
def execSensorReading (sensor : Sensor) (reading : Reading) (s : State) : Host.Outcome State Fault Refusal :=
  doneHeat s (s.sensorReading sensor reading)

/-- Threshold of a refresh step (Table 9 of 08). -/
def refreshAbove (step : Nat) : Nat :=
  match step with
  | 1 => 85
  | 2 => 95
  | _ => 100

/-- The highest step whose threshold a reading exceeds. -/
def refreshFor (t : Nat) : Nat := if t > 100 then 3 else if t > 95 then 2 else if t > 85 then 1 else 0

/-- The steps left at a reading 3 degrees or more below their thresholds (R394); `fuel` is the present step. -/
def refreshDown (t : Nat) : Nat → Nat
  | 0 => 0
  | step + 1 => if t + 3 ≤ refreshAbove (step + 1) then refreshDown t step else step + 1

/-- The refresh step after a reading (R393, R394). -/
def refreshStep (step t : Nat) : Nat := if refreshFor t > step then refreshFor t else refreshDown t step

/-- The signal of a field holds: a reading of either of its sites is above 100 degrees (R395). -/
def fieldHot (t u : Nat) : Bool := decide (t > 100) || decide (u > 100)

/-- Both sites of a field read 97 degrees or less (R395). -/
def fieldCalm (t u : Nat) : Bool := decide (t ≤ 97) && decide (u ≤ 97)

/-- The site of a pair at whose readings D_f of its field moves: the first that is present. Log entry 21. -/
def State.paceSite (s : State) (f : Nat) : Nat :=
  if (s.sites.getD (2 * f) (Site.reset false)).present then 2 * f else 2 * f + 1

/-- STACK_TEMP_READING: the refresh step, the field's throttle and the thermal stop (R393 to R396, R675). D_f moves once
for each 100 us: it falls while the signal holds, and rises once both sites are calm. Log entry 21. -/
def State.stackTempReading (s : State) (n t : Nat) : State :=
  if !s.platformRuns ∨ n ≥ s.part.sites then s
  else
    let sites := s.sites.modify n fun x => { x with temp := t, refresh := refreshStep x.refresh t }
    let f := n / 2
    let temp (k : Nat) : Nat := (sites.getD k (Site.reset false)).temp
    let hot := fieldHot (temp (2 * f)) (temp (2 * f + 1))
    let calm := fieldCalm (temp (2 * f)) (temp (2 * f + 1))
    let stands := hot || (s.heat.hotFields.contains f && !calm)
    let rest := s.heat.hotFields.filter fun x => x != f
    let s1 : State := { s with sites := sites }
    let s2 := s1.updHeat fun h =>
      { h with hotFields := if stands then f :: rest else rest
               df := if n ≠ s.paceSite f ∨ h.dfFailed.contains f = true then h.df
                     else h.df.modify f fun d => stepDuty d hot calm }
    if t ≥ 110 then s2.thermalStop [2, n] t else s2

/-- STACK_TEMP_READING (R393). -/
def execStackTempReading (site : Nat) (celsius : Nat) (s : State) : Host.Outcome State Fault Refusal :=
  doneHeat s (s.stackTempReading site celsius)

/-- COOLANT_READING: every 10 ms the platform takes the coolant value (R751). -/
def State.coolantReading (s : State) : State :=
  let p := s.plt
  if !s.platformRuns then s
  else
    let s1 := s.updPlt fun p => { p with coolantWait := p.coolantWait + 1, coolantFresh := false,
                                         coolantStale := if p.coolantFresh then 0 else p.coolantStale + 1 }
    if p.coolantFresh then s1.coolantTaken p.coolantVal
    else if p.coolantEver then (if p.coolantStale + 1 ≥ 3 then s1.coolantFails else s1)
    else if p.coolantWait < 100 then s1
    else s1.coolantFails

/-- COOLANT_READING (R751). -/
def execCoolantReading (s : State) : Host.Outcome State Fault Refusal := doneHeat s s.coolantReading

/-- D_f in force: 32 or less while the coolant reading is failed (R751). -/
def Heat.fieldDuty (h : Heat) (f : Nat) : Nat :=
  let d := h.df.getD f 64
  if h.coolantFailed then min d 32 else d

/-- A core's issue duty (R676). -/
def Heat.coreDuty (h : Heat) (n : Nat) : Nat := min h.dp (min (h.dj.getD n 64) (h.fieldDuty (n / 32)))

/-! ### Ageing (R663 to R666) -/

/-- A core's margin re-measured: the highest step code at which it holds, none below 600 MHz. A lower maximum or a
withdrawal is journalled first, and waits for the core's apply point. -/
def State.remeasure (s : State) (m : Nat × Option Nat) : State :=
  let c := s.cores.getD m.1 (Core.reset false)
  let cur := (c.nextMax.getD c.curMax).toNat
  if !s.running ∨ !c.here ∨ c.nextOff then s
  else
    match m.2 with
    | none =>
      s.moduleRecord Kind.coreWithdraw [m.1] [] fun t =>
        { t with cores := t.cores.modify m.1 fun x => { x with nextOff := true } }
    | some k =>
      if cur ≤ k then s
      else
        s.moduleRecord Kind.coreLimit [m.1] (leBytes 1 k) fun t =>
          { t with cores := t.cores.modify m.1 fun x => { x with nextMax := some (BitVec.ofNat 4 k) } }

/-- POWERED_HOUR_TICK: the count is journalled at each whole hour, and at each multiple of 1,000 every core's margin is
re-measured; `margins` lists the cores whose margin at CUR_MAX fails (R663 to R666). -/
def State.hourTick (s : State) (margins : List (Nat × Option Nat)) : State :=
  if !s.platformRuns then s
  else
    let h := s.plt.hours + 1
    s.moduleRecord Kind.poweredHours [] (leBytes 4 h) fun t =>
      let t1 := t.updPlt fun p => { p with hours := h }
      if h % 1000 = 0 then margins.foldl State.remeasure t1 else t1

/-- POWERED_HOUR_TICK (R663). -/
def execPoweredHourTick (margins : List (Nat × Option Nat)) (s : State) : Host.Outcome State Fault Refusal :=
  done s (s.hourTick margins)

/-! ### The sideband (R748 to R750; Tables 5 and 6 of 17) -/

/-- PLT_SB_STATUS. -/
def State.sbStatus (s : State) : Word :=
  BitVec.ofNat 32 (packFields [(0, 8), (s.ccx.haltCode.toNat, 16), (0, 4), (bit (s.phase == .recovery), 1),
    (bit s.pins.thermTrip, 1), (bit s.ccx.halted, 1), (bit (s.phase == .ready), 1)])

/-- ALERT_N is low while bits 31:28 differ from the carrier's last read (Table 2 of 17). -/
def State.alertN (s : State) : Bool := s.sbStatus.toNat / 2 ^ 28 == s.plt.sbSeen.toNat

/-- PLT_SB_BOARD_LIMIT written (R750). -/
def State.writeBoardLimit (s : State) (v : Word) : State :=
  if !v.getLsbD 31 ∨ bitsOf v.toNat 30 16 ≠ 0 then s
  else s.updPlt fun p => { p with boardReg := v, boardW := min (v.toNat % 65536) 3600 }

/-- PLT_SB_COOLANT written (R751); its reserved bits read zero. -/
def State.writeCoolant (s : State) (v : Word) : State :=
  let w := v &&& 0x80000FFF
  s.updPlt fun p =>
    if w.getLsbD 31 then
      { p with coolantReg := w, coolantVal := w.toNat % 4096, coolantFresh := true, coolantEver := true }
    else { p with coolantReg := w }

/-- A sideband write: four value bytes, to a register that is not read-only (R748, R749). -/
def State.sidebandWrite (s : State) (index : Nat) (bs : Bytes) : State :=
  if !s.platformRuns ∨ bs.length ≠ 4 then s
  else
    let v : Word := BitVec.ofNat 32 (leAt bs 0 4)
    if index = 4 then s.writeBoardLimit v else if index = 8 then s.writeCoolant v else s

/-- SB_BOARD_LIMIT_WRITE (R750). -/
def execSbBoardLimitWrite (value : Word) (s : State) : Host.Outcome State Fault Refusal :=
  done s (s.sidebandWrite 4 (leBytes 4 value.toNat))

/-- What the carrier reads at a sideband index (Table 5 of 17); an index not listed reads 0. -/
def State.sidebandReg (s : State) (index : Nat) : Word :=
  match index with
  | 0 => s.sbStatus
  | 4 => s.plt.boardReg
  | 8 => s.plt.coolantReg
  | 12 => BitVec.ofNat 32 s.plt.lastMeanW
  | _ => 0

/-- SB_STATUS_READ: the carrier reads PLT_SB_STATUS, and the bits it saw release ALERT_N (R749). -/
def State.sbStatusRead (s : State) : State :=
  if !s.platformRuns then s
  else (s.emit (.sideband s.sbStatus)).updPlt fun p => { p with sbSeen := BitVec.ofNat 4 (s.sbStatus.toNat / 2 ^ 28) }

/-- SB_STATUS_READ (R749). -/
def execSbStatusRead (s : State) : Host.Outcome State Fault Refusal := done s s.sbStatusRead

end Sys2Proof.Machine
end

