-- ==== Sys2Proof/Machine/BringUp.lean ====
section
/-! DEFINITION. Resets, the hot-swap switch, the start sequence, service mode and the apply points (16; 17, R742 to R747,
R753; 10, R523 to R531). -/
namespace Sys2Proof.Machine

open Sys2Proof

/-! ### Resets (R745, R747) -/

/-- A core as its fuses leave it. -/
def Core.fused (c : Core) (here : Bool) : Core := { Core.reset here with fusedMax := c.fusedMax }

/-- What of a store outlives a loss of power: a stage under way leaves its slot EMPTY, and an unfinished compaction leaves
the old base in force (R699, R707). -/
def Store.asleep (t : Store) : Store :=
  { t with compacting := false, compactWait := [], running := none, measured := [], hdrDigest := [], slotState := 0,
           staging := none, committed := false, damaged := false }

/-- The module after a fundamental reset: every state but the store, the repairs in the stacks and the die's identity is
lost (R530, R557, R613, R724, R747). -/
def State.cleared (s : State) (phase : Phase) : State :=
  { State.reset with
    part := s.part, split := s.split, phase := phase, pins := { pwrOk := phase != .unpowered, resetSeen := false, thermTrip := false }
    cores := s.cores.map fun c => c.fused c.present
    sites := s.sites.map fun x => { Site.reset x.present with used := x.used }
    store := s.store.asleep, fab := { Fabric.reset with macBase := s.fab.macBase }, out := s.out, free := s.free, ord := s.ord }

/-- FUNDAMENTAL_RESET: MOD_RESET_N low for 100 us or more; a shorter pulse is ignored (R747). While the switch is open the
assertion is only noted (R745). -/
def execFundamentalReset (lowUs : Nat) (s : State) : Host.Outcome State Fault Refusal :=
  if s.phase = .unpowered then done s { s with pins := { s.pins with resetSeen := true } }
  else if lowUs < 100 then done s s
  else doneReset s (s.cleared .inReset)

/-- The input opens the switch (R745). -/
def HotswapCause.opens : HotswapCause → Bool
  | .under mv us => decide (mv < 44000) && decide (100 ≤ us)
  | .over mv => decide (60000 < mv)
  | .current a us => decide (110 < a) && decide (50 ≤ us)

/-- HOTSWAP_OPEN: power leaves every island, which is a fundamental reset (R745). -/
def execHotswapOpen (cause : HotswapCause) (s : State) : Host.Outcome State Fault Refusal :=
  if s.phase ≠ .unpowered ∧ HotswapCause.opens cause = true then doneReset s (s.cleared .unpowered) else done s s

/-- HOTSWAP_CLOSE: after the input has been below 10 V or the reset was asserted, and has risen into the operating range
(R745); the module then stands in reset with PWR_OK high (R747). -/
def State.hotswapClose (s : State) (mv : Nat) (below : Bool) : State :=
  if s.phase = .unpowered ∧ (below = true ∨ s.pins.resetSeen = true) ∧ 46000 ≤ mv ∧ mv ≤ 58000 then
    { s with phase := .inReset, pins := { s.pins with pwrOk := true, resetSeen := false } }
  else s

/-- HOTSWAP_CLOSE (R745). -/
def execHotswapClose (millivolts : Nat) (wasBelow10V : Bool) (s : State) : Host.Outcome State Fault Refusal :=
  done s (s.hotswapClose millivolts wasBelow10V)

/-! ### Firmware selection and measurement (R704, R716) -/

/-- A slot holds an image valid on the module (R702). -/
def Store.slotValid (t : Store) (n : Nat) : Bool := (t.slot n).valid && decide (t.minSvn ≤ (t.slot n).svn)

/-- A slot run, with the chain of R716. -/
def Store.run (t : Store) (n : Nat) : Store :=
  let f := t.slot n
  let h := sm3 f.header
  let st := f.state.code
  { t with running := some n, hdrDigest := h, slotState := st, measured := measureChain h f.digest t.minSvn n st }

/-- A slot marked BAD. -/
def Store.spoil (t : Store) (n : Nat) : Store := t.nand.setSlot n { t.slot n with state := .bad }

/-- A GOOD slot run if valid, marked BAD if not (R704). -/
def Store.tryGood (t : Store) (n : Nat) : Store :=
  if t.running.isSome ∨ (t.slot n).state ≠ .good then t
  else if t.slotValid n then t.run n
  else t.spoil n

/-- A TRIAL slot run with one more of its three tries, or marked BAD (R704). -/
def Store.tryTrial (t : Store) (n : Nat) : Store :=
  let f := t.slot n
  if t.running.isSome ∨ f.state ≠ .trial then t
  else if f.tries < 3 ∧ t.slotValid n = true then (t.nand.setSlot n { f with tries := f.tries + 1 }).run n
  else t.spoil n

/-- The selection of R704: the trial slot, the preferred good slot, the other good slot. -/
def Store.select (t : Store) : Store :=
  (((t.tryTrial 0).tryTrial 1).tryGood t.preferred).tryGood (1 - t.preferred)

/-! ### Replay (R695, R696, R698) -/

/-- The journal without the records from a SEQ on, whose units are not yet erased: the next record takes that SEQ (R695). -/
def Store.cutAt (t : Store) (n : Nat) : Store :=
  let kept := t.journal.filter fun r => decide (r.seq < n)
  { t with journal := kept, unerased := t.used - (kept.map fun r => recUnits r.body.length).sum
           chain := kept.foldl JRec.hashed t.imageHash
           sinceCp := (kept.reverse.takeWhile fun r => r.kind != Kind.checkpoint).length
           lastSeq := (t.base.elim 0 fun b => b.lastSeq).max (n - 1) }

/-- SEQ of the last CHECKPOINT below another, or of the base. -/
def Store.lastGood (t : Store) (n : Nat) : Nat :=
  (t.journal.filter fun r => r.kind == Kind.checkpoint && decide (r.seq < n)).foldl (fun a r => max a r.seq)
    (t.base.elim 0 fun b => b.lastSeq)

/-- A CHECKPOINT that does not match: the records after the one before it are never applied, and the store is compacted up
to the highest SEQ present, with DAMAGED set (R696). -/
def Store.rejectFrom (t : Store) (n top : Nat) : Store :=
  let base : BaseImage := { gen := t.baseGen + 1, lastSeq := top, image := t.liveTo (t.lastGood n) }
  let t1 : Store :=
    { t with base := some base, area := 1 - t.area, lastSeq := top, journal := [], unerased := t.used % 256, committed := true,
             damaged := true, chain := [], sinceCp := 0 }
  t1.checkpoint

/-- The store as replay finds it. -/
def Store.replay (t : Store) (inp : StartInputs) : Store :=
  if inp.noBase then { t with base := none, journal := [], unerased := t.used, chain := [], sinceCp := 0, damaged := true }
  else
    let t1 := match inp.missing with
      | some n => if t.base.elim 0 (fun b => b.lastSeq) < n ∧ n ≤ t.lastSeq then t.cutAt n else t
      | none => t
    match inp.badCheck with
    | some n => if t1.journal.any fun r => r.seq == n && r.kind == Kind.checkpoint then t1.rejectFrom n t.lastSeq else t1
    | none => t1

/-- The body of a live record. -/
def Store.find (t : Store) (kind : Nat) (key : List Nat) : Option Bytes :=
  (t.live.find? fun r => r.kind == kind && r.key == key).map fun r => r.body

/-- Powered hours, as last journalled (R663). -/
def Store.hours (t : Store) : Nat := (t.find Kind.poweredHours []).elim 0 fun b => leAt b 0 4

/-- The live records of a kind. -/
def Store.ofKind (t : Store) (kind : Nat) : List JRec := t.live.filter fun r => r.kind == kind

/-! ### Units and persisted state at a start (R722, R726, R727) -/

/-- Ports of a split (Table 1 of 11). -/
def splitPorts (split : Nat) : Nat := if split = 2 then 4 else if split = 1 then 2 else 1

/-- SPLIT of the contacts (R742). -/
def splitOf (contacts : BitVec 2) : Nat := if contacts = 0 then 1 else if contacts = 1 then 2 else 0

/-- A core is excluded: it failed, or its quad's expander did (Table 2 of 16). -/
def State.coreFails (s : State) (inp : StartInputs) (n : Nat) : Bool :=
  inp.badCores.contains n || (s.hasExpanders && inp.badExps.contains (n / 4))

/-- A core at the start: fused, tested, with its persisted maximum and withdrawal (R666, R722). -/
def State.startCore (s : State) (inp : StartInputs) (n : Nat) (c : Core) : Core :=
  let gone := (s.store.find Kind.coreWithdraw [n]).isSome
  let top := match s.store.find Kind.coreLimit [n] with
    | some b => BitVec.ofNat 4 (leAt b 0 1)
    | none => c.fusedMax
  let here := decide (n < s.part.cores) && !s.coreFails inp n && !gone
  { c.fused here with curMax := top, freqKhz := 600000 + 12500 * top.toNat }

/-- A host port at the start (R533, R723). -/
def startPort (split : Nat) (inp : StartInputs) (p : Nat) : Port :=
  let q := Port.reset (decide (p < splitPorts split))
  if !q.present then q
  else
    let l := (inp.links.find? fun x => x.1 == p).map fun x => x.2
    let on := inp.perst.contains p
    match if on then l else none with
    | none => { q with perstOff := on }
    | some x =>
      { q with perstOff := on, linkUp := true, speed := BitVec.ofNat 3 x.speed, width := BitVec.ofNat 5 x.width,
               flit := x.flit, cfg := x.cfg }

/-- The frame of a PAGE_RETIRE key. -/
def frameOfKey (k : List Nat) : Nat :=
  let o := k.getD 2 0 * bigPage
  if k.getD 0 0 = 0 then stackAddr (k.getD 1 0) o else bulkAddr (k.getD 1 0) o

/-- GLOBAL settings from their record (R588); its body is bytes 4 to 13 of the message (log entry 20). -/
def Store.fabGlobal (t : Store) : FabGlobal :=
  match t.find Kind.fabricGlobal [] with
  | some b => fabGlobalOf (zeros 4 ++ b)
  | none => FabGlobal.reset

/-- The fabric engine at the start (R588, R597, R653). -/
def State.startFabric (s : State) (inp : StartInputs) : Fabric :=
  let g := s.store.fabGlobal
  { Fabric.reset with
    glob := g, groups := List.replicate 6 g, macBase := s.fab.macBase
    ports := (List.range 24).map fun p => FabPort.reset (s.hasFabric && !inp.badFabs.contains p)
    anchors := (s.store.ofKind Kind.trustAnchor).map fun r => (r.key.getD 0 0, r.body)
    ownChain := (s.store.find Kind.ownChain []).getD []
    peers := (s.store.ofKind Kind.peer).map fun r => peerOf (zeros 2 ++ r.body) }

/-- Typical idle power of a part (Table 8 of 14). -/
def Part.idleW : Part → Nat
  | .f => 1100
  | .s => 1076
  | .l => 850

/-- The platform unit's settings at the start (R663, R667, R669, R684, R729). -/
def State.startPlt (s : State) (inp : StartInputs) (p : Plt) : Plt :=
  let pol := s.store.find Kind.powerPolicy []
  let capW := pol.elim 3000 fun b => leAt b 0 2
  let failedCores := (List.range s.part.cores).filter fun n => s.coreFails inp n
  { p with
    capW := capW, classLimit := pol.elim 0 fun b => leAt b 2 1, capInForce := min capW p.boardW
    idleW := (s.store.find Kind.calibration [0]).elim s.part.idleW fun b => leAt b 0 2
    hours := s.store.hours
    bistDone := true, noBase := inp.noBase
    sitesFailed := BitVec.ofNat 8 (maskOf (List.range 8) fun i => decide (i < s.part.sites) && inp.badSites.contains i)
    quadsFailed := if s.hasExpanders then ((List.range 32).filter fun q => inp.badExps.contains q).length else 0
    coresFailed := failedCores.length
    pkgsFailed := BitVec.ofNat 32 (maskOf (List.range 32) fun i => decide (i < s.part.pkgs) && inp.badPkgs.contains i)
    fabsFailed := BitVec.ofNat 24 (maskOf (List.range 24) fun i => s.hasFabric && inp.badFabs.contains i) }

/-- A faulty row of the start's march: remapped to a spare, or its page retired (Table 2 of 16, R398 to R403). -/
def State.startRow (s : State) (r : RowRef) : State :=
  if !(s.site r.site).present then s
  else if 0 < (s.site r.site).spares r.chan r.bank then
    s.moduleRecord Kind.stackRemap (rowKey r) (s.remapBody r) fun t => t.remapRow r false
  else s.moduleRecord Kind.pageRetire (retireKey (rowPage r)) retireBody fun t => t.markRetired (rowPage r)

/-- A faulty bulk page of the start's march retired. -/
def State.startPage (s : State) (x : Nat × Nat) : State :=
  if (s.pkgs[x.1]?.map fun b => b.present) ≠ some true then s
  else
    let f := bulkAddr x.1 (x.2 * bigPage)
    s.moduleRecord Kind.pageRetire (retireKey f) retireBody fun t => t.markRetired f

/-- Start without a base: idle power journalled, every margin measured again (R730). -/
def State.startBare (s : State) (inp : StartInputs) : State :=
  if !inp.noBase then s
  else
    let s1 := s.moduleRecord Kind.calibration [0] (leBytes 2 inp.idleW) fun t => t.updPlt fun p => { p with idleW := inp.idleW }
    inp.margins.foldl State.remeasure s1

/-- Sensors that fail their self-check (R677). -/
def State.startSensors (s : State) (inp : StartInputs) : State :=
  let s1 := inp.badSensors.foldl (fun t n => t.sensorReading (.core n) .failed) s
  inp.badFieldSensors.foldl (fun t f => t.sensorReading (.field f) .failed) s1

/-- The control complex halted by the start (R725). -/
def State.startHalt (s : State) (code : Code) : State :=
  { s with phase := .startHalted, ccx := { s.ccx with halted := true, haltCode := code } }

/-- The start in recovery: H0 trained, S0 trained and not filled, no firmware (R753). -/
def State.startRecovery (s : State) (inp : StartInputs) : State :=
  let s1 : State := { s with
    phase := .recovery
    ports := s.ports.mapIdx fun p _ => if p = 0 then startPort s.split inp 0 else Port.reset false
    sites := s.sites.mapIdx fun i x => { x with present := i == 0 } }
  (List.range (rcvBuffer / bigPage)).foldl (fun t i => t.smudgePage (stackAddr 0 (i * bigPage))) s1

/-- Steps 5 to 8 of Table 1 of 16 once firmware has been selected. -/
def State.startRun (s : State) (inp : StartInputs) : State :=
  let s1 : State := { s with store := s.store.replay inp }
  let s2 : State := { s1 with
    phase := .ready
    cores := s1.cores.mapIdx (s1.startCore inp)
    exps := (List.range 32).map fun q => Expander.reset (s1.hasExpanders && !inp.badExps.contains q)
    sites := s1.sites.mapIdx fun i x => { x with present := decide (i < s1.part.sites) && !inp.badSites.contains i }
    pkgs := (List.range 32).map fun b => { present := decide (b < s1.part.pkgs) && !inp.badPkgs.contains b, temp := 0 }
    retired := (s1.store.ofKind Kind.pageRetire).map fun r => frameOfKey r.key
    fab := s1.startFabric inp
    plt := s1.startPlt inp s1.plt
    ccx := { s1.ccx with service := inp.noBase } }
  let s3 := inp.badPages.foldl State.startPage (inp.badRows.foldl State.startRow s2)
  let s4 := (s3.startBare inp).startSensors inp
  let mask := s4.coreMask
  if s4.ccx.halted then s4.startHalt s4.ccx.haltCode
  else if !inp.essential ∨ mask = 0 ∨ s4.siteList.isEmpty then s4.startHalt Err.startFailed
  else { s4 with partitions := [mask], turns := turnsFor 1 [] }

/-- The start sequence (Table 1 of 16): its occasion is the release of the module reset while PWR_OK is high (R747). -/
def State.moduleStart (s : State) (inp : StartInputs) : State :=
  if s.phase ≠ .inReset ∨ !s.pins.pwrOk then s
  else
    let s0 := s.cleared .inReset
    let s1 : State := { s0 with
      split := splitOf inp.split, ports := (List.range 4).map (startPort (splitOf inp.split) inp)
      plt := { s0.plt with hours := s0.store.hours } }
    let s2 := match inp.board with
      | some v => s1.writeBoardLimit v
      | none => s1
    if inp.recoverLow then s2.startRecovery inp
    else
      let s3 : State := { s2 with store := s2.store.select }
      if s3.store.running.isNone then s3.startHalt Err.fwNoneBootable else s3.startRun inp

/-- MODULE_START (R722). -/
def execModuleStart (inp : StartInputs) (s : State) : Host.Outcome State Fault Refusal :=
  doneHeat s (s.moduleStart inp)

/-! ### Service mode (R731 to R734) -/

/-- The reply of a SERVICE_MODE. -/
def serviceReply (s : State) : Carried := accept s (leBytes 1 (bit s.ccx.service))

/-- Any peer session is up or opening (R732). -/
def State.sessionsOpen (s : State) : Bool := s.fab.peers.any fun p => p.session.isSome || p.hs.isSome

/-- SERVICE_MODE enter carried out (R731 to R733). -/
def carryServiceEnter (s : State) (_ : Msg) : Carried :=
  if s.ccx.service then serviceReply s
  else if !s.ctxs.isEmpty ∨ s.sessionsOpen then refuse s Err.serviceModeInvalid
  else serviceReply { s with ccx := { s.ccx with service := true } }

/-- SERVICE_MODE enter (R733). -/
def execServiceModeEnter (slot : SlotRef) (s : State) : Host.Outcome State Fault Refusal :=
  done s (s.takeRow slot .serviceEnter carryServiceEnter)

/-- A test word with ENABLE 0. -/
def prbsOff (w : Word) : Word := w &&& 0x7FFFFFFF

/-- Leaving service mode: staged copies are discarded and every link test ends (R530, R734). -/
def State.endTests (s : State) : State :=
  let s1 := s.updFab fun x =>
    { x with ports := x.ports.map fun f => { f with staged := none, armed := f.armed.map prbsOff } }
  (List.range 24).foldl (fun t p => if (t.fport p).testing then t.applyPrbs p (prbsOff (t.fport p).prbs) else t) s1

/-- SERVICE_MODE leave carried out (R731, R732, R734). -/
def carryServiceLeave (s : State) (_ : Msg) : Carried :=
  if !s.ccx.service then serviceReply s
  else if s.plt.noBase ∧ !s.store.committed then refuse s Err.serviceModeInvalid
  else
    let s1 := s.endTests
    serviceReply { s1 with ccx := { s1.ccx with service := false } }

/-- SERVICE_MODE leave (R734). -/
def execServiceModeLeave (slot : SlotRef) (s : State) : Host.Outcome State Fault Refusal :=
  done s (s.takeRow slot .serviceLeave carryServiceLeave)

/-! ### Apply points (R523 to R525, R528, R531, R659, R664, R666) -/

/-- A core takes its lowered maximum and its withdrawal between commands (R664, R666). -/
def Core.apply (c : Core) : Core :=
  if c.busy then c
  else { c with curMax := c.nextMax.getD c.curMax, nextMax := none, withdrawn := c.withdrawn || c.nextOff, nextOff := false }

/-- A port group's apply point: configuration forms, removals and armed registers, in the order of issue (R525, R528,
R531). -/
def State.groupApply (s : State) (g : Nat) : State :=
  let s1 := (((s.groupArms g (s.nextFormOrd g)).groupForm g).groupRemovals g)
  let s1 := s1.groupArms g (s1.nextFormOrd g)
  if s1.ccx.dbgWaiting.contains g then
    { s1 with ccx := { s1.ccx with dbgApplied := s1.ccx.dbgApplied + 1,
                                   dbgWaiting := s1.ccx.dbgWaiting.filter fun x => x != g } }
  else s1

/-- A unit at its apply point (R523); the units not named have nothing that waits. -/
def State.configApply (s : State) (u : ConfigUnit) : State :=
  if s.phase ≠ .ready then s
  else
    match u with
    | .core n => { s with cores := s.cores.modify n Core.apply }
    | .portGroup g => s.groupApply g
    | .platform => if s.heat.sample = 0 then s.applyPolicies else s
    | .expander _ => s
    | .mover _ => s
    | .site _ => s
    | .package _ => s
    | .hostPort _ => s
    | .scheduler => s

/-- CONFIG_APPLY (R523). -/
def execConfigApply (unit : ConfigUnit) (s : State) : Host.Outcome State Fault Refusal := done s (s.configApply unit)

end Sys2Proof.Machine
end

