-- ==== Sys2Proof/Machine/Expander.lean ====
section
/-! DEFINITION. The commands of the expanders: EXPAND, and PACKPASS with its three operations (07, R327 to R335, R349 to
R352, R354). -/
namespace Sys2Proof.Machine

open Sys2Proof

/-! ### What the two commands share -/

/-- What the blocks of a command gave so far: the writes of the blocks done, the expander's events, and the fault that
stopped it (R352). -/
structure BlockRun where
  writes : List (Nat × Bytes)
  events : List NanEvent
  stop   : Option Stop
  deriving DecidableEq

/-- Nothing done yet. -/
def BlockRun.start : BlockRun := { writes := [], events := [], stop := none }

/-- A run that stopped. -/
def BlockRun.halt (r : BlockRun) (e : Stop) : BlockRun := { r with stop := some e }

/-- The first write of a list that may not be made. -/
def State.writeStop (s : State) (ctx : Nat) (ws : List (Nat × Bytes)) : Option Stop :=
  ws.findSome? fun w => (s.accessFault ctx w.1 w.2.length true).map fun f => (f.1, [])

/-- The items of a command of blocks: what the blocks before a fault wrote, which stays written (R352) unless a NaN trap came
first (R87), with their NaN events, and the fault. -/
def BlockRun.items (r : BlockRun) (trap : Bool) (outs : List (Nat × Nat)) : List CoreItem :=
  let kept := r.stop.isSome && !(trap && !r.events.isEmpty)
  let own : Piece := { idx := 0, plane := none, runs := if kept then [] else outs }
  let done : CoreItem :=
    { pos := 0, item := noItem, itemOk := true, ins := [], outs := [own],
      work := .ok { writes := r.writes, pushes := [], events := r.events } }
  match r.stop with
  | none => [done]
  | some e =>
    [{ done with work := .ok { writes := r.writes, pushes := [], events := [] } },
     { pos := 0, item := noItem, itemOk := true, ins := [], outs := [], work := .error (e, r.events) }]

/-- A command of the expanders as it stands begun. -/
def State.expanderBegun (s : State) (k : Cmd) (hw : RunHw) (p : PackTensor) : Begun :=
  { k.begun with tensors := [s.physOf k.ctx p.addr], hw := { hw with coreSram := none } }

/-- The expander of place `i` of `n` in a command's division: contiguous runs by index, cut evenly (R351). Log entry 45. -/
def dealQuad (quads : List Nat) (n i : Nat) : Nat := quads.getD (i * quads.length / max 1 n) 0

/-- The expander of a block: blocks are divided by their place among the command's, or, of a tensor that is not Saffron,
column tiles by theirs (R351). -/
def PackTensor.quadOf (p : PackTensor) (quads blocks : List Nat) (b : Nat) : Nat :=
  let i := blocks.findIdx fun x => x == b
  if p.saffron then dealQuad quads blocks.length i
  else dealQuad quads (cdiv blocks.length (max 1 p.spans)) (i / max 1 p.spans)

/-- The expanders that take part in a command of some blocks. -/
def PackTensor.quadsOf (p : PackTensor) (quads blocks : List Nat) : List Nat := (blocks.map (p.quadOf quads blocks)).dedup

/-- A command of the expanders that waits or runs (R332, R333). -/
def State.expanderRun (s : State) (c : Ctx) (k : Cmd) (hw : RunHw) (op : Option Nat) (p : PackTensor)
    (run : List Nat → State × List CoreItem) : CoreRun :=
  let b := s.expanderBegun k hw p
  let r := run (s.partQuads c.partition)
  { state := r.1, begun := b, wait := s.mustWait k.ord op b.tensors, items := r.2, extra := [] }

/-- The descriptor's tensor as far as it can be read, for the checks that come before its own (R354). -/
def State.peekPack (s : State) (ctx addr : Nat) : Option PackTensor :=
  match s.vread ctx addr 128 with
  | .ok b => some (parsePack addr b)
  | .error _ => none

/-- Whether a context has an expander to run on (R351, R354). -/
def State.noExpander (s : State) (c : Ctx) : Bool := !s.hasExpanders || (s.partQuads c.partition).isEmpty

/-! ### EXPAND (R349, R350) -/

/-- An EXPAND descriptor. -/
structure ExpandDesc where
  pt      : Nat
  adapter : Nat
  dst     : Nat
  scale   : Nat
  ld      : Nat
  ts      : Word
  lo      : Nat
  hi      : Nat
  deriving DecidableEq, Repr

/-- A descriptor's bytes read as one. -/
def parseExpand (d : Bytes) : ExpandDesc :=
  { pt := leAt d 16 8, adapter := leAt d 24 8, dst := leAt d 32 8, scale := leAt d 40 8, ld := leAt d 48 4,
    ts := BitVec.ofNat 32 (leAt d 52 4), lo := leAt d 56 4, hi := leAt d 60 4 }

/-- EXPAND_RANGE (R354, Table 11 of 07). -/
def ExpandDesc.rangeBad (x : ExpandDesc) (d : Bytes) (p : Option PackTensor) : Bool :=
  !zeroRange d 64 128 || x.lo % 128 != 0 || decide (x.hi ≤ x.lo) || x.pt % 64 != 0 || x.adapter % 16 != 0 ||
    x.dst % 16 != 0 || x.scale % 16 != 0 ||
    match p with
    | none => false
    | some p =>
      decide (p.n < x.hi) || !ldOk p.fmt p.k x.ld || (!(isMx p.fmt || isCode p.fmt) && x.scale != 0) ||
        (!isFp8 p.fmt && x.ts != 0)

/-- Stride of the destination's columns. -/
def ExpandDesc.stride (x : ExpandDesc) (p : PackTensor) : Nat := if x.ld = 0 then rowBytes p.fmt p.k else x.ld

/-- The bytes of a column of a block with zero padding (R55). -/
def cleanColumn (fmt n : Nat) (b : Bytes) : Bytes := packRow fmt (unpackRow fmt n b)

/-- The writes of a block: its columns below COL_HI, and their scale bytes (R350). Column n of the tensor stands at
column n of the destination. -/
def ExpandDesc.writes (x : ExpandDesc) (p : PackTensor) (sp : Span) : List (Nat × Bytes) :=
  let b := sp.block
  (((List.range b.cn).filter fun j => decide (b.c0 + j < x.hi)).map fun j =>
    [(x.dst + (b.c0 + j) * x.stride p + rowBytes p.fmt b.k0, cleanColumn p.fmt b.kn (sp.elems.getD j [])),
     (x.scale + (b.c0 + j) * scaleBytes p.fmt p.k + scaleBytes p.fmt b.k0, sp.scales.getD j [])]).flatten

/-- One more block expanded (R326, R352). -/
def State.expandBlock (s : State) (ctx : Nat) (inst : Nat → Nat) (x : ExpandDesc) (p : PackTensor) (ad : Option Adapter)
    (r : BlockRun) (b : Nat) : BlockRun :=
  if r.stop.isSome then r
  else
    match s.span ctx (inst b) p ad x.ts (p.block b) with
    | .error e => r.halt e
    | .ok sp =>
      let r1 := { r with events := r.events ++ (sp.event? (inst b) b).toList }
      let ws := x.writes p sp
      match s.writeStop ctx ws with
      | some e => r1.halt e
      | none => { r1 with writes := r.writes ++ ws }

/-- The blocks of the columns of an EXPAND, in ascending order. -/
def ExpandDesc.blocks (x : ExpandDesc) (p : PackTensor) : List Nat :=
  (List.range (cdiv x.hi 128 * p.spans)).drop (x.lo / 128 * p.spans)

/-- The bytes an EXPAND writes, as ranges. -/
def ExpandDesc.outs (x : ExpandDesc) (p : PackTensor) : List (Nat × Nat) :=
  ({ addr := x.dst + x.lo * x.stride p, fmt := p.fmt, len := p.k, ld := x.stride p,
     saddr := x.scale + x.lo * scaleBytes p.fmt p.k } : Plane).ranges (x.hi - x.lo)

/-- The tensor and adapter of an EXPAND judged (orders 3 and 4 of Table 13 of 07). -/
def State.expandSource (s : State) (ctx : Nat) (x : ExpandDesc) : Except Code (PackTensor × Option Adapter) :=
  match s.readPack ctx x.pt with
  | .error e => .error e
  | .ok p =>
    if isFp8 p.fmt ∧ !fposNormal x.ts then .error Err.scaleInvalid
    else (s.readAdapter? ctx x.adapter p x.ts).map fun a => (p, a)

/-- An EXPAND judged and planned (R349 to R352, R354). -/
def State.expandRun (hw : RunHw) (s : State) (c : Ctx) (k : Cmd) : Except Code CoreRun :=
  let x := parseExpand k.desc
  if s.noExpander c then .error Err.exNotPresent
  else if x.rangeBad k.desc (s.peekPack k.ctx x.pt) then .error Err.expandRange
  else
    match s.expandSource k.ctx x with
    | .error code => .error code
    | .ok (p, ad) =>
      .ok <| s.expanderRun c k hw none p fun quads =>
        let l := x.blocks p
        let r := l.foldl (s.expandBlock k.ctx (p.quadOf quads l) x p ad) BlockRun.start
        (s.drawn k.ctx (p.quadsOf quads l) p ad, r.items c.nanTrap (x.outs p))

/-- EXPAND begun. -/
def expandBody (hw : RunHw) (s : State) (c : Ctx) (k : Cmd) : State := s.runCore c k (s.expandRun hw c k)

/-- EXPAND (R349). -/
def execExpand (ctx : Nat) (hw : RunHw) (s : State) : Host.Outcome State Fault Refusal :=
  done s (s.runCmd ctx (isOpcode 6) (expandBody hw))

/-! ### PACKPASS descriptors (R327, R332, R334) -/

/-- A PACKPASS descriptor. -/
structure PackDesc where
  op      : Nat
  version : Nat
  pt      : Nat
  src     : Nat
  ld      : Nat
  lo      : Nat
  hi      : Nat
  hist    : Nat
  deriving DecidableEq, Repr

/-- A descriptor's bytes read as one. -/
def parsePackpass (d : Bytes) : PackDesc :=
  { op := (byteAt d 16).toNat, version := (byteAt d 17).toNat, pt := leAt d 24 8, src := leAt d 32 8,
    ld := leAt d 40 4, lo := leAt d 44 4, hi := leAt d 48 4, hist := leAt d 56 8 }

/-- EXPAND_RANGE (R354, Table 8 of 07); a field of another operation is not judged. -/
def PackDesc.rangeBad (x : PackDesc) (d : Bytes) (p : Option PackTensor) : Bool :=
  decide (2 < x.op) || decide (1 < x.version) || !zeroRange d 18 24 || !zeroRange d 52 56 || !zeroRange d 64 128 ||
    x.pt % 64 != 0 ||
    (x.op == 2 && (decide (x.hi < x.lo) || p.any fun p => decide (p.blocks < x.hi))) ||
    (x.op != 2 && (x.src % 16 != 0 || (x.src != 0 && p.any fun p => !ldOk p.fmt p.k x.ld))) ||
    (x.op == 1 && x.src == 0) || (x.op == 0 && x.hist % 8 != 0)

/-- The count of a version's blocks. -/
def PackTensor.countOf (p : PackTensor) (version : Nat) : Nat := if version = 0 then p.countA else p.countB

/-- The bytes a block may take when appended: 16 and its geometric size, rounded up to 16, in units of 16 (R334). -/
def PackTensor.blockUnits (p : PackTensor) (b : Nat) : Nat := 1 + cdiv (p.rawLen (p.block b)) 16

/-- KIND of a block whose header can be read. -/
def State.blockKind? (s : State) (ctx : Nat) (p : PackTensor) (b : Nat) : Option Nat :=
  match s.readHeader ctx p b with
  | .ok h => some h.1.kind
  | .error _ => none

/-- The blocks REENCODE takes: those of its range not already coded under VERSION (R330). -/
def State.takenBlocks (s : State) (ctx : Nat) (x : PackDesc) (p : PackTensor) : List Nat :=
  ((List.range x.hi).drop x.lo).filter fun b => s.blockKind? ctx p b != some (x.version + 1)

/-- PACK_STREAM_FULL (R334). -/
def State.streamFull (s : State) (ctx : Nat) (x : PackDesc) (p : PackTensor) : Bool :=
  (x.op == 1 && decide (p.cap < p.blocks * 1025)) ||
    (x.op == 2 && decide (p.cap < p.streamEnd + ((s.takenBlocks ctx x p).map p.blockUnits).sum))

/-- The checks of a PACKPASS after its range, in the order of Table 13 of 07. -/
def State.packTarget (s : State) (ctx : Nat) (x : PackDesc) : Except Code PackTensor :=
  match s.readPack ctx x.pt with
  | .error e => .error e
  | .ok p =>
    if !p.saffron then .error Err.packedInvalid
    else if x.op = 0 ∧ p.countOf x.version ≠ 0 then .error Err.tableInUse
    else if s.streamFull ctx x p then .error Err.packStreamFull
    else .ok p

/-- The bytes of a block in a dense source plane, its padding zero (R314, R328, R329). -/
def State.sourceBlock (s : State) (ctx : Nat) (x : PackDesc) (p : PackTensor) (b : Block) : Except Stop Bytes :=
  let stride := if x.ld = 0 then rowBytes p.fmt p.k else x.ld
  ((List.range b.cn).mapM fun j =>
    (s.fetch ctx (x.src + (b.c0 + j) * stride + rowBytes p.fmt b.k0) (rowRead p.fmt b.kn)).map (cleanColumn p.fmt b.kn)).map
      List.flatten

/-! ### BUILD (R328) -/

/-- A leaf or a package of the construction of R328: its weight and the byte values of its leaves. -/
structure Parcel where
  weight : Nat
  values : List Nat
  deriving DecidableEq, Repr

/-- Neighbours packed in pairs, an odd last item dropped. -/
def pairUp : List Parcel → List Parcel
  | a :: b :: l => { weight := a.weight + b.weight, values := a.values ++ b.values } :: pairUp l
  | _ => []

/-- A leaf put before the first package of a greater or equal weight, and `rest` of the packages from there on. -/
def mergeParcel (a : Parcel) (rest : List Parcel → List Parcel) : List Parcel → List Parcel
  | [] => a :: rest []
  | b :: l => if a.weight ≤ b.weight then a :: rest (b :: l) else b :: mergeParcel a rest l

/-- Leaves and packages merged by weight, a leaf before a package of equal weight. -/
def mergeParcels : List Parcel → List Parcel → List Parcel
  | [], pkgs => pkgs
  | a :: leaves, pkgs => mergeParcel a (mergeParcels leaves) pkgs

/-- The rounds of the construction. -/
def parcelRounds (leaves : List Parcel) : Nat → List Parcel → List Parcel
  | 0, l => l
  | n + 1, l => parcelRounds leaves n (mergeParcels leaves (pairUp l))

/-- The leaves, in order of count and then of value. -/
def countLeaves (counts : List Nat) : List Parcel :=
  (((List.range 256).filter fun v => counts.getD v 0 != 0).map fun v =>
    ({ weight := counts.getD v 0, values := [v] } : Parcel)).insertionSort fun a b => a.weight ≤ b.weight

/-- Code lengths of the 256 byte values (R328). -/
def codeLengths (counts : List Nat) : List Nat :=
  let leaves := countLeaves counts
  if leaves.length = 1 then (List.range 256).map fun v => if counts.getD v 0 = 0 then 0 else 1
  else
    let kept := ((parcelRounds leaves 11 leaves).take (2 * leaves.length - 2)).flatMap fun q => q.values
    (List.range 256).map fun v => kept.count v

/-- The counts of the 256 byte values of some bytes. -/
def byteCounts (b : Bytes) : List Nat := (List.range 256).map fun v => b.count (BitVec.ofNat 8 v)

/-- A table record with the given lengths (Table 6 of 07). -/
def CodeTable.bytes (t : CodeTable) : Bytes :=
  leBytes 1 t.version ++ leBytes 1 t.state ++ leBytes 2 t.gen ++ zeros 12 ++
    ((List.range 128).map fun i => BitVec.ofNat 8 (t.lengths.getD (2 * i) 0 + 16 * t.lengths.getD (2 * i + 1) 0)) ++ zeros 16

/-- GEN one above its previous value (R328). -/
def nextGen (g : Nat) : Nat := g % 65535 + 1

/-- BUILD: the counts, the lengths, the record and the histogram (R328). -/
def State.packBuild (s : State) (ctx : Nat) (inst : Nat → Nat) (x : PackDesc) (p : PackTensor) : Except Stop (List (Nat × Bytes)) := do
  let blocks ← (List.range p.count).mapM fun b =>
    if x.src = 0 then s.decodeBlock ctx (inst b) p (p.block b) else s.sourceBlock ctx x p (p.block b)
  let old ← s.readTable ctx p x.version
  let counts := byteCounts blocks.flatten
  let t : CodeTable := { version := x.version, state := 1, gen := nextGen old.2.gen, lengths := codeLengths counts }
  .ok ((p.tables + 160 * x.version, t.bytes) ::
    if x.hist = 0 then [] else [(x.hist, (counts.map fun n => leBytes 8 n).flatten)])

/-- BUILD as a run. -/
def State.buildRun (s : State) (ctx : Nat) (inst : Nat → Nat) (x : PackDesc) (p : PackTensor) : BlockRun :=
  match s.packBuild ctx inst x p with
  | .error e => BlockRun.start.halt e
  | .ok ws =>
    match s.writeStop ctx ws with
    | some e => BlockRun.start.halt e
    | none => { BlockRun.start with writes := ws }

/-! ### Coding a block (R317, R318, R324) -/

/-- A bit string as bytes, bit i at bit (i mod 8) of byte i div 8 (R324). -/
def bitsBytes (l : List Bool) : Bytes :=
  (runsOf 8 (cdiv l.length 8) l).map fun b => BitVec.ofNat 8 (b.foldr (fun x a => bit x + 2 * a) 0)

/-- The bits of a code word, the most significant first. -/
def CodeWord.bits (w : CodeWord) : List Bool := (List.range w.length).map fun i => bitOf w.code (w.length - 1 - i)

/-- The bit string of some bytes; none when a value has no code. -/
def codeBits (codes : List CodeWord) (raw : Bytes) : Option (List Bool) :=
  (raw.mapM fun v => (codes.find? fun w => w.value == v.toNat).map CodeWord.bits).map List.flatten

/-- A raw block. -/
def rawBlock (raw : Bytes) : BlockHeader × Bytes :=
  ({ kind := 0, pad := 0, gen := 0, coded := raw.length, raw := raw.length, crc := crc32c raw }, raw)

/-- A block coded under a table, or raw (R318). -/
def CodeTable.codeBlock (t : CodeTable) (raw : Bytes) : BlockHeader × Bytes :=
  match codeBits t.codes raw with
  | none => rawBlock raw
  | some bits =>
    let pay := bitsBytes bits
    if codedMax raw.length < pay.length then rawBlock raw
    else
      ({ kind := t.version + 1, pad := 8 * pay.length - bits.length, gen := t.gen, coded := pay.length,
         raw := raw.length, crc := crc32c pay }, pay)

/-- A block as it lies in the stream, with zeros up to the next 16-byte boundary (R317). -/
def blockImage (h : BlockHeader × Bytes) : Bytes := h.1.bytes ++ h.2 ++ zeros (16 * cdiv h.2.length 16 - h.2.length)

/-! ### ENCODE and REENCODE (R329 to R331) -/

/-- What a coding pass did so far, with STREAM_END and the counts of raw blocks, of A and of B. -/
structure CodeRun where
  run    : BlockRun
  tail   : Nat
  counts : List Nat
  deriving DecidableEq

/-- STREAM_END and the counts, as they stand in the descriptor. -/
def PackTensor.tailWrites (p : PackTensor) (r : CodeRun) : List (Nat × Bytes) :=
  [(p.addr + 48, leBytes 4 r.tail),
   (p.addr + 56, leBytes 4 (r.counts.getD 1 0) ++ leBytes 4 (r.counts.getD 2 0) ++ leBytes 4 (r.counts.getD 0 0))]

/-- A block appended: its image, then its index entry (R331), with the count of its kind. -/
def State.appendBlock (s : State) (ctx : Nat) (p : PackTensor) (r : CodeRun) (b : Nat) (h : BlockHeader × Bytes) : CodeRun :=
  let img := blockImage h
  let ws := [(p.elem + 16 * r.tail, img), (p.index + 4 * b, leBytes 4 r.tail)]
  match s.writeStop ctx (ws ++ p.tailWrites r) with
  | some e => { r with run := r.run.halt e }
  | none =>
    { run := { r.run with writes := r.run.writes ++ ws }, tail := r.tail + img.length / 16,
      counts := r.counts.modify h.1.kind fun n => n + 1 }

/-- The table a pass codes with: built, and keeping Table 6 (R322, R329). -/
def State.codingTable (s : State) (ctx inst : Nat) (p : PackTensor) (b kind version : Nat) : Except Stop CodeTable := do
  let t ← s.useTable ctx inst p b kind version
  if t.state = 1 then .ok t else .error (p.stop inst b kind 0 Err.tableStale)

/-- One block of ENCODE. -/
def State.encodeBlock (s : State) (ctx : Nat) (inst : Nat → Nat) (x : PackDesc) (p : PackTensor) (r : CodeRun) (b : Nat) : CodeRun :=
  if r.run.stop.isSome then r
  else
    match s.codingTable ctx (inst b) p b 0xFF x.version, s.sourceBlock ctx x p (p.block b) with
    | .error e, _ => { r with run := r.run.halt e }
    | _, .error e => { r with run := r.run.halt e }
    | .ok t, .ok raw => s.appendBlock ctx p r b (t.codeBlock raw)

/-- What REENCODE makes of a block: its old kind with its content coded anew. -/
def State.recode (s : State) (ctx : Nat) (inst : Nat → Nat) (x : PackDesc) (p : PackTensor) (b : Nat) :
    Except Stop (Nat × BlockHeader × Bytes) := do
  let h ← s.readHeader ctx p b
  let raw ← s.decodeBlock ctx (inst b) p (p.block b)
  let t ← s.codingTable ctx (inst b) p b h.1.kind x.version
  .ok (h.1.kind, t.codeBlock raw)

/-- One block of REENCODE: a raw block that stays raw is left in place (R330). -/
def State.reencodeBlock (s : State) (ctx : Nat) (inst : Nat → Nat) (x : PackDesc) (p : PackTensor) (r : CodeRun) (b : Nat) : CodeRun :=
  if r.run.stop.isSome then r
  else
    match s.recode ctx inst x p b with
    | .error e => { r with run := r.run.halt e }
    | .ok (kind, h) =>
      if kind = 0 ∧ h.1.kind = 0 then r
      else
        let q := s.appendBlock ctx p r b h
        if q.run.stop.isSome then q else { q with counts := q.counts.modify kind fun n => n - 1 }

/-- A pass as the run of its blocks, its descriptor updated (R329, R330). -/
def PackTensor.finish (p : PackTensor) (r : CodeRun) : BlockRun :=
  if r.run.writes.isEmpty then r.run else { r.run with writes := r.run.writes ++ p.tailWrites r }

/-- ENCODE as a run. -/
def State.encodeRun (s : State) (ctx : Nat) (inst : Nat → Nat) (x : PackDesc) (p : PackTensor) : BlockRun :=
  p.finish ((List.range p.count).foldl (s.encodeBlock ctx inst x p)
    { run := BlockRun.start, tail := 0, counts := [0, 0, 0] })

/-- REENCODE as a run. -/
def State.reencodeRun (s : State) (ctx : Nat) (inst : Nat → Nat) (x : PackDesc) (p : PackTensor) : BlockRun :=
  p.finish ((s.takenBlocks ctx x p).foldl (s.reencodeBlock ctx inst x p)
    { run := BlockRun.start, tail := p.streamEnd, counts := [p.countRaw, p.countA, p.countB] })

/-! ### PACKPASS begun -/

/-- The blocks an operation works on. -/
def State.packBlocks (s : State) (ctx : Nat) (x : PackDesc) (p : PackTensor) : List Nat :=
  if x.op = 2 then s.takenBlocks ctx x p else List.range p.count

/-- The run of an operation. -/
def State.packRun (s : State) (ctx : Nat) (inst : Nat → Nat) (x : PackDesc) (p : PackTensor) : BlockRun :=
  match x.op with
  | 0 => s.buildRun ctx inst x p
  | 1 => s.encodeRun ctx inst x p
  | _ => s.reencodeRun ctx inst x p

/-- A PACKPASS judged and planned (R327 to R334, R351, R352, R354). -/
def State.packpassRun (hw : RunHw) (s : State) (c : Ctx) (k : Cmd) : Except Code CoreRun :=
  let x := parsePackpass k.desc
  if s.noExpander c then .error Err.exNotPresent
  else if x.rangeBad k.desc (s.peekPack k.ctx x.pt) then .error Err.expandRange
  else
    match s.packTarget k.ctx x with
    | .error code => .error code
    | .ok p =>
      .ok <| s.expanderRun c k hw (some x.op) p fun quads =>
        let l := s.packBlocks k.ctx x p
        let r := s.packRun k.ctx (p.quadOf quads l) x p
        (if x.op = 1 ∨ (x.op = 0 ∧ x.src ≠ 0) then s else s.drawn k.ctx (p.quadsOf quads l) p none,
          r.items c.nanTrap (r.writes.map fun w => (w.1, w.2.length)))

/-- PACKPASS begun. -/
def packpassBody (hw : RunHw) (s : State) (c : Ctx) (k : Cmd) : State := s.runCore c k (s.packpassRun hw c k)

/-- A PACKPASS descriptor of an operation; one with a reserved OP goes with BUILD. -/
def isPackpass (op : Nat) (d : Bytes) : Bool :=
  isOpcode 7 d && (let o := (byteAt d 16).toNat; o == op || (op == 0 && decide (2 < o)))

/-- PACKPASS with OP 0 (R328). -/
def execPackpassBuild (ctx : Nat) (hw : RunHw) (s : State) : Host.Outcome State Fault Refusal :=
  done s (s.runCmd ctx (isPackpass 0) (packpassBody hw))

/-- PACKPASS with OP 1 (R329). -/
def execPackpassEncode (ctx : Nat) (hw : RunHw) (s : State) : Host.Outcome State Fault Refusal :=
  done s (s.runCmd ctx (isPackpass 1) (packpassBody hw))

/-- PACKPASS with OP 2 (R330). -/
def execPackpassReencode (ctx : Nat) (hw : RunHw) (s : State) : Host.Outcome State Fault Refusal :=
  done s (s.runCmd ctx (isPackpass 2) (packpassBody hw))

end Sys2Proof.Machine
end

