-- ==== Sys2Proof/Machine/Turns.lean ====
section
/-! DEFINITION. Slice ends, turns and evictions (09, R430 to R442). -/
namespace Sys2Proof.Machine

open Sys2Proof

/-- A begun command that a slice end pre-empts: an EXPAND or a PACKPASS, or a LONG core command or MOVE of a context with
a save area (R418, R436). -/
def Ctx.yields (c : Ctx) (b : Begun) : Bool :=
  b.live && ((b.long && !c.savePages.isEmpty) || b.opcode == 6 || b.opcode == 7)

/-- Chunks of 64 KiB of a core's saved state (Table 6 of 09). -/
def saveChunks : Nat := 164

/-- The core command of a context, with state in its cores. -/
def Ctx.coreCmd? (c : Ctx) : Option Begun := c.begun.find? fun b => b.core && !b.waiting

/-- The commands of a context pre-empted: the movers save the state of the cores of a LONG core command (R437), and expander
requests are discarded (R348). A restore under way is given up, the saved state standing (R440). -/
def State.preempt (s : State) (n : Nat) : State :=
  match s.ctx? n with
  | none => s
  | some c =>
    let s1 := s.dropSaves n
    let s2 := match c.coreCmd? with
      | some b =>
        if c.yields b then s1.addFwJob (.save n) (saveChunks * b.cores.length)
        else if b.preempted then s1.releaseCores n else s1
      | none => s1
    let s3 := if c.begun.any fun b => c.yields b && !b.tensors.isEmpty then s2.discardExpander c.partition else s2
    s3.updCtx n fun x => { x with begun := x.begun.map fun b => if c.yields b then { b with preempted := true } else b }

/-- A slice ends (R436): with another resident context of the partition READY the turn is given up and the commands
that yield are pre-empted; with none nothing changes and a new slice begins (log entry 13). -/
def State.sliceEnd (s : State) (p : Nat) : State :=
  match (s.turn p).holder with
  | none => s
  | some n =>
    if (s.readyOf p).isEmpty then s
    else
      let s1 := (s.preempt n).dropTurn n true
      match s1.ctx? n with
      | none => s1
      | some c => s1.setCtxState n (s1.wish { c with state := .blocked })

/-- A slice's end (R436). -/
def execSliceEnd (part : Nat) (s : State) : Host.Outcome State Fault Refusal :=
  done s (if s.running then s.sliceEnd part else s)

/-- The pre-empted commands of a context resume; a core command continues once the movers have restored its cores (R437,
R440). One whose wait of R333 is over, and that has not run yet, starts apart. -/
def State.resume (s : State) (n : Nat) : State :=
  match s.ctx? n with
  | none => s
  | some c =>
    let s1 := match c.coreCmd? with
      | some b =>
        if b.preempted then (s.occupyCores n b).addFwJob (.restore n) (saveChunks * b.cores.length) else s
      | none => s
    s1.updCtx n fun x =>
      { x with begun := x.begun.map fun b => if b.waiting || b.core then b else { b with preempted := false } }

/-- The debt of the last holder grows by its overrun when another context was READY at the slice end (R439). -/
def State.addOverrun (s : State) (p us : Nat) : State :=
  let t := s.turn p
  if t.overran then
    (s.updCtx t.last fun c => { c with debtUs := c.debtUs + us }).updTurn p fun t => { t with overran := false }
  else s

/-- Debts and slices of the contexts a turn may go to, in turn order (R434, R441). -/
def State.turnQueue (s : State) (p : Nat) : List (Nat × Nat × Nat) :=
  (s.turnOrder p).map fun n =>
    match s.ctx? n with
    | some c => (n, c.debtUs, c.sliceUs)
    | none => (n, 0, 0)

/-- A context's debt taken from the outcome of a pass. -/
def Ctx.withDebt (c : Ctx) (debts : List (Nat × Nat × Nat)) : Ctx :=
  match debts.find? fun d => d.1 == c.num with
  | some d => { c with debtUs := d.2.1 }
  | none => c

/-- The next turn of a partition taken, once no core command of the last holder remains begun (R434, R436, R441). -/
def State.takeTurn (s : State) (p us : Nat) : State :=
  if (s.turn p).holder.isSome ∨ !s.partitionFree p then s
  else
    let s1 := s.addOverrun p us
    let q := s1.turnQueue p
    match passTurns (passFuel q) q with
    | none => s1
    | some (n, debts) =>
      let s2 : State := { s1 with ctxs := s1.ctxs.map fun c => c.withDebt debts }
      let s3 := s2.updTurn p fun t => { t with holder := some n }
      ((s3.setCtxState n .running).resume n).settle

/-- A READY context without a slot has waited more than 100 ms (R432): with none to evict first, the resident context
that last began a command longest ago leaves its slot, if it has no begun command. Log entry 14. -/
def State.evictForWait (s : State) (n : Nat) : State :=
  match s.ctx? n with
  | none => s
  | some c =>
    if c.state ≠ .ready ∨ c.resident ∨ s.residents.length < 64 ∨ s.evictable.isSome then s
    else
      match leastBy (fun x => x.lastBegan) s.residents with
      | none => s
      | some v =>
        if !v.begun.isEmpty then s
        else
          let s1 := if v.state = .running then s.setCtxState v.num .ready else s
          ((s1.updCtx v.num fun x => { x with resident := false }).updCtx n fun x => { x with resident := true }).settle

/-- The 100 ms wait of R432. -/
def execEvictionWaitTimeout (ctx : Nat) (s : State) : Host.Outcome State Fault Refusal :=
  done s (if s.running then s.evictForWait ctx else s)

end Sys2Proof.Machine
end

