-- ==== Sys2Proof/Machine/Completion.lean ====
section
/-! DEFINITION. The completion of a begun command, the end of a wait for a packed tensor, and the taking of a turn (07,
R332, R333; 08, R376; 09, R427, R436, R451 to R455). -/
namespace Sys2Proof.Machine

open Sys2Proof

/-! ### The end of a wait for a tensor (R332, R333) -/

/-- A command that waits for a tensor, or whose wait is over and that waits for the turn. -/
def Begun.tensorWait (b : Begun) : Bool := b.waiting && (b.opcode == 1 || b.opcode == 6 || b.opcode == 7)

/-- A begun command as it was fetched. -/
def Begun.asCmd (b : Begun) (c : Ctx) : Cmd :=
  { ctx := c.num, index := b.index, desc := b.desc, opcode := b.opcode, policy := b.policy, irq := b.irq, cls := b.cls,
    step := c.step, ord := b.ord, fresh := false, turn := b.turn, build := b.build,
    list := b.list }

/-- A command that waited runs. -/
def State.runWaiting (s : State) (c : Ctx) (b : Begun) : State :=
  let x := { c with build := b.build }
  match b.opcode.toNat with
  | 1 => matmulBody b.hw s x (b.asCmd c)
  | 6 => expandBody b.hw s x (b.asCmd c)
  | _ => packpassBody b.hw s x (b.asCmd c)

/-- One waiting command looked at: when its wait is over it runs, or, a core command of a context without the turn, it
stands ready for the turn (R436). -/
def State.wakeOne (s : State) (n : Nat) (b : Begun) : State :=
  match s.ctx? n with
  | none => s
  | some c =>
    if !c.begun.contains b ∨ s.mustWait b.ord (packOp b) b.tensors then s
    else if b.core ∧ c.state ≠ .running then
      (s.updCtx n fun x =>
        { x with begun := x.begun.map fun y => if y.ord = b.ord then { y with preempted := true } else y }).settle
    else s.runWaiting c b

/-- The commands that wait for tensors, in the order in which they began. -/
def State.tensorWaits (s : State) : List (Nat × Begun) :=
  ((s.ctxs.map fun c => (c.begun.filter Begun.tensorWait).map fun b => (c.num, b)).flatten).insertionSort fun a b =>
    a.2.ord ≤ b.2.ord

/-- Every waiting command looked at (R333). -/
def State.wake (s : State) : State := s.tensorWaits.foldl (fun t p => t.wakeOne p.1 p.2) s

/-- A context takes the turn of a partition (R436); `overrunUs` is the overrun the scheduler measured (R439). -/
def execTurnTake (part : Nat) (overrunUs : Nat) (s : State) : Host.Outcome State Fault Refusal :=
  done s (if s.running then (s.wake.takeTurn part overrunUs).wake else s)

/-! ### Completion (R376, R427, R455) -/

/-- A begun command may complete: it runs, and every write, chunk and request of it is done (R376); nothing completes
under the thermal stop. -/
def State.mayComplete (s : State) (n : Nat) (b : Begun) : Bool :=
  b.live && s.moveDone n b.index && s.fabricDone n b.index && !s.heat.stopped

/-- The statistics record of a core command with the counts its cores measured. -/
def CmdRec.measured (r : CmdRec) (m : Meas) : CmdRec :=
  { r with busiest := m.busiest, busy := m.busy, core := m.core, stall := (List.range 7).map fun i => m.stall.getD i 0,
           interfere := m.interfere, freq := m.freq }

/-- A context's counts with those of a core command that began in a turn (R451, R453). -/
def Ctx.measured (c : Ctx) (turn : Nat) (m : Meas) : Ctx := c.charge turn m.core m.interfere m.others

/-- A command completes: its cores are freed, its chunks and requests forgotten, its walks ended (R264), its counts
taken, its record kept and its vector sent. -/
def State.finishCmd (s : State) (n : Nat) (b : Begun) (m : Meas) : State :=
  let s1 := ((s.endJob n b.index).endReqs n b.index).dropWalks (Walk.ofCommand n b.ord)
  let s2 := if b.cores.isEmpty then s1 else s1.releaseCores n
  let s3 := if b.core then s2.updCtx n fun c => c.measured b.turn m else s2
  (s3.complete n b.index (if b.core then b.record.measured m else b.record) b.irq).settle

/-- COMMAND_COMPLETE: what waited for the command is looked at afterwards. -/
def State.commandComplete (s : State) (n : Nat) (i : Word) (m : Meas) : State :=
  let s1 := s.wake
  match (s1.ctx? n).bind fun c => c.begun.find? fun b => b.index == i with
  | none => s1
  | some b => if s1.mayComplete n b then (s1.finishCmd n b m).wake else s1

/-- The completion of a begun command (R376), with the cycle counts its cores measured (R455). -/
def execCommandComplete (ctx : Nat) (index : Nat) (meas : Meas) (s : State) : Host.Outcome State Fault Refusal :=
  done s (if s.phase = .ready then s.commandComplete ctx (BitVec.ofNat 32 index) meas else s)

end Sys2Proof.Machine
end

