-- ==== Sys2Proof/Machine/Eltwise.lean ====
section
/-! DEFINITION. ELTWISE, and the item entries it shares with CONV (04, R155, R156; 05, R237 to R241). -/
namespace Sys2Proof.Machine

open Sys2Proof

/-! ### Item entries (Table 5 of 04, Table 10 of 05) -/

/-- An item entry with its place in the list. -/
structure ItemEntry where
  pos    : Nat
  x      : Nat
  xScale : Nat
  y      : Nat
  tx     : Word
  item   : Nat
  deriving DecidableEq, Repr

/-- An entry's bytes read as one. -/
def parseEntry (i : Nat) (b : Bytes) : ItemEntry :=
  { pos := i, x := leAt b 0 8, xScale := leAt b 8 8, y := leAt b 16 8, tx := BitVec.ofNat 32 (leAt b 24 4),
    item := leAt b 28 2 }

/-- R156: why an entry is refused; `fmt` is the format of X, `noY` that Y_ADDR must be 0. -/
def ItemEntry.code (e : ItemEntry) (fmt : Nat) (noY : Bool) (b : Bytes) : Option Code :=
  if !zeroRange b 30 32 ∨ !addrOk e.x ∨ !addrOk e.xScale ∨ !addrOk e.y ∨ (noY ∧ e.y ≠ 0) ∨
      (!isMx fmt ∧ e.xScale ≠ 0) ∨ !scalePresent fmt e.tx then some Err.tripleInvalid
  else if isFp8 fmt ∧ !fposNormal e.tx then some Err.scaleInvalid
  else none

/-- An entry judged when the command begins (R156, R241, R467, R448). -/
structure JudgedEntry where
  e      : ItemEntry
  itemOk : Bool
  code   : Option Code
  live   : Bool
  deriving DecidableEq, Repr

/-- One entry judged. -/
def State.judgeEntry (s : State) (c : Ctx) (fmt : Nat) (noY : Bool) (i : Nat) (b : Bytes) : JudgedEntry :=
  let e := parseEntry i b
  { e := e, itemOk := c.itemOk e.item,
    code := if !c.itemOk e.item then some Err.tripleInvalid else e.code fmt noY b,
    live := !s.itemStopped c e.item }

/-- An entry that runs. -/
def JudgedEntry.runs (j : JudgedEntry) : Bool := j.live && j.code.isNone

/-- An entry as an item of its command, from what it reads, writes and computes. -/
def JudgedEntry.asItem (j : JudgedEntry) (ins outs : List Piece) (work : Except Halt Work) : CoreItem :=
  match j.code with
  | some code => .refused j.e.pos j.e.item j.itemOk (if j.live then outs else []) code
  | none =>
    if !j.live then .idle j.e.pos j.e.item j.itemOk
    else { pos := j.e.pos, item := j.e.item, itemOk := j.itemOk, ins := ins, outs := outs, work := work }

/-! ### ELTWISE (Table 9 of 05) -/

/-- An ELTWISE descriptor. -/
structure EltDesc where
  list  : Nat
  cnt   : Nat
  fmt   : Nat
  flags : Nat
  rows  : Nat
  cols  : Nat
  ldx   : Nat
  chain : Nat
  deriving DecidableEq, Repr

/-- A descriptor's bytes read as one. -/
def parseElt (d : Bytes) : EltDesc :=
  { list := leAt d 16 8, cnt := leAt d 24 2, fmt := (byteAt d 26).toNat, flags := (byteAt d 27).toNat,
    rows := leAt d 32 4, cols := leAt d 36 4, ldx := leAt d 40 4, chain := leAt d 48 8 }

/-- The checks of an ELTWISE descriptor before its chain is read: its reserved bits and bytes, then order 1 of Table 11 of 05
(R145, R237, R242). Table 11 gives the reserved fields no place: that they come first is the model's choice. Log entry 50. -/
def EltDesc.check (x : EltDesc) (noCores : Bool) (d : Bytes) : Option Code :=
  firstBad [(noCores, Err.coreNotPresent),
    (decide (1 < x.flags) || !zeroRange d 28 32 || !zeroRange d 44 48 || !zeroRange d 56 128, Err.flagsConflict),
    (!decide (1 ≤ x.rows ∧ x.rows ≤ 2 ^ 24) || !decide (1 ≤ x.cols ∧ x.cols ≤ 2 ^ 20) || x.cnt == 0 ||
      decide (256 < x.cnt) || x.list % 32 != 0 || x.chain == 0, Err.eltwiseRange)]

/-- What is wrong with X_FMT: a reserved code, or one that no X may have (R45). -/
def EltDesc.formatCode (x : EltDesc) : Option Code :=
  if fmtReserved x.fmt then some Err.formatReserved
  else if !decide (1 ≤ x.fmt ∧ x.fmt ≤ 10) then some Err.formatNotOperand
  else none

/-- What the chain of an ELTWISE is judged for (R239, R242). That an X_FMT which is no operand is judged with order 5 and the
list's address and LDX with order 12 is the model's choice. Log entry 50. -/
def EltDesc.use (x : EltDesc) : ChainUse :=
  { n := x.cols, k := x.cols, aFmt := none, items := x.cnt, result := 0, isT := false, ownOk := true, staging := 0,
    fmtCode := x.formatCode, layBad := !vaOk x.list || !ldOk x.fmt x.cols x.ldx }

/-- Plane of X, and the item's own output as a STORE with ADDR 0 sees it (R204). -/
def EltDesc.planeX (x : EltDesc) (e : ItemEntry) : Plane :=
  { addr := e.x, fmt := x.fmt, len := x.cols, ld := x.ldx, saddr := e.xScale }
def EltDesc.ownPlane (x : EltDesc) (e : ItemEntry) (g : Stage) : Plane :=
  { addr := e.y, fmt := g.ifmt, len := x.cols, ld := 0, saddr := if isMx g.ifmt then g.scalesAt e.pos g.pd else 0 }

/-- What the items of an ELTWISE share. -/
structure EltEnv where
  x     : EltDesc
  chain : Chain
  deal  : Dealing
  deriving DecidableEq, Repr

/-- The work of an ELTWISE item (R238). -/
def State.eltWork (s : State) (ctx : Nat) (v : EltEnv) (e : ItemEntry) : Except Halt Work := do
  let x := v.x
  let rows ← atOnce (s.readRows ctx (x.planeX e) x.rows)
  let env : ChainEnv := { ctx := ctx, i := e.pos, m := x.rows, n := x.cols }
  let put (l : List NanEvent) : List NanEvent := l.map (v.deal.stamp e.pos)
  let f ← (s.runStages env (grid x.rows x.cols) (fun g m => storeOwn (x.ownPlane e g) g m) v.chain.stages
    (Flow.start (rows.map fun r => r.scaled x.fmt e.tx))).mapError fun h => (h.1, put h.2)
  .ok { writes := f.writes, pushes := f.pushes, events := put f.events }

/-- An ELTWISE entry as an item. -/
def State.eltItem (s : State) (ctx : Nat) (v : EltEnv) (j : JudgedEntry) : CoreItem :=
  let x := v.x
  let env : ChainEnv := { ctx := ctx, i := j.e.pos, m := x.rows, n := x.cols }
  j.asItem ({ (x.planeX j.e).part 0 x.rows with plane := none } :: v.chain.stages.filterMap fun g => g.inPart env)
    (v.chain.stages.filterMap fun g => g.outPart env (x.ownPlane j.e) x.rows) (s.eltWork ctx v j.e)

/-- The units of an item: tiles in order of row tile and column tile, or whole row tiles in row-complete ordering (R240). -/
def EltDesc.units (x : EltDesc) (c : Chain) (pos : Nat) : List DealtUnit :=
  let cyc (t : Tile) : Nat := drainCycles c.stages 0 (t.rows.length * readBytes x.fmt t.cn) t.rows.length t.cn
  let tiles := grid x.rows x.cols
  (runsOf (if c.usesOwn then cdiv x.cols 128 else 1) tiles.length tiles).map fun ts =>
    { pos := pos, tiles := ts, cyc := (ts.map cyc).sum }

/-- An ELTWISE planned once its list is read. -/
def State.eltPlanned (s : State) (hw : RunHw) (c : Ctx) (k : Cmd) (x : EltDesc) (ch : Chain) (raw : Bytes) : CoreRun :=
  let cores := s.partCores c.partition
  let js := (List.range x.cnt).map fun i => s.judgeEntry c x.fmt false i (sliceBytes raw (32 * i) 32)
  let run := (js.filter JudgedEntry.runs).map fun j => j.e
  let deal := dealTo cores ((run.map fun e => x.units ch e.pos).flatten)
  let b : Begun :=
    { k.begun with long := bitOf x.flags 0, cores := cores, unitMode := 5,
                   record := { k.record with plan := if ch.usesOwn then 2 else 0, cores := deal.used, chainTag := ch.tag,
                                             shares := rowShares c (run.map fun e => (e.item, x.rows)) },
                   hw := { hw with expSram := none } }
  { state := s, begun := b, wait := false, items := js.map (s.eltItem k.ctx { x := x, chain := ch, deal := deal }),
    extra := [] }

/-- An ELTWISE judged and planned (R237 to R242). -/
def State.eltRun (hw : RunHw) (s : State) (c : Ctx) (k : Cmd) : Except Code CoreRun :=
  let x := parseElt k.desc
  match x.check (s.partCores c.partition).isEmpty k.desc with
  | some code => .error code
  | none => do
    let ch ← s.readChain k.ctx x.chain x.use
    let raw ← s.listOf k x.list (32 * x.cnt)
    .ok (s.eltPlanned hw c k x ch raw)

/-- ELTWISE begun. -/
def eltwiseBody (hw : RunHw) (s : State) (c : Ctx) (k : Cmd) : State := s.runCore c k (s.eltRun hw c k)

/-- ELTWISE (R237). -/
def execEltwise (ctx : Nat) (hw : RunHw) (s : State) : Host.Outcome State Fault Refusal :=
  done s (s.runCmd ctx (isOpcode 4) (eltwiseBody hw))

end Sys2Proof.Machine
end

