-- ==== Sys2Proof/Machine/Conv.lean ====
section
/-! DEFINITION. CONV: convolution as shifted tap products, pooling, upsampling, regrouping and group normalisation
(04_convolution.md, R146 to R193). -/
namespace Sys2Proof.Machine

open Sys2Proof

/-! ### Positions and regrouping (R146, R157, R164, R165) -/

/-- Extents of a tensor, or factors along its dimensions. -/
structure Ext where
  w : Nat
  h : Nat
  t : Nat
  deriving DecidableEq, Repr

/-- Positions of a tensor. -/
def Ext.count (e : Ext) : Nat := e.w * e.h * e.t

/-- Number of a position (R146). -/
def Ext.at (e : Ext) (t h w : Nat) : Nat := (t * e.h + h) * e.w + w

/-- The positions in order, as time, height, width. -/
def Ext.places (e : Ext) : List (Nat × Nat × Nat) :=
  ((List.range e.t).map fun t => ((List.range e.h).map fun h => (List.range e.w).map fun w => (t, h, w)).flatten).flatten

/-- Extents multiplied by factors. -/
def Ext.mul (a b : Ext) : Ext := { w := a.w * b.w, h := a.h * b.h, t := a.t * b.t }

/-- The factors of a regrouping byte (Table 4 of 04). -/
def regroupOf (b : Nat) : Ext := { w := 2 ^ bitsOf b 1 0, h := 2 ^ bitsOf b 3 2, t := 2 ^ bitsOf b 5 4 }

/-- Space-to-depth: positions of extents `e` from the positions of `e` times `r` (R164). -/
def spaceToDepth {α : Type} (r e : Ext) (x : List (List α)) : List (List α) :=
  e.places.map fun p => (r.places.map fun q =>
    x.getD ((e.mul r).at (p.1 * r.t + q.1) (p.2.1 * r.h + q.2.1) (p.2.2 * r.w + q.2.2)) []).flatten

/-- Depth-to-space: positions of `e` times `r`, of `n` channels each, from the positions of `e` (R165). -/
def depthToSpace {α : Type} (r e : Ext) (n : Nat) (x : List (List α)) : List (List α) :=
  (e.mul r).places.map fun p =>
    ((x.getD (e.at (p.1 / r.t) (p.2.1 / r.h) (p.2.2 / r.w)) []).drop
      (r.at (p.1 % r.t) (p.2.1 % r.h) (p.2.2 % r.w) * n)).take n

/-! ### The descriptor (Tables 1 to 4 of 04) -/

/-- A CONV descriptor. -/
structure ConvDesc where
  list   : Nat
  cnt    : Nat
  xFmt   : Nat
  wFmt   : Nat
  yFmt   : Nat
  kind   : Nat
  mode   : Nat
  flags  : Nat
  cin    : Nat
  cout   : Nat
  x      : Ext
  k      : Ext
  st     : Ext
  dil    : Ext
  padK   : Nat
  lo     : Ext                        -- PAD_L, PAD_T, PAD_F
  hi     : Ext                        -- PAD_R, PAD_B, PAD_BK
  rgIn   : Nat
  rgOut  : Nat
  padV   : Nat
  ldx    : Nat
  ldy    : Nat
  wScale : Word
  wAddr  : Nat
  wsAddr : Nat
  chain  : Nat
  aux    : Nat
  groups : Nat
  up     : Ext
  upTop  : Nat                        -- UP_T bits 7:4
  eps    : Word
  gb     : Nat
  deriving DecidableEq, Repr

/-- A descriptor's bytes read as one (Table 1 of 04). -/
def parseConv (d : Bytes) : ConvDesc :=
  let b (o : Nat) : Nat := (byteAt d o).toNat
  let three (o : Nat) : Ext := { w := b o, h := b (o + 1), t := b (o + 2) }
  { list := leAt d 16 8, cnt := leAt d 24 2, xFmt := b 26, wFmt := b 27, yFmt := b 28, kind := b 29, mode := b 30,
    flags := b 31, cin := leAt d 32 4, cout := leAt d 36 4,
    x := { w := leAt d 40 2, h := leAt d 42 2, t := leAt d 44 2 },
    k := three 46, st := three 49, dil := three 52, padK := b 55,
    lo := { w := b 56, h := b 58, t := b 60 }, hi := { w := b 57, h := b 59, t := b 61 },
    rgIn := b 62, rgOut := b 63, padV := leAt d 64 4, ldx := leAt d 68 4, ldy := leAt d 72 4,
    wScale := BitVec.ofNat 32 (leAt d 76 4), wAddr := leAt d 80 8, wsAddr := leAt d 88 8, chain := leAt d 96 8,
    aux := leAt d 104 8, groups := leAt d 112 2,
    up := { w := bitsOf (b 114) 3 0, h := bitsOf (b 114) 7 4, t := bitsOf (b 115) 3 0 }, upTop := bitsOf (b 115) 7 4,
    eps := BitVec.ofNat 32 (leAt d 116 4), gb := leAt d 120 8 }

/-! Operator kinds (Table 3 of 04). -/
namespace Ck
def convolve : Nat := 0
def maxPool : Nat := 1
def avgPool : Nat := 2
def upNearest : Nat := 3
def upBilinear : Nat := 4
def regroup : Nat := 5
def gnStats : Nat := 6
def gnApply : Nat := 7
end Ck

namespace ConvDesc

def long (x : ConvDesc) : Bool := bitOf x.flags 0
def startY (x : ConvDesc) : Bool := bitOf x.flags 1
def countPad (x : ConvDesc) : Bool := bitOf x.flags 2
def isConv (x : ConvDesc) : Bool := x.kind == Ck.convolve
def isPool (x : ConvDesc) : Bool := x.kind == Ck.maxPool || x.kind == Ck.avgPool
def isUp (x : ConvDesc) : Bool := x.kind == Ck.upNearest || x.kind == Ck.upBilinear

/-- The factors of RG_IN and RG_OUT. -/
def fin (x : ConvDesc) : Ext := regroupOf x.rgIn
def fout (x : ConvDesc) : Ext := regroupOf x.rgOut

/-- Extents and channels of the regrouped X (R157). -/
def inExt (x : ConvDesc) : Ext := { w := x.x.w / x.fin.w, h := x.x.h / x.fin.h, t := x.x.t / x.fin.t }
def chans (x : ConvDesc) : Nat := x.cin * x.fin.count

/-- An output extent of R158; none below 1. -/
def outDim (n lo hi k s d : Nat) : Option Nat :=
  if n + lo + hi < d * (k - 1) + 1 then none else some ((n + lo + hi - d * (k - 1) - 1) / s + 1)

/-- The output extents before depth-to-space (R158, R181, R182); none where one is below 1. -/
def outExt? (x : ConvDesc) : Option Ext :=
  let e := x.inExt
  match outDim e.w x.lo.w x.hi.w x.k.w x.st.w x.dil.w, outDim e.h x.lo.h x.hi.h x.k.h x.st.h x.dil.h,
      outDim e.t x.lo.t x.hi.t x.k.t x.st.t x.dil.t with
  | some w, some h, some t => some (if x.isUp then { w := w * x.up.w, h := h * x.up.h, t := t * x.up.t } else ⟨w, h, t⟩)
  | _, _, _ => none

/-- The output extents of a descriptor that was judged. -/
def out (x : ConvDesc) : Ext := x.outExt?.getD ⟨0, 0, 0⟩

/-- Channels of the operator's output, and of Y as stored (R165). -/
def outChans (x : ConvDesc) : Nat := if x.isConv then x.cout else x.chans
def yChans (x : ConvDesc) : Nat := x.outChans / x.fout.count

/-- Positions of Y as stored. -/
def yCount (x : ConvDesc) : Nat := (x.out.mul x.fout).count

/-- Planes of X, of the filter, and of Y in a format. -/
def planeX (x : ConvDesc) (e : ItemEntry) : Plane :=
  { addr := e.x, fmt := x.xFmt, len := x.cin, ld := x.ldx, saddr := e.xScale }
def planeW (x : ConvDesc) : Plane := { addr := x.wAddr, fmt := x.wFmt, len := x.chans, ld := 0, saddr := x.wsAddr }
def planeY (x : ConvDesc) (e : ItemEntry) (fmt saddr : Nat) : Plane :=
  { addr := e.y, fmt := fmt, len := x.yChans, ld := x.ldy, saddr := saddr }

/-- Taps of the kernel, in order of tau (R148): time, height, width. -/
def taps (x : ConvDesc) : List (Nat × Nat × Nat) := x.k.places

/-! ### Checks (Table 9 of 04, R193) -/

/-- Order 1 (R152). -/
def flagsBad (x : ConvDesc) : Bool :=
  decide (7 < x.flags) || x.upTop != 0 || decide (63 < x.rgIn) || decide (63 < x.rgOut) ||
    (x.startY && (!x.isConv || x.yFmt != 1 || x.chain != 0)) || (x.countPad && x.kind != Ck.avgPool)

/-- All of K, S and D are 1 and the pads 0. -/
def pointwise (x : ConvDesc) : Bool :=
  x.k == ⟨1, 1, 1⟩ && x.st == ⟨1, 1, 1⟩ && x.dil == ⟨1, 1, 1⟩ && x.lo == ⟨0, 0, 0⟩ && x.hi == ⟨0, 0, 0⟩

/-- Fields that only one kind or two use are zero for the others. Table 3 of 04 names AUX_ADDR, GROUPS and the factors for
CONVOLVE, the factors for four more kinds, and EPS and GB_ADDR for CONVOLVE alone; that a breach of Table 1 beside it
answers with the same code is the model's choice. Log entry 50. -/
def neutralBad (x : ConvDesc) : Bool :=
  let norm := x.kind == Ck.gnStats || x.kind == Ck.gnApply
  (!norm && (x.aux != 0 || x.groups != 0)) || (x.isConv && (x.eps != 0 || x.gb != 0)) ||
    (!x.isUp && (x.up.w != 0 || x.up.h != 0 || (!x.isPool && x.up.t != 0)))

/-- Order 2 (R153, Table 3). -/
def kindBad (x : ConvDesc) : Bool :=
  decide (7 < x.kind) || x.neutralBad ||
    (!x.isConv &&
      (x.wFmt != 0 || x.wScale != 0 || x.wAddr != 0 || x.wsAddr != 0 || x.cout != x.cin ||
        (if x.isPool then x.padK != 0 else !x.pointwise))) ||
    (x.kind == Ck.upBilinear && x.up.t != 1) ||
    (x.kind == Ck.regroup && (x.xFmt != x.yFmt || x.chain != 0)) ||
    (x.kind == Ck.gnStats && (x.yFmt != 0 || x.chain != 0))

/-- Order 3 (R45, R57 to R59, R149). Where several apply at once the model answers for the reserved code first, then for
the operand, the pairing and the scale; a Y_FMT outside 0x01 to 0x03 without a chain is answered as an operand, a scale
that stands where none may as a scale. Log entry 50. -/
def formatCode (x : ConvDesc) : Option Code :=
  if [x.xFmt, x.wFmt, x.yFmt].any fmtReserved then some Err.formatReserved
  else if (if x.isConv then !decide (2 ≤ x.xFmt ∧ x.xFmt ≤ 10) || !decide (2 ≤ x.wFmt ∧ x.wFmt ≤ 10)
      else !decide (1 ≤ x.xFmt ∧ x.xFmt ≤ 10)) ∨ (x.chain = 0 ∧ x.kind ≠ Ck.gnStats ∧ !isFloat x.yFmt) then
    some Err.formatNotOperand
  else if x.isConv ∧ x.xFmt ≠ x.wFmt then some Err.formatMismatch
  else if !scalePresent x.wFmt x.wScale ∨ (isFp8 x.wFmt ∧ !fposNormal x.wScale) ∨
      (x.kind = Ck.gnStats ∧ !fposNormal x.eps) then some Err.scaleInvalid
  else none

/-- Order 6. -/
def shapeBad (x : ConvDesc) : Bool :=
  !decide (1 ≤ x.cin ∧ x.cin ≤ 65536) || !decide (1 ≤ x.cout ∧ x.cout ≤ 65536) ||
    !decide (1 ≤ x.x.w ∧ x.x.w ≤ 16384) || !decide (1 ≤ x.x.h ∧ x.x.h ≤ 16384) || !decide (1 ≤ x.x.t ∧ x.x.t ≤ 4096)

/-- Every dimension lies in a range. -/
def within (e : Ext) (lo hi : Nat) : Bool :=
  [e.w, e.h, e.t].all fun v => decide (lo ≤ v ∧ v ≤ hi)

/-- R161: a constant pad that may not be. Bits 31:24 of PAD_BITS are zero with every PAD_KIND (Table 1). -/
def padBad (x : ConvDesc) : Bool :=
  let v := x.padV % 65536
  let sc := x.padV / 65536 % 256
  decide (2 ^ 24 ≤ x.padV) ||
    (x.padK == 1 &&
      (decide (2 ^ elemBits x.xFmt ≤ v) || !(decodeVal (elemFmt x.xFmt) v).isFin ||
        (if isMx x.xFmt then sc == 255 else sc != 0)))

/-- R163: a pooling window that may lie wholly in padding. -/
def poolPadBad (x : ConvDesc) : Bool :=
  let dim (p k d : Nat) : Bool := decide (d * (k - 1) + 1 ≤ p)
  x.isPool &&
    (dim x.lo.w x.k.w x.dil.w || dim x.hi.w x.k.w x.dil.w || dim x.lo.h x.k.h x.dil.h || dim x.hi.h x.k.h x.dil.h ||
      dim x.lo.t x.k.t x.dil.t || dim x.hi.t x.k.t x.dil.t)

/-- R183: an upsampling factor out of range. -/
def upBad (x : ConvDesc) : Bool :=
  (x.kind == Ck.upNearest && !within x.up 1 8) ||
    (x.kind == Ck.upBilinear && !([1, 2, 4].contains x.up.w && [1, 2, 4].contains x.up.h))

/-- Order 7. -/
def geometryBad (x : ConvDesc) : Bool :=
  !within x.k 1 7 || !within x.st 1 4 || !within x.dil 1 8 || decide (2 < x.padK) || !within x.lo 0 15 ||
    !within x.hi 0 15 || x.padBad || x.poolPadBad || x.upBad || x.outExt?.isNone

/-- Order 8 (R157, R165, R166). -/
def regroupBad (x : ConvDesc) : Bool :=
  bitsOf x.rgIn 5 4 == 3 || bitsOf x.rgOut 5 4 == 3 || x.x.w % x.fin.w != 0 || x.x.h % x.fin.h != 0 ||
    x.x.t % x.fin.t != 0 || x.cout % x.fout.count != 0 || (isMx x.xFmt && x.fin.count != 1 && x.cin % 32 != 0)

/-- Order 9 (R184). -/
def groupsBad (x : ConvDesc) : Bool :=
  (x.kind == Ck.gnStats || x.kind == Ck.gnApply) &&
    (x.groups == 0 || decide (1024 < x.groups) || x.chans % x.groups != 0)

/-- Order 10 (R150, R185); `stages` are those of the chain as far as it can be read, for the STOREs to Y (R204). -/
def layoutBad (x : ConvDesc) (stages : List Stage) : Bool :=
  !vaOk x.list || !ldOk x.xFmt x.cin x.ldx ||
    (if x.kind = Ck.gnStats then x.ldy != 0 else ownLdBad x.chain x.yFmt stages x.yChans x.ldy) ||
    !addrOk x.wAddr || !addrOk x.wsAddr || (!isMx x.wFmt && x.wsAddr != 0) || !addrOk x.aux || !vaOk x.gb

/-- Bytes of a stripe's window, in 32nds of a byte (R173). -/
def window (x : ConvDesc) (s ws : Nat) : Nat :=
  x.k.t * ((s - 1) * x.st.h + x.dil.h * (x.k.h - 1) + 1) * ((ws - 1) * x.st.w + x.dil.w * (x.k.w - 1) + 1) *
    (x.chans * (4 * elemBits x.xFmt + bit (isMx x.xFmt)))

/-- The window budget, in 32nds of a byte (R172, R173). -/
def budget : Nat := 32 * 3145728

/-- Table 9 of 04 in its order; NOT_PRESENT of the cores first (R145). -/
def check (x : ConvDesc) (noCores : Bool) (stages : List Stage) : Option Code :=
  match firstBad [(noCores, Err.coreNotPresent), (x.flagsBad, Err.flagsConflict), (x.kindBad, Err.opkindInvalid)] with
  | some code => some code
  | none =>
    match x.formatCode with
    | some code => some code
    | none =>
      firstBad [(decide (4 < x.mode) || (!x.isConv && x.mode != 0), Err.modeInvalid),
        (x.cnt == 0 || decide (256 < x.cnt) || x.list % 32 != 0, Err.listRange), (x.shapeBad, Err.shapeRange),
        (x.geometryBad, Err.convGeometry), (x.regroupBad, Err.regroupInvalid), (x.groupsBad, Err.groupsInvalid),
        (x.layoutBad stages, Err.layoutInvalid), (x.isConv && decide (budget < x.window 1 1), Err.windowTooLarge)]

/-- What the chain is judged for: the operator's output before depth-to-space. -/
def use (x : ConvDesc) : ChainUse :=
  { n := x.outChans, k := x.chans, aFmt := none, items := x.cnt, result := x.yFmt, isT := false, ownOk := true,
    staging := 0 }

/-! ### Taps (R159, R160) -/

/-- A coordinate a tap reads along one dimension. -/
def tapCoord (o s p k d : Nat) : Int := (o : Int) * s - p + (k : Int) * d

/-- A coordinate inside a dimension of `n` positions. -/
def inside (n : Nat) (c : Int) : Option Nat := if 0 ≤ c ∧ c < (n : Int) then some c.toNat else none

/-- The nearest coordinate of a dimension. -/
def clampDim (n : Nat) (c : Int) : Nat := min c.toNat (n - 1)

/-- The position of the regrouped X that a tap of an output position reads; none for a padded one. -/
def tapAt (x : ConvDesc) (o k : Nat × Nat × Nat) : Option Nat :=
  let e := x.inExt
  match inside e.t (tapCoord o.1 x.st.t x.lo.t k.1 x.dil.t), inside e.h (tapCoord o.2.1 x.st.h x.lo.h k.2.1 x.dil.h),
      inside e.w (tapCoord o.2.2 x.st.w x.lo.w k.2.2 x.dil.w) with
  | some t, some h, some w => some (e.at t h w)
  | _, _, _ => none

/-- The stored position that edge replication reads. -/
def tapEdge (x : ConvDesc) (o k : Nat × Nat × Nat) : Nat :=
  let e := x.inExt
  e.at (clampDim e.t (tapCoord o.1 x.st.t x.lo.t k.1 x.dil.t)) (clampDim e.h (tapCoord o.2.1 x.st.h x.lo.h k.2.1 x.dil.h))
    (clampDim e.w (tapCoord o.2.2 x.st.w x.lo.w k.2.2 x.dil.w))

/-! ### Tiles (R171, R173, R174) -/

/-- The largest number up to `n` that a test admits; 0 for none. -/
def largest (n : Nat) (ok : Nat → Bool) : Nat := (((List.range n).reverse.map fun i => i + 1).find? ok).getD 0

/-- Rows and columns of a stripe of a CONVOLVE on a number of cores (R173). -/
def stripe (x : ConvDesc) (cores : Nat) : Nat × Nat :=
  let o := x.out
  if x.window 1 o.w ≤ budget then
    let fit := largest o.h fun s => decide (x.window s o.w ≤ budget)
    (max 1 (largest fit fun s => decide (cores ≤ x.cnt * o.t * cdiv o.h s)), o.w)
  else (1, largest o.w fun ws => decide (x.window 1 ws ≤ budget))

/-- The run of a row tile when `n` tiles are cut into `q` runs, the larger first (R174). -/
def runOf (n q j : Nat) : Nat :=
  let big := n % q
  let size := n / q
  if j < big * (size + 1) then j / (size + 1) else big + (j - big * (size + 1)) / max 1 size

/-- A stripe: its frame, its place among the stripes of the frame, and its positions as height and width (R173). -/
structure Stripe where
  t      : Nat
  i      : Nat
  j      : Nat
  places : List (Nat × Nat)
  deriving DecidableEq, Repr

/-- The positions of a stripe of `s` rows and `ws` columns. -/
def stripePlaces (o : Ext) (s ws i j : Nat) : List (Nat × Nat) :=
  ((List.range (min s (o.h - i * s))).map fun h =>
    (List.range (min ws (o.w - j * ws))).map fun w => (i * s + h, j * ws + w)).flatten

/-- The stripes of an output, in order of frame, row and column. -/
def stripesOf (o : Ext) (st : Nat × Nat) : List Stripe :=
  ((List.range o.t).map fun t => ((List.range (cdiv o.h st.1)).map fun i => (List.range (cdiv o.w st.2)).map fun j =>
    { t := t, i := i, j := j, places := stripePlaces o st.1 st.2 i j : Stripe }).flatten).flatten

/-- The stripes of a CONVOLVE on a number of cores. -/
def stripes (x : ConvDesc) (cores : Nat) : List Stripe := stripesOf x.out (x.stripe cores)

/-- The stripe of a drain operator that is a whole frame. -/
def frames (e : Ext) : List Stripe := stripesOf e (e.h, e.w)

/-- The accumulator tiles of a stripe, by row tile of 128 positions: each with its column tiles. -/
def stripeTiles (o : Ext) (n q : Nat) (s : Stripe) : List (List Tile) :=
  let rows := runsOf 128 s.places.length s.places
  rows.mapIdx fun j ps => (columnTiles n).map fun c =>
    let p := ps.headD (0, 0)
    { rows := ps.map fun p => o.at s.t p.1 p.2, c0 := c.1, cn := c.2, run := runOf rows.length q j, row := p.1 * o.w + p.2,
      outer := s.t : Tile }

/-- The tiles of a CONVOLVE's output (R173, R174). -/
def convTiles (x : ConvDesc) (cores q : Nat) : List Tile :=
  ((x.stripes cores).map fun s => (stripeTiles x.out x.outChans q s).flatten).flatten

/-- The tiles of a drain operator over a tensor: each frame's positions in order. -/
def frameTiles (e : Ext) (n : Nat) : List Tile := ((frames e).map fun s => (stripeTiles e n 1 s).flatten).flatten

/-- Runs that share the positions of a unit (R174). -/
def runsIn (x : ConvDesc) (mode : Nat) : Nat :=
  let m := arrayMode mode
  max 1 (m.gangs / cdiv x.outChans m.nt)

end ConvDesc

/-! ### Reading X and the filter -/

/-- Rows regrouped by space-to-depth, each block with its scale (R157, R164, R166). -/
def regroupRows (r e : Ext) (x : List Row) : List Row :=
  List.zipWith (fun v s => { vals := v, xs := s, groups := [] }) (spaceToDepth r e (x.map fun a => a.vals))
    (spaceToDepth r e (x.map fun a => a.xs))

/-- The first and last coordinate that a run of output coordinates reads along one dimension, the gaps of strides and
dilations among them (R173). -/
def windowDim (o0 n s p k d : Nat) : Int × Int :=
  ((o0 : Int) * s - p, ((o0 + n - 1 : Nat) : Int) * s - p + (d * (k - 1) : Nat))

/-- The coordinates of a dimension of `n` positions that lie in a window; `edge` adds those that edge replication reads. -/
def inWindow (n : Nat) (edge : Bool) (w : Int × Int) (c : Nat) : Bool :=
  (decide (w.1 ≤ (c : Int)) && decide ((c : Int) ≤ w.2)) ||
    (edge && (c == ConvDesc.clampDim n w.1 || c == ConvDesc.clampDim n w.2))

/-- How many coordinates of a dimension lie in a window. -/
def windowCount (n : Nat) (w : Int × Int) : Nat := (min w.2 ((n : Int) - 1) - max w.1 0 + 1).toNat

namespace ConvDesc

/-- The windows of a stripe: the frames its taps read, its rows, its columns. -/
def frameWindows (x : ConvDesc) (t : Nat) : List (Int × Int) :=
  (List.range x.k.t).map fun i => let c := tapCoord t x.st.t x.lo.t i x.dil.t; (c, c)
def rowWindow (x : ConvDesc) (st : Nat × Nat) (i : Nat) : Int × Int :=
  windowDim (i * st.1) (min st.1 (x.out.h - i * st.1)) x.st.h x.lo.h x.k.h x.dil.h
def colWindow (x : ConvDesc) (st : Nat × Nat) (j : Nat) : Int × Int :=
  windowDim (j * st.2) (min st.2 (x.out.w - j * st.2)) x.st.w x.lo.w x.k.w x.dil.w

/-- A position of the regrouped X lies in the window of some unit of a CONVOLVE (R175). -/
def loads (x : ConvDesc) (cores : Nat) (p : Nat × Nat × Nat) : Bool :=
  let st := x.stripe cores
  let e := x.inExt
  let o := x.out
  let edge := x.padK == 2
  ((List.range o.t).any fun t => (x.frameWindows t).any fun w => inWindow e.t edge w p.1) &&
    ((List.range (cdiv o.h st.1)).any fun i => inWindow e.h edge (x.rowWindow st i) p.2.1) &&
    (List.range (cdiv o.w st.2)).any fun j => inWindow e.w edge (x.colWindow st j) p.2.2

/-- A position of the regrouped X that a tap of a pooling window reads. -/
def pools (x : ConvDesc) (p : Nat × Nat × Nat) : Bool :=
  let dim (n k s lo d c : Nat) : Bool :=
    (List.range n).any fun o => (List.range k).any fun i => tapCoord o s lo i d == (c : Int)
  dim x.out.t x.k.t x.st.t x.lo.t x.dil.t p.1 && dim x.out.h x.k.h x.st.h x.lo.h x.dil.h p.2.1 &&
    dim x.out.w x.k.w x.st.w x.lo.w x.dil.w p.2.2

/-- A position of the regrouped X that a command reads. -/
def reads (x : ConvDesc) (cores : Nat) (p : Nat × Nat × Nat) : Bool :=
  if x.isConv then x.loads cores p else if x.isPool then x.pools p else true

/-- The regrouped position of a stored one (R164). -/
def regrouped (x : ConvDesc) (q : Nat × Nat × Nat) : Nat × Nat × Nat :=
  (q.1 / x.fin.t, q.2.1 / x.fin.h, q.2.2 / x.fin.w)

end ConvDesc

/-- The regrouped X of an item; positions that the command does not read stay empty. -/
def State.convX (s : State) (ctx : Nat) (x : ConvDesc) (cores : Nat) (e : ItemEntry) : Except Stop (List Row) := do
  let rows ← x.x.places.mapM fun q =>
    if x.reads cores (x.regrouped q) then s.readRow ctx (x.planeX e) (x.x.at q.1 q.2.1 q.2.2) else .ok Row.empty
  .ok (regroupRows x.fin x.inExt rows)

/-- A tap's channels followed by zeros up to the next multiple of 32 (R169). -/
def padTap (c : Nat) (r : Row) : Row :=
  { r with vals := r.vals ++ List.replicate (32 * cdiv c 32 - c) (.fin false 0 0) }

/-- A row of taps one after another. -/
def joinTaps (l : List Row) : Row :=
  { vals := (l.map fun r => r.vals).flatten, xs := (l.map fun r => r.xs).flatten, groups := [] }

/-- What a padded position reads as with PAD_KIND 0 and 1 (R160). -/
def ConvDesc.padRow (x : ConvDesc) (constant : Bool) : Row :=
  let blocks := if isMx x.xFmt then cdiv x.chans 32 else 0
  if constant then
    { vals := List.replicate x.chans (decodeVal (elemFmt x.xFmt) (x.padV % 65536)),
      xs := List.replicate blocks (scaleExp (x.padV / 65536 % 256)), groups := [] }
  else { vals := List.replicate x.chans (.fin false 0 0), xs := List.replicate blocks 0, groups := [] }

/-- A position as padding hands it to the events of a CONVOLVE: its NaNs are left out, which R162 does not count. That an
infinity of edge replication still makes a NaN that counts is the model's reading. Log entry 43. -/
def Row.paddedIn (r : Row) : Row :=
  { r with vals := r.vals.map fun v => if v.isNan then .fin false 0 0 else v }

/-- The row of A of an output position (R159, R160, R169); `real` reads padded positions without their NaNs. -/
def ConvDesc.tapRow (x : ConvDesc) (rows : List Row) (real : Bool) (o : Nat × Nat × Nat) : Row :=
  joinTaps (x.taps.map fun k => padTap x.chans
    (match x.tapAt o k with
    | some p => rows.getD p Row.empty
    | none =>
      let r := if x.padK = 2 then rows.getD (x.tapEdge o k) Row.empty else x.padRow (x.padK == 1)
      if real then r.paddedIn else r))

/-- The columns of the filter over its taps (R148, R169). -/
def State.convW (s : State) (ctx : Nat) (x : ConvDesc) : Except Stop (List Row) := do
  let rows ← s.readRows ctx x.planeW (x.k.count * x.cout)
  .ok ((List.range x.cout).map fun n =>
    joinTaps ((List.range x.k.count).map fun i => padTap x.chans (rows.getD (i * x.cout + n) Row.empty)))

/-! ### What goes out -/

/-- A STORE to the item's own output, after depth-to-space (R165, R204). -/
def ConvDesc.ownStore (x : ConvDesc) (e : ItemEntry) : OwnStore := fun g m =>
  let p := x.planeY e g.ifmt (if isMx g.ifmt then g.scalesAt e.pos g.pd else 0)
  let r := storeOwn p g (depthToSpace x.fout x.out x.yChans m)
  (r.1, spaceToDepth x.fout x.out r.2)

/-- The plane of the item's own output as a stage writes it. -/
def ConvDesc.ownPlane (x : ConvDesc) (e : ItemEntry) (g : Stage) : Plane :=
  x.planeY e g.ifmt (if isMx g.ifmt then g.scalesAt e.pos g.pd else 0)

/-- What the items of a CONV share: the descriptor, the chain, mode of the arrays, the way passes are held, the units on
their cores, and the first free word. -/
structure ConvEnv where
  x     : ConvDesc
  chain : Option Chain
  mode  : Nat
  way   : Nat
  deal  : Dealing
  free  : Nat
  deriving DecidableEq, Repr

/-- What an operator made of an item goes out: through the chain, or in Y_FMT (R165, R178). -/
def State.convOut (s : State) (ctx : Nat) (v : ConvEnv) (e : ItemEntry) (tiles : List Tile) (y : Mat)
    (events : List NanEvent) : Except Halt Work :=
  let x := v.x
  let put (l : List NanEvent) : List NanEvent := l.map (v.deal.stamp e.pos)
  match v.chain with
  | none =>
    .ok { writes := storeRows (x.planeY e x.yFmt 0) false 0 (depthToSpace x.fout x.out x.yChans y), pushes := [],
          events := put events }
  | some c => do
    let env : ChainEnv := { ctx := ctx, i := e.pos, m := x.out.count, n := x.outChans }
    let f ← (s.runStages env tiles (x.ownStore e) c.stages (Flow.start y)).mapError fun h => (h.1, put (events ++ h.2))
    .ok { writes := f.writes, pushes := f.pushes, events := put (events ++ f.events) }

/-! ### CONVOLVE (R168 to R177) -/

/-- The accumulators' start values (R171). -/
def State.convStart (s : State) (ctx : Nat) (x : ConvDesc) (e : ItemEntry) : Except Stop (Option Mat) :=
  if x.startY then do
    let rows ← s.readRows ctx (x.planeY e 1 0) x.yCount
    .ok (some (spaceToDepth x.fout x.out (rows.map Row.words)))
  else .ok none

/-- The work of a CONVOLVE item. The events are those of the operands without the NaNs of padding (R162, R171). -/
def State.convolveWork (s : State) (ctx : Nat) (v : ConvEnv) (e : ItemEntry) : Except Halt Work := do
  let x := v.x
  let cores := v.deal.cores.length
  let rows ← atOnce (s.convX ctx x cores e)
  let b ← atOnce (s.convW ctx x)
  let start ← atOnce (s.convStart ctx x e)
  let full := (0, x.k.count * 32 * cdiv x.chans 32)
  let acc := productPart false full start (x.out.places.map (x.tapRow rows false)) b
  let real := x.out.places.map (x.tapRow rows true)
  let q := x.runsIn v.mode
  let tiles := x.convTiles cores q
  let u : ArrayUse :=
    { mode := v.mode, d := (classDC x.xFmt x.wFmt).1, q := q, tapK := 32 * cdiv x.chans 32, code := false }
  let ev := ((productParts false [full] start real b).map (arrayEvents u tiles real b)).flatten
  let sc := scaleMat acc (tensorFactor x.xFmt x.wFmt e.tx x.wScale) tiles
  s.convOut ctx v e tiles sc.1 (ev ++ sc.2)

/-! ### Pooling and upsampling (R178 to R183) -/

/-- The regrouped X of an item as FP32. -/
def State.drainX (s : State) (ctx : Nat) (x : ConvDesc) (e : ItemEntry) : Except Halt Mat := do
  let rows ← atOnce (s.convX ctx x 1 e)
  .ok (rows.map fun r => r.scaled x.xFmt e.tx)

/-- The events of a drain operator: NaNs read and NaNs made at each position of a tensor. -/
def drainEvents (tiles : List Tile) (read : List (List Bool)) (y : Mat) : List NanEvent :=
  stageEvents tiles 0 (zipMat (fun a b => nanMark a (fisNan b)) read y)

/-- The values of a window of one channel, in tap order: none for padded positions. -/
def ConvDesc.windowOf (x : ConvDesc) (m : Mat) (o : Nat × Nat × Nat) (c : Nat) : List (Option Word) :=
  x.taps.map fun k => (x.tapAt o k).map fun p => (m.getD p []).getD c 0

/-- A pooled value (R179, R180). A window of padded positions alone has no stated value: `free`. -/
def ConvDesc.pool (x : ConvDesc) (free : Word) (w : List (Option Word)) : Word :=
  let real := w.filterMap id
  if x.kind = Ck.maxPool then (if real.isEmpty then free else maxList real)
  else
    let l := if x.countPad then w.map fun v => v.getD 0 else real
    if l.isEmpty then free else fmul (sumFirst l) (fdiv fone (fofNat l.length))

/-- The work of a pooling item. -/
def State.poolWork (s : State) (ctx : Nat) (v : ConvEnv) (e : ItemEntry) : Except Halt Work := do
  let x := v.x
  let m ← s.drainX ctx x e
  let tiles := ConvDesc.frameTiles x.out x.outChans
  let w := x.out.places.map fun o => (List.range x.chans).map fun c => x.windowOf m o c
  let base := v.free + e.pos * (x.out.count * x.chans)
  let y := w.mapIdx fun p r => r.mapIdx fun c l => x.pool (Config.freeWord (base + p * x.chans + c)) l
  let read := mapMat (fun l => l.any fun v => v.any fisNan) w
  s.convOut ctx v e tiles y (drainEvents tiles read y)

/-- The input position UP_NEAREST copies (R181). -/
def ConvDesc.nearest (x : ConvDesc) (o : Nat × Nat × Nat) : Nat :=
  x.inExt.at (o.1 / x.up.t) (o.2.1 / x.up.h) (o.2.2 / x.up.w)

/-- The bits of a stored X, position by position. -/
def State.bitsOfX (s : State) (ctx : Nat) (x : ConvDesc) (e : ItemEntry) : Except Stop (List (List Nat)) := do
  let p := x.planeX e
  let rows ← (List.range x.x.count).mapM fun r => s.fetch ctx (p.at r) (rowBytes p.fmt p.len)
  .ok (spaceToDepth x.fin x.inExt (rows.map (unpackRow p.fmt p.len)))

/-- Element bits stored unchanged, after depth-to-space (R167, R181). -/
def ConvDesc.copyOut (x : ConvDesc) (e : ItemEntry) (y : List (List Nat)) : Work :=
  let p := x.planeY e x.yFmt 0
  { writes := (depthToSpace x.fout x.out x.yChans y).mapIdx fun r b => (p.at r, packRow p.fmt b), pushes := [], events := [] }

/-- The work of an UP_NEAREST item: a copy, or a conversion where the formats differ (R181). That a copy keeps the bits of a
stored NaN, which R49 would make positive and quiet, is the model's choice. Log entry 51. -/
def State.nearestWork (s : State) (ctx : Nat) (v : ConvEnv) (e : ItemEntry) : Except Halt Work := do
  let x := v.x
  if v.chain.isNone ∧ x.yFmt = x.xFmt then
    let b ← atOnce (s.bitsOfX ctx x e)
    .ok (x.copyOut e (x.out.places.map fun o => b.getD (x.nearest o) []))
  else
    let m ← s.drainX ctx x e
    s.convOut ctx v e (ConvDesc.frameTiles x.out x.outChans) (x.out.places.map fun o => m.getD (x.nearest o) []) []

/-- Indices and weights of one dimension of UP_BILINEAR: i0, i1, and the weights in units of 1 / 2f (R182). -/
def bilinearDim (n f o : Nat) : List (Nat × Nat) :=
  let num : Int := 2 * (o : Int) + 1 - f
  let d : Int := 2 * f
  let i0 := num / d
  let r := (num % d).toNat
  [(ConvDesc.clampDim n i0, 2 * f - r), (ConvDesc.clampDim n (i0 + 1), r)]

/-- A weighted term of UP_BILINEAR, exact: a weight of `w` / 2^k. -/
def bilinearTerm (w k : Nat) (v : Word) : Val := Val.mul (Word.val v) (.fin false w (-(k : Int)))

/-- The sum of weighted terms: the first exact, each later addition rounded (R182). -/
def bilinearSum : List Val → Word
  | [] => 0
  | t :: ts => rnd32 (ts.foldl (fun acc v => Word.val (rnd32 (Val.add acc v))) t)

/-- The four terms of an output position: input position and weight, i over height and j over width. -/
def ConvDesc.bilinear (x : ConvDesc) (o : Nat × Nat × Nat) : List (Nat × Nat) :=
  let e := x.inExt
  ((bilinearDim e.h x.up.h o.2.1).map fun i => (bilinearDim e.w x.up.w o.2.2).map fun j =>
    (e.at o.1 i.1 j.1, i.2 * j.2)).flatten

/-- The work of an UP_BILINEAR item (R182). -/
def State.bilinearWork (s : State) (ctx : Nat) (v : ConvEnv) (e : ItemEntry) : Except Halt Work := do
  let x := v.x
  let m ← s.drainX ctx x e
  let tiles := ConvDesc.frameTiles x.out x.outChans
  let k := Nat.log2 (4 * x.up.h * x.up.w)
  let terms := x.out.places.map fun o => (List.range x.chans).map fun c =>
    (x.bilinear o).map fun p => (p.2, (m.getD p.1 []).getD c 0)
  let y := mapMat (fun l => bilinearSum (l.map fun p => bilinearTerm p.1 k p.2)) terms
  let read := mapMat (fun l => l.any fun p => fisNan p.2) terms
  s.convOut ctx v e tiles y (drainEvents tiles read y)

/-- The work of a REGROUP item: a permutation of bytes (R167). -/
def State.regroupWork (s : State) (ctx : Nat) (v : ConvEnv) (e : ItemEntry) : Except Halt Work := do
  let b ← atOnce (s.bitsOfX ctx v.x e)
  .ok (v.x.copyOut e b)

/-! ### Group normalisation (R184 to R189) -/

/-- Chunks of 2,048 positions (R185, R186). -/
def ConvDesc.chunks (x : ConvDesc) : Nat := cdiv x.inExt.count 2048

/-- Where the statistics of an item stand, and its share of the work area behind those of all items (R185). -/
def ConvDesc.statsAt (x : ConvDesc) (i : Nat) : Nat := x.aux + i * x.groups * 8
def ConvDesc.workAt (x : ConvDesc) (i : Nat) : Nat := x.aux + x.cnt * x.groups * 8 + i * x.groups * x.chunks * 8

/-- A sum over all positions: runs of 2,048, then the chunk partials in order (R186). -/
def chunkSum (l : List Word) : Word := sumFirst ((runsOf 2048 l.length l).map sumFirst)

/-- Mean and reciprocal standard deviation of a group, of `n` elements, from its channels at each position (R186, R187). -/
def groupStats (n : Nat) (eps : Word) (g : Mat) : Stat :=
  let nf := fofNat n
  let mean := fdiv (chunkSum (g.map sumFirst)) nf
  let s2 := chunkSum (g.map fun r => sumFirst (r.map fun v => fmul v v))
  (mean, frsqrt (fadd (varianceOf mean s2 nf) eps))

/-- Channels of a group. -/
def ConvDesc.perGroup (x : ConvDesc) : Nat := x.chans / max 1 x.groups

/-- The work of a GN_STATS item: its statistics, and unspecified bytes in its share of the work area. -/
def State.gnStatsWork (s : State) (ctx : Nat) (v : ConvEnv) (e : ItemEntry) : Except Halt Work := do
  let x := v.x
  let m ← s.drainX ctx x e
  let c := x.perGroup
  let last := m.length - 1
  let st := (List.range x.groups).map fun g => groupStats (m.length * c) x.eps (m.map fun r => (r.drop (g * c)).take c)
  let clean (g : Nat) : Bool := m.all fun r => ((r.drop (g * c)).take c).all fun w => !fisNan w
  let marks := m.mapIdx fun p r => r.mapIdx fun k w =>
    let q := st.getD (k / max 1 c) (0, 0)
    if fisNan w then 1
    else if p = last ∧ k % max 1 c = 0 ∧ clean (k / max 1 c) ∧ (fisNan q.1 || fisNan q.2) then 2 else 0
  let n := x.groups * x.chunks * 8
  let base := v.free + e.pos * n
  .ok { writes := [(x.statsAt e.pos, partialBytes st),
                   (x.workAt e.pos, (List.range n).map fun i => Config.freeByte (base + i))],
        pushes := [],
        events := (stageEvents (ConvDesc.frameTiles x.inExt x.chans) 0 marks).map (v.deal.stamp e.pos) }

/-- GN_APPLY to one value (R188). -/
def gnApplyFn (p : Stat) (gamma beta v : Word) : Word := fadd (fmul (fmul (fsub v p.1) p.2) gamma) beta

/-- The work of a GN_APPLY item; gamma and beta of channel c' are those of stored channel c' mod CIN. -/
def State.gnApplyWork (s : State) (ctx : Nat) (v : ConvEnv) (e : ItemEntry) : Except Halt Work := do
  let x := v.x
  let m ← s.drainX ctx x e
  let raw ← atOnce (s.fetch ctx (x.statsAt e.pos) (x.groups * 8))
  let gb ← atOnce (s.fetch ctx x.gb (8 * x.cin))
  let word (b : Bytes) (o : Nat) : Word := BitVec.ofNat 32 (leAt b o 4)
  let c := max 1 x.perGroup
  let par := (List.range x.chans).map fun k =>
    ((word raw (8 * (k / c)), word raw (8 * (k / c) + 4)), word gb (4 * (k % x.cin)), word gb (4 * x.cin + 4 * (k % x.cin)))
  let y := m.map fun r => List.zipWith (fun p w => gnApplyFn p.1 p.2.1 p.2.2 w) par r
  let read := m.map fun r => List.zipWith (fun p w =>
    fisNan w || fisNan p.1.1 || fisNan p.1.2 || fisNan p.2.1 || fisNan p.2.2) par r
  let tiles := ConvDesc.frameTiles x.out x.outChans
  s.convOut ctx v e tiles y (drainEvents tiles read y)

/-! ### The command -/

/-- The work of an item by its kind (Table 3 of 04). -/
def State.convWork (s : State) (ctx : Nat) (v : ConvEnv) (e : ItemEntry) : Except Halt Work :=
  match v.x.kind with
  | 0 => s.convolveWork ctx v e
  | 1 => s.poolWork ctx v e
  | 2 => s.poolWork ctx v e
  | 3 => s.nearestWork ctx v e
  | 4 => s.bilinearWork ctx v e
  | 5 => s.regroupWork ctx v e
  | 6 => s.gnStatsWork ctx v e
  | _ => s.gnApplyWork ctx v e

/-- What an item reads, the Y of START_Y apart (R191). -/
def ConvEnv.ins (v : ConvEnv) (ctx : Nat) (e : ItemEntry) : List Piece :=
  let x := v.x
  let env : ChainEnv := { ctx := ctx, i := e.pos, m := x.out.count, n := x.outChans }
  let own := { (x.planeX e).part 0 x.x.count with plane := none }
  let filter := if x.isConv then [{ x.planeW.part 0 (x.k.count * x.cout) with plane := none }] else []
  let norm := if x.kind = Ck.gnApply then [runPart 0 (x.statsAt e.pos) (x.groups * 8), runPart 0 x.gb (8 * x.cin)] else []
  let sides := match v.chain with
    | none => []
    | some c => c.stages.filterMap fun g => g.inPart env
  own :: filter ++ norm ++ sides

/-- What an item writes. -/
def ConvEnv.outs (v : ConvEnv) (ctx : Nat) (e : ItemEntry) : List Piece :=
  let x := v.x
  let env : ChainEnv := { ctx := ctx, i := e.pos, m := x.out.count, n := x.outChans }
  if x.kind = Ck.gnStats then
    [runPart 0 (x.statsAt e.pos) (x.groups * 8), runPart 0 (x.workAt e.pos) (x.groups * x.chunks * 8)]
  else
    match v.chain with
    | none => [(x.planeY e x.yFmt 0).part 0 x.yCount]
    | some c => c.stages.filterMap fun g => g.outPart env (x.ownPlane e) x.yCount

/-- Free words and bytes an item may take. -/
def ConvDesc.freeUse (x : ConvDesc) : Nat :=
  if x.isPool then x.out.count * x.chans else if x.kind = Ck.gnStats then x.groups * x.chunks * 8 else 0

/-! ### Planning (R99, R114, R172 to R177, R190, R221, R231, R232; Rates of 04) -/

/-- Bytes of the filter as one core loads it. -/
def ConvDesc.filterBytes (x : ConvDesc) : Nat := x.k.count * x.cout * fullRow x.wFmt x.chans

/-- Bytes of the weight area that a chain leaves (R172, R197). -/
def weightArea (chain : Option Chain) : Nat := 2097152 - areaOf chain

/-- The filter stays resident (R176). -/
def ConvDesc.resident (x : ConvDesc) (chain : Option Chain) : Bool := decide (x.filterBytes ≤ weightArea chain)

/-- Bytes a unit loads of X: the positions of its window that are not padded (R175). -/
def ConvDesc.windowBytes (x : ConvDesc) (st : Nat × Nat) (u : Stripe) : Nat :=
  let e := x.inExt
  ((x.frameWindows u.t).map (windowCount e.t)).sum * windowCount e.h (x.rowWindow st u.i) *
    windowCount e.w (x.colWindow st u.j) * fullRow x.xFmt x.chans

/-- How the arrays hold a CONVOLVE: the command, its chain, a mode, row tiles of a pass. -/
structure ConvPlanning where
  x     : ConvDesc
  chain : Option Chain
  mode  : Nat
  per   : Nat
  deriving DecidableEq, Repr

/-- The row tiles of each run of a unit, as rows of each (R174). -/
def runTiles (q : Nat) (tiles : List Nat) : List (List Nat) :=
  (List.range q).map fun r =>
    (tiles.mapIdx fun j n => (j, n)).filterMap fun p => if ConvDesc.runOf tiles.length q p.1 = r then some p.2 else none

/-- The passes of each gang of a unit of some row tiles: columns within the matrix and row tiles of each pass (R174). -/
def ConvPlanning.gangs (v : ConvPlanning) (tiles : List Nat) : List (List (Nat × List Nat)) :=
  let m := arrayMode v.mode
  let nc := cdiv v.x.outChans m.nt
  let runs := (runTiles (v.x.runsIn v.mode) tiles).filter fun r => !r.isEmpty
  let jobs := ((List.range nc).map fun n => runs.map fun r => (n, r)).flatten
  (List.range m.gangs).map fun g =>
    ((jobs.mapIdx fun j p => (j, p)).filterMap fun p => if p.1 % m.gangs = g then some p.2 else none).flatMap fun p =>
      (runsOf v.per p.2.length p.2).map fun ps => (min m.nt (v.x.outChans - p.1 * m.nt), ps)

/-- Cycles of a pass of some row tiles (Rates of 04). -/
def ConvPlanning.passCycles (v : ConvPlanning) (tiles : List Nat) : Nat :=
  let m := arrayMode v.mode
  let dc := classDC v.x.xFmt v.x.wFmt
  let kt := m.kt * dc.1
  let s := if v.x.resident v.chain then 0 else cdiv (fullRow v.x.wFmt kt * m.nt) 256
  m.load + 160 + v.x.k.count * cdiv v.x.chans kt * max (dc.2 * (tiles.map streamed).sum) (max m.load s)

/-- Cycles of a unit of some row tiles: the longest of its gangs. -/
def ConvPlanning.unitCycles (v : ConvPlanning) (tiles : List Nat) : Nat :=
  ((v.gangs tiles).map fun g => (g.map fun p => v.passCycles p.2).sum).foldl max 0

/-- Drain cycles of a row tile of `r` rows over some columns. -/
def ConvPlanning.drain (v : ConvPlanning) (l : List Stage) (r cols : Nat) : Nat :=
  ((columnTiles cols).map fun c => drainCycles l (scaleCost v.x.xFmt v.x.wFmt) 0 r c.2).sum

/-- The passes of a unit as the drain sees them: the gangs' passes side by side, the row tiles of each in turn. That the
gangs' jobs keep step so is the model's choice. Log entry 27. -/
def ConvPlanning.passes (v : ConvPlanning) (tiles : List Nat) : List PlanUnit :=
  let gs := v.gangs tiles
  let epi := epilogueOf v.chain
  let c := (classDC v.x.xFmt v.x.wFmt).2
  (List.range ((gs.map List.length).foldl max 0)).map fun i =>
    let now := gs.filterMap fun g => g[i]?
    { cyc := (now.map fun p => v.passCycles p.2).foldl max 0,
      slots := (List.range ((now.map fun p => p.2.length).foldl max 0)).map fun t =>
        let at_ := now.filterMap fun p => p.2[t]?.map fun r => (p.1, r)
        (c * (at_.map fun q => streamed q.2).foldl max 0,
          if epi.isEmpty then 0 else (at_.map fun q => v.drain epi q.2 q.1).sum),
      wp := 0, rcw := 0, pass := i, pro := 0 }

/-- R222: the wait of a row-complete unit of some rows before its core's next. -/
def ConvPlanning.ownWait (v : ConvPlanning) (rows : Nat) : Nat :=
  let m := arrayMode v.mode
  let ph := splitOwn (epilogueOf v.chain)
  let n := v.x.outChans
  v.drain ph.1 rows (n - (cdiv (cdiv n m.nt) m.gangs - 1) * m.gangs * m.nt) + v.drain ph.2 rows n

/-- A unit of a CONVOLVE as planned: its tiles, the rows of each row tile, the bytes it loads. -/
structure ConvUnit where
  dealt : DealtUnit
  rows  : List Nat
  load  : Nat
  deriving DecidableEq, Repr

/-- The units of an item: its stripes, or in row-complete ordering the row tiles of each (R173, R221). -/
def ConvPlanning.units (v : ConvPlanning) (cores : Nat) (pos : Nat) : List ConvUnit :=
  let st := v.x.stripe cores
  (v.x.stripes cores).flatMap fun u =>
    let tiles := ConvDesc.stripeTiles v.x.out v.x.outChans (v.x.runsIn v.mode) u
    (if v.chain.any Chain.usesOwn then tiles.map fun l => [l] else [tiles]).map fun l =>
      let rows := l.map fun ts => (ts.head?.map fun t => t.rows.length).getD 0
      { dealt := { pos := pos, tiles := l.flatten, cyc := v.unitCycles rows }, rows := rows, load := v.x.windowBytes st u }

/-- Planned cycles of a core's units (Rates of 04, R222, R231). -/
def ConvPlanning.coreCycles (v : ConvPlanning) (alt : Bool) (us : List ConvUnit) : Nat :=
  let first := cdiv ((if v.x.resident v.chain then v.x.filterBytes else 0) + (us.head?.map fun u => u.load).getD 0) 256
  let each := (List.zipWith (fun (u : ConvUnit) n => max u.dealt.cyc (cdiv n 256)) us
    ((us.drop 1).map (fun u => u.load) ++ [0])).sum
  let own := v.chain.any Chain.usesOwn
  (if us.isEmpty then 0 else first) + each +
    if own then (us.map fun u => v.ownWait u.rows.sum).sum else drainWaits alt (us.flatMap fun u => v.passes u.rows)

/-- Row tiles of a pass in a mode (R96, R232). -/
def convPer (mode way : Nat) : Nat :=
  if way = 2 then 1 else max 1 ((arrayMode mode).rowTiles (if way = 1 then accTiles / 2 else accTiles))

/-- A way to run a CONVOLVE: mode, PLAN, the units on their cores. -/
structure ConvPlan where
  mode : Nat
  way  : Nat
  deal : Dealing
  deriving DecidableEq, Repr

/-- A CONVOLVE planned in a mode and a way, with the cycles of its busiest core. -/
def ConvDesc.planIn (x : ConvDesc) (chain : Option Chain) (cores pos : List Nat) (mode way : Nat) : ConvPlan × Nat :=
  let v : ConvPlanning := { x := x, chain := chain, mode := mode, per := convPer mode way }
  let us := pos.flatMap (v.units cores.length)
  let d := dealTo cores (us.map fun u => u.dealt)
  ({ mode := mode, way := way, deal := d },
    (List.range cores.length).foldl (fun a i =>
      max a (v.coreCycles (way == 1) (((d.places.zip us).filter fun p => p.1 == i).map fun p => p.2))) 0)

/-- The ways a CONVOLVE may be planned (R221, R232). -/
def convWays (chain : Option Chain) : List Nat :=
  if chain.any Chain.usesOwn then [2] else if (epilogueOf chain).isEmpty then [0] else [0, 1]

/-- Cycles of a row tile of a drain operator (Table 8 of 04); the chain's on the same tiles beside them. How these operators
are divided the spec does not say: one unit for each row tile is the model's choice. Log entry 27. -/
def ConvDesc.drainCost (x : ConvDesc) (chain : Option Chain) (r : Nat) : Nat :=
  let lanes := cdiv x.chans 512
  let own :=
    if x.isPool then r * x.taps.length * lanes
    else if x.kind = Ck.upNearest ∨ x.kind = Ck.regroup then cdiv (r * fullRow (if x.yFmt = 0 then x.xFmt else x.yFmt) x.chans) 256
    else r * (if x.kind = Ck.gnStats then 3 else 4) * lanes
  own + if chain.isNone then 0 else ((columnTiles x.outChans).map fun c => drainCycles (epilogueOf chain) 0 0 r c.2).sum

/-- The units of a drain operator's item: row tiles of its output, of its input for GN_STATS. -/
def ConvDesc.drainUnits (x : ConvDesc) (chain : Option Chain) (pos : Nat) : List DealtUnit :=
  let e := if x.kind = Ck.gnStats then x.inExt else x.out
  ((ConvDesc.frames e).map fun s => ConvDesc.stripeTiles e x.outChans 1 s).flatten.map fun ts =>
    { pos := pos, tiles := ts, cyc := x.drainCost chain ((ts.head?.map fun t => t.rows.length).getD 0) }

/-- The plan of a CONV: mode and way with the fewest planned cycles (R99, R232), the units on their cores (R177). -/
def ConvDesc.plan (x : ConvDesc) (chain : Option Chain) (cores pos : List Nat) : ConvPlan :=
  let ways := convWays chain
  if x.isConv then
    let modes := if x.mode = 0 then [1, 2, 3, 4] else [x.mode]
    match fewest ((modes.map fun m => ways.map fun w => x.planIn chain cores pos m w).flatten) with
    | some p => p.1
    | none => { mode := x.mode, way := 0, deal := dealTo cores [] }
  else { mode := 0, way := ways.headD 0, deal := dealTo cores ((pos.map (x.drainUnits chain)).flatten) }

/-- What a CONV begins as: its statistics and the cores it occupies. -/
def ConvEnv.begun (v : ConvEnv) (c : Ctx) (k : Cmd) (hw : RunHw) (run : List ItemEntry) : Begun :=
  { k.begun with long := v.x.long, cores := v.deal.cores, unitMode := if v.x.isConv then v.mode else 5,
                 record := { k.record with
                   mode := v.mode, plan := v.way, cores := v.deal.used,
                   chainTag := (v.chain.map fun h => h.tag).getD 0,
                   shares := rowShares c (run.map fun e => (e.item, v.x.out.count)) },
                 hw := { hw with expSram := none } }

/-- A CONV planned once its list is read. -/
def State.convPlanned (s : State) (hw : RunHw) (c : Ctx) (k : Cmd) (x : ConvDesc) (chain : Option Chain) (raw : Bytes) :
    CoreRun :=
  let js := (List.range x.cnt).map fun i =>
    s.judgeEntry c x.xFmt (x.kind == Ck.gnStats) i (sliceBytes raw (32 * i) 32)
  let run := (js.filter JudgedEntry.runs).map fun j => j.e
  let p := x.plan chain (s.partCores c.partition) (run.map fun e => e.pos)
  let s1 := { s with free := s.free + x.cnt * x.freeUse }
  let v : ConvEnv := { x := x, chain := chain, mode := p.mode, way := p.way, deal := p.deal, free := s.free }
  { state := s1, begun := v.begun c k hw run, wait := false,
    items := js.map fun j => j.asItem (v.ins k.ctx j.e) (v.outs k.ctx j.e) (s1.convWork k.ctx v j.e), extra := [] }

/-- A CONV judged and planned (R151 to R193). -/
def State.convRun (hw : RunHw) (s : State) (c : Ctx) (k : Cmd) : Except Code CoreRun :=
  let x := parseConv k.desc
  match x.check (s.partCores c.partition).isEmpty (s.peekChain k.ctx x.chain) with
  | some code => .error code
  | none => do
    let chain ← s.readChain? k.ctx x.chain x.use
    let raw ← s.listOf k x.list (32 * x.cnt)
    .ok (s.convPlanned hw c k x chain raw)

/-- CONV begun. -/
def convBody (hw : RunHw) (s : State) (c : Ctx) (k : Cmd) : State := s.runCore c k (s.convRun hw c k)

/-- CONV descriptors of a kind; the reserved kinds, which are refused, go with CONVOLVE. -/
def isConvKind (kind : Nat) (d : Bytes) : Bool :=
  let n := (byteAt d 29).toNat
  isOpcode 2 d && (n == kind || (kind == Ck.convolve && decide (7 < n)))

/-- CONVOLVE (R168). -/
def execConvolve (ctx : Nat) (hw : RunHw) (s : State) : Host.Outcome State Fault Refusal :=
  done s (s.runCmd ctx (isConvKind Ck.convolve) (convBody hw))

/-- MAX_POOL (R179). -/
def execMaxPool (ctx : Nat) (hw : RunHw) (s : State) : Host.Outcome State Fault Refusal :=
  done s (s.runCmd ctx (isConvKind Ck.maxPool) (convBody hw))

/-- AVG_POOL (R180). -/
def execAvgPool (ctx : Nat) (hw : RunHw) (s : State) : Host.Outcome State Fault Refusal :=
  done s (s.runCmd ctx (isConvKind Ck.avgPool) (convBody hw))

/-- UP_NEAREST (R181). -/
def execUpNearest (ctx : Nat) (hw : RunHw) (s : State) : Host.Outcome State Fault Refusal :=
  done s (s.runCmd ctx (isConvKind Ck.upNearest) (convBody hw))

/-- UP_BILINEAR (R182). -/
def execUpBilinear (ctx : Nat) (hw : RunHw) (s : State) : Host.Outcome State Fault Refusal :=
  done s (s.runCmd ctx (isConvKind Ck.upBilinear) (convBody hw))

/-- REGROUP (R167). -/
def execRegroup (ctx : Nat) (hw : RunHw) (s : State) : Host.Outcome State Fault Refusal :=
  done s (s.runCmd ctx (isConvKind Ck.regroup) (convBody hw))

/-- GN_STATS (R186, R187). -/
def execGnStats (ctx : Nat) (hw : RunHw) (s : State) : Host.Outcome State Fault Refusal :=
  done s (s.runCmd ctx (isConvKind Ck.gnStats) (convBody hw))

/-- GN_APPLY (R188). -/
def execGnApply (ctx : Nat) (hw : RunHw) (s : State) : Host.Outcome State Fault Refusal :=
  done s (s.runCmd ctx (isConvKind Ck.gnApply) (convBody hw))

end Sys2Proof.Machine
end

