-- ==== Sys2Proof/Machine/StepTable.lean ====
section
/-! DEFINITION. The step table: STEP_ADD, STEP_RETIRE and STEP_BUILD (01, R20 to R25, R40; 09, R458 to R472, R760). -/
namespace Sys2Proof.Machine

open Sys2Proof

/-! ### The addresses of an entry (R460, R760) -/

/-- The addresses of an entry that R460 checks, apart from those its conditioning list holds: the latent's first byte,
every byte of the list, the adapter descriptor's first byte. A zero ADAPTER names none. -/
def stepAddrs (latent condAddr condCount adapter : Nat) : List Nat :=
  [latent] ++ ((List.range (8 * condCount)).map fun i => condAddr + i) ++ (if adapter = 0 then [] else [adapter])

/-- The addresses on a conditioning list, none when the list is not mapped. -/
def State.condList (s : State) (ctx condAddr condCount : Nat) : Option (List Nat) :=
  match s.vread ctx condAddr (8 * condCount) with
  | .error _ => none
  | .ok b => some ((List.range condCount).map fun i => leAt b (8 * i) 8)

/-- R460: everything an entry names is mapped in its owning context. -/
def State.stepMapped (s : State) (ctx latent condAddr condCount adapter : Nat) : Bool :=
  ((stepAddrs latent condAddr condCount adapter).all fun a => s.mapped ctx a 1) &&
    (s.condList ctx condAddr condCount).any fun l => l.all fun a => s.mapped ctx a 1

/-- An address at which two contexts' mappings name the same byte. -/
def State.sameByte (s : State) (c d a : Nat) : Bool :=
  match s.translate c a false, s.translate d a false with
  | .ok x, .ok y => x == y
  | _, _ => false

/-- An entry is mapped alike in its step context (R760). -/
def State.mappedAlike (s : State) (e : Entry) : Bool :=
  ((stepAddrs e.latent e.condAddr e.condCount e.adapter).all fun a => s.sameByte e.ctx e.stepCtx a) &&
    (s.condList e.ctx e.condAddr e.condCount).any fun l => l.all fun a => s.sameByte e.ctx e.stepCtx a

/-! ### STEP_ADD (R459 to R461) -/

/-- A STEP_ADD body. -/
structure StepBody where
  kind     : Nat
  shape    : Nat
  ctx      : Nat
  stepCtx  : Nat
  entry    : Nat
  model    : Word
  count    : Nat
  noise    : Word
  guidance : Word
  latent   : Nat
  condAddr : Nat
  adapter  : Nat
  conds    : Nat
  priority : Nat
  user     : Bytes
  deriving DecidableEq, Repr

/-- A body's bytes read as one (Table 15 of 09). -/
def parseStep (b : Bytes) : StepBody :=
  { kind := (byteAt b 1).toNat, shape := (byteAt b 2).toNat, ctx := leAt b 4 4, stepCtx := leAt b 8 4,
    entry := leAt b 12 4, model := BitVec.ofNat 32 (leAt b 16 4), count := leAt b 20 4,
    noise := BitVec.ofNat 32 (leAt b 24 4), guidance := BitVec.ofNat 32 (leAt b 28 4), latent := leAt b 32 8,
    condAddr := leAt b 40 8, adapter := leAt b 48 8, conds := leAt b 56 2, priority := leAt b 58 2,
    user := sliceBytes b 64 48 }

/-- What Table 15 asks of an add and of an update alike. -/
def StepBody.commonBad (x : StepBody) : Bool :=
  decide (7 < x.kind) || !ffinite x.noise || !ffinite x.guidance || x.adapter % 16 != 0 || x.priority == 0

/-- What Table 15 asks of an add. -/
def StepBody.addBad (x : StepBody) : Bool :=
  x.commonBad || decide (63 < x.shape) || x.entry != 0 || !decide (1 ≤ x.count ∧ x.count ≤ 65535) ||
    x.latent % 16 != 0 || decide (64 < x.conds) || x.condAddr % 8 != 0 || (x.conds == 0 && x.condAddr != 0)

/-- What R459 asks of an update. -/
def StepBody.updateBad (x : StepBody) : Bool :=
  x.commonBad || x.shape != 0 || x.stepCtx != 0 || x.model != 0 || x.count != 0 || x.latent != 0 || x.condAddr != 0 ||
    x.conds != 0

/-- A context that a STEP_ADD may name as CTX: it exists and is not DEAD, HALTED or CLOSING (R461). -/
def State.stepOwnerOk (s : State) (n : Nat) : Bool := (s.liveCtx? n).any fun c => c.state != .halted

/-- A context that an add may name as STEP_CTX (R461). -/
def State.stepCtxOk (s : State) (n : Nat) : Bool := (s.liveCtx? n).any fun c => c.step

/-- The entry of an index. -/
def State.entry? (s : State) (i : Nat) : Option Entry := s.entries.find? fun e => e.index == i

/-- The lowest-numbered free index of the 4,096. -/
def State.freeEntry (s : State) : Option Nat := (List.range 4096).find? fun i => (s.entry? i).isNone

/-- The entry an add makes; `born` is its ordinal. -/
def StepBody.newEntry (x : StepBody) (i born : Nat) : Entry :=
  { index := i, model := x.model, shape := x.shape, kind := x.kind, state := .active, last := 0, reason := 0,
    retireReq := false, noroom := 0, stepIndex := 0, stepCount := x.count, noise := x.noise, guidance := x.guidance,
    priority := x.priority, condCount := x.conds, latent := x.latent, condAddr := x.condAddr, adapter := x.adapter,
    ctx := x.ctx, stepCtx := x.stepCtx, user := x.user, list := 0, item := 0, buildSeq := 0, mark := false,
    itemFault := false, update := none, born := born }

/-- The code of an entry's STATE; 0 is a free place (Table 14 of 09). -/
def entryStateCode : EntryState → Nat
  | .active => 1
  | .finished => 2
  | .closing => 3

/-- The 128 bytes of an entry in firmware-owned memory (R458, Table 14 of 09). -/
def Entry.bytes (e : Entry) : Bytes :=
  leBytes 4 e.model.toNat ++ leBytes 1 e.shape ++ leBytes 1 e.kind ++ leBytes 1 (entryStateCode e.state) ++
    leBytes 1 e.last ++ leBytes 1 e.reason ++ leBytes 1 e.retireReq.toNat ++ leBytes 2 e.noroom ++
    leBytes 4 e.stepIndex ++ leBytes 4 e.stepCount ++ leBytes 4 e.noise.toNat ++ leBytes 4 e.guidance.toNat ++
    leBytes 2 e.priority ++ leBytes 2 e.condCount ++ leBytes 8 e.latent ++ leBytes 8 e.condAddr ++
    leBytes 8 e.adapter ++ leBytes 4 e.ctx ++ leBytes 4 e.stepCtx ++ sliceBytes e.user 0 48 ++ leBytes 1 e.list ++
    leBytes 1 e.item ++ zeros 2 ++ leBytes 4 e.buildSeq.toNat ++ zeros 8

/-- An entry put at its place in ascending order of index. -/
def State.addEntry (s : State) (e : Entry) : State :=
  { s.tick with entries := (s.entries.filter fun x => decide (x.index < e.index)) ++ [e] ++
      s.entries.filter fun x => decide (e.index < x.index) }

/-- STEP_ADD with OP 0 carried out, its checks in the order of R461. -/
def carryStepAdd (s : State) (m : Msg) : Carried :=
  let x := parseStep m.body
  if x.addBad ∨ !s.stepOwnerOk x.ctx ∨ !s.stepCtxOk x.stepCtx then refuse s Err.stepInvalid
  else if !s.stepMapped x.ctx x.latent x.condAddr x.conds x.adapter then refuse s Err.stepNotMapped
  else if !s.fits x.ctx 128 0 then refuse s Err.ctxAllotment
  else
    match s.freeEntry with
    | none => refuse s Err.stepTableFull
    | some i =>
      match (s.addEntry (x.newEntry i s.ord)).fitFw with
      | none => refuse s Err.stepTableFull
      | some t => accept t (leBytes 4 i)

/-- STEP_ADD with OP 0: a generation added (R459). -/
def execStepAdd (slot : SlotRef) (s : State) : Host.Outcome State Fault Refusal :=
  done s (s.takeRow slot .stepAdd carryStepAdd)

/-- An entry changed. -/
def State.updEntry (s : State) (i : Nat) (f : Entry → Entry) : State :=
  { s with entries := s.entries.map fun e => if e.index = i then f e else e }

/-- The fields an update sets. -/
def StepBody.update (x : StepBody) : EntryUpdate :=
  { kind := x.kind, noise := x.noise, guidance := x.guidance, priority := x.priority, adapter := x.adapter,
    user := x.user }

/-- The adapter of an update is mapped (R460). -/
def State.adapterMapped (s : State) (x : StepBody) : Bool := x.adapter == 0 || s.mapped x.ctx x.adapter 1

/-- STEP_ADD with OP 1 carried out: it waits in the entry for the next STEP_BUILD that considers it (R459). -/
def carryStepUpdate (s : State) (m : Msg) : Carried :=
  let x := parseStep m.body
  if x.updateBad ∨ !s.stepOwnerOk x.ctx then refuse s Err.stepInvalid
  else
    match (s.entry? x.entry).filter fun e => e.ctx == x.ctx && e.state == .active with
    | none => refuse s Err.stepInvalid
    | some e =>
      if !s.adapterMapped x then refuse s Err.stepNotMapped
      else accept (s.updEntry e.index fun y => { y with update := some x.update }) (leBytes 4 e.index)

/-- STEP_ADD with OP 1: an active entry updated (R459). -/
def execStepAddUpdate (slot : SlotRef) (s : State) : Host.Outcome State Fault Refusal :=
  done s (s.takeRow slot .stepUpdate carryStepUpdate)

/-! ### STEP_RETIRE (R462) -/

/-- Entries freed: their places are free, their sequences are bound no more (R267), and their bytes are given back
(R758). -/
def State.freeEntries (s : State) (l : List Nat) : State :=
  (({ s with entries := s.entries.filter fun e => !l.contains e.index } : State).unbind l).shrinkFw

/-- STEP_RETIRE carried out (R462). -/
def carryStepRetire (s : State) (m : Msg) : Carried :=
  match (s.entry? (leAt m.body 4 4)).filter fun e => e.ctx == leAt m.body 0 4 with
  | none => refuse s Err.stepInvalid
  | some e =>
    match e.state with
    | .finished => accept (s.freeEntries [e.index]) []
    | .active => accept (s.updEntry e.index fun y => { y with retireReq := true }) []
    | .closing => refuse s Err.stepInvalid

/-- STEP_RETIRE (R462). -/
def execStepRetire (slot : SlotRef) (s : State) : Host.Outcome State Fault Refusal :=
  done s (s.takeRow slot .stepRetire carryStepRetire)

/-! ### STEP_BUILD (R463 to R472) -/

/-- A STEP_BUILD descriptor. -/
structure BuildDesc where
  model  : Word
  shape  : Nat
  limit  : Nat
  lists  : Nat
  report : Nat
  deriving DecidableEq, Repr

/-- A descriptor's bytes read as one (Table 16 of 09). -/
def parseBuild (d : Bytes) : BuildDesc :=
  { model := BitVec.ofNat 32 (leAt d 16 4), shape := (byteAt d 20).toNat, limit := leAt d 22 2, lists := leAt d 24 8,
    report := leAt d 32 8 }

/-- Bytes of a work-list slot, and of the report (Table 16 of 09). -/
def listSlot : Nat := 32832
def reportBytes : Nat := 32 + 8 * 4096

/-- R471, the kind of the context apart. -/
def BuildDesc.bad (x : BuildDesc) (d : Bytes) : Bool :=
  decide (63 < x.shape) || byteAt d 21 != 0 || !decide (1 ≤ x.limit ∧ x.limit ≤ 256) || x.lists % 64 != 0 ||
    x.report % 8 != 0 || !zeroRange d 40 128

/-- The first byte of the two ranges that may not be written (R463). -/
def State.buildRange (s : State) (ctx : Nat) (x : BuildDesc) : Option (Code × Nat) :=
  match s.accessFault ctx x.lists (8 * listSlot) true with
  | some f => some f
  | none => s.accessFault ctx x.report reportBytes true

/-- The last sequence number of a context number (R472). -/
def State.lastSeq (s : State) (n : Nat) : Word :=
  match s.buildSeqs.find? fun p => p.1 == n with
  | some p => p.2
  | none => 0

/-- The sequence number after another: from 1, past 0xFFFF_FFFF back to 1 (R472). -/
def seqAfter (w : Word) : Word := if w = 0xFFFFFFFF then 1 else w + 1

/-- An entry that a STEP_BUILD takes up: its step context, model and shape, active or closing (R464). -/
def Entry.matches (e : Entry) (ctx : Nat) (x : BuildDesc) : Bool :=
  e.stepCtx == ctx && e.model == x.model && e.shape == x.shape && e.state != .finished

/-- An entry that advances: placed last time, its work list completed without a fault (R22, R25, R464). -/
def Entry.advances (e : Entry) : Bool := e.state == .active && e.last == 1 && !e.mark && !e.itemFault

/-- An entry advanced by one step, finished when it reaches its count (R23). -/
def Entry.advance (e : Entry) (seq : Word) : Entry :=
  if e.stepIndex + 1 = e.stepCount then { e with stepIndex := e.stepIndex + 1, state := .finished, buildSeq := seq }
  else { e with stepIndex := e.stepIndex + 1 }

/-- The first part of a build: entries advance and finish (R464). -/
def State.advanceAll (s : State) (ctx : Nat) (x : BuildDesc) (seq : Word) : State :=
  { s with entries := s.entries.map fun e => if e.matches ctx x && e.advances then e.advance seq else e }

/-- The entries that finish at a build, before it begins. -/
def State.finishing (s : State) (ctx : Nat) (x : BuildDesc) : List Entry :=
  s.entries.filter fun e => e.matches ctx x && e.advances && e.stepIndex + 1 == e.stepCount

/-- An entry with its pending update applied (R459). -/
def Entry.updated (e : Entry) : Entry :=
  match e.update with
  | none => e
  | some u =>
    { e with kind := u.kind, noise := u.noise, guidance := u.guidance, priority := u.priority, adapter := u.adapter,
             user := u.user, update := none }

/-- How an entry ends phase 2. -/
inductive Verdict where
  | retired
  | skipped (reason : Nat)
  | eligible
  deriving DecidableEq, Repr

/-- Reasons of Table 17 of 09. -/
def whyPaused : Nat := 1
def whyHalted : Nat := 2
def whyNoRoom : Nat := 3
def whyFaulted : Nat := 4
def whyNotShared : Nat := 5
def whyRetire : Nat := 6
def whyTornDown : Nat := 0x10

/-- Phase 2's judgement of one entry (R464). -/
def State.verdict (s : State) (e : Entry) : Verdict :=
  let owner := s.liveCtx? e.ctx
  if e.state = .closing ∨ owner.isNone then .retired
  else if e.retireReq then .skipped whyRetire
  else if owner.any fun c => c.state == .paused then .skipped whyPaused
  else if owner.any fun c => c.state == .halted then .skipped whyHalted
  else if e.mark then .skipped whyFaulted
  else if !s.mappedAlike e then .skipped whyNotShared
  else .eligible

/-- The key of R464. -/
def Entry.key (e : Entry) : Nat := e.priority + 1024 * e.noroom

/-- What a build decided. -/
structure Built where
  placed  : List Entry                -- in order of item number
  skipped : List (Entry × Nat)        -- with the reason
  retired : List Entry
  deriving DecidableEq, Repr

/-- Phase 2 over the considered entries (R464). -/
def State.judgeBuild (s : State) (x : BuildDesc) (considered : List Entry) : Built :=
  let js := considered.map fun e => (e, s.verdict e)
  let order := ((js.filter fun j => j.2 == .eligible).map fun j => j.1).insertionSort fun (a b : Entry) =>
    b.key < a.key ∨ (a.key = b.key ∧ a.index ≤ b.index)
  { placed := order.take x.limit,
    skipped := (js.filterMap fun j => match j.2 with
      | .skipped r => some (j.1, r)
      | _ => none) ++ (order.drop x.limit).map fun e => (e, whyNoRoom),
    retired := (js.filter fun j => j.2 == .retired).map fun j => j.1 }

/-- An entry placed as an item. -/
def Entry.place (e : Entry) (seq : Word) (item : Nat) : Entry :=
  { e with last := 1, noroom := 0, list := e.kind, item := item, buildSeq := seq, mark := false, itemFault := false }

/-- An entry skipped with a reason. -/
def Entry.skip (e : Entry) (seq : Word) (reason : Nat) : Entry :=
  { e with last := 2, reason := reason, buildSeq := seq,
           noroom := if reason = whyNoRoom then min 65535 (e.noroom + 1) else e.noroom,
           mark := e.mark && reason != whyFaulted }

/-- An entry as a build leaves it. -/
def Built.entryAfter (r : Built) (seq : Word) (e : Entry) : Entry :=
  match r.placed.findIdx? fun p => p.index == e.index with
  | some i => e.place seq i
  | none =>
    match r.skipped.find? fun p => p.1.index == e.index with
    | some p => e.skip seq p.2
    | none => e

/-- The entries a build frees. -/
def Built.freed (r : Built) : List Nat :=
  (r.retired.map fun e => e.index) ++ (r.skipped.filter fun p => p.2 == whyRetire).map fun p => p.1.index

/-- The header of a work-list slot (R468). -/
def BuildDesc.listHeader (x : BuildDesc) (seq : Word) (kind count : Nat) : Bytes :=
  leBytes 2 count ++ leBytes 1 kind ++ leBytes 1 kind ++ leBytes 4 x.model.toNat ++ leBytes 1 x.shape ++ zeros 3 ++
    leBytes 4 seq.toNat ++ zeros 48

/-- An item of a work list (R469). -/
def Entry.itemBytes (e : Entry) (item : Nat) : Bytes :=
  leBytes 4 e.index ++ leBytes 4 e.ctx ++ leBytes 4 e.stepIndex ++ leBytes 4 e.stepCount ++ leBytes 4 e.noise.toNat ++
    leBytes 4 e.guidance.toNat ++ leBytes 8 e.latent ++ leBytes 8 e.condAddr ++ leBytes 8 e.adapter ++
    leBytes 2 e.condCount ++ leBytes 2 e.priority ++ leBytes 1 e.kind ++ leBytes 1 item ++ zeros 10 ++
    sliceBytes e.user 0 48 ++ zeros 16

/-- Work list `k` with its items in ascending item number (R468). -/
def Built.listBytes (r : Built) (x : BuildDesc) (seq : Word) (k : Nat) : Bytes :=
  let items := ((r.placed.mapIdx fun i e => (e, i)).filter fun p => p.1.kind == k)
  x.listHeader seq k items.length ++ (items.map fun p => p.1.itemBytes p.2).flatten

/-- The records of the entries not placed, in ascending order of index (R470). -/
def Built.records (r : Built) : List (Nat × Nat × Nat) :=
  ((r.skipped.map fun (p : Entry × Nat) => (p.1.index, 2, p.2)) ++
    r.retired.map fun (e : Entry) => (e.index, 3, whyTornDown)).insertionSort fun a b => a.1 ≤ b.1

/-- The report (R470). -/
def Built.report (r : Built) (seq : Word) (finished : Nat) : Bytes :=
  leBytes 4 seq.toNat ++ leBytes 4 (r.placed.length + r.skipped.length + r.retired.length) ++ leBytes 4 r.placed.length ++
    leBytes 4 r.skipped.length ++ leBytes 4 r.retired.length ++ leBytes 4 finished ++ zeros 8 ++
    (r.records.map fun p => leBytes 4 p.1 ++ leBytes 1 p.2.1 ++ leBytes 1 p.2.2 ++ zeros 2).flatten

/-- What a build writes. -/
def Built.writes (r : Built) (x : BuildDesc) (seq : Word) (finished : Nat) : List (Nat × Bytes) :=
  ((List.range 8).map fun k => (x.lists + listSlot * k, r.listBytes x seq k)) ++ [(x.report, r.report seq finished)]

/-- The items of a build (R466). -/
def Built.items (r : Built) : List BuildItem :=
  r.placed.mapIdx fun i e => { item := i, entry := e.index, ctx := e.ctx, born := e.born }

/-- A build carried out on the step table: sequence number, advance, finish, phase 1 and phase 2 (R464). -/
def State.build (s : State) (ctx : Nat) (x : BuildDesc) : State × Built × Word × Nat :=
  let seq := seqAfter (s.lastSeq ctx)
  let fin := s.finishing ctx x
  let s1 := s.advanceAll ctx x seq
  let s2 := (s1.unbind (fin.map fun e => e.index)).freeEntries ((fin.filter fun e => e.retireReq).map fun e => e.index)
  let considered := s2.entries.filter fun e => e.matches ctx x
  let s3 := s2.swapBound (considered.map fun e => e.index)
  let s4 := { s3 with entries := s3.entries.map fun (e : Entry) => if e.matches ctx x then e.updated else e,
                      buildSeqs := (ctx, seq) :: s3.buildSeqs.filter fun p => p.1 != ctx }
  let r := s4.judgeBuild x (s4.entries.filter fun e => e.matches ctx x)
  let s5 := { s4 with entries := s4.entries.map (r.entryAfter seq) }
  (s5.freeEntries r.freed, r, seq, fin.length)

/-- STEP_BUILD begun (R463, R471). -/
def stepBuildBody (s : State) (c : Ctx) (k : Cmd) : State :=
  let x := parseBuild k.desc
  if !c.step || x.bad k.desc then s.invalid k Err.stepBuildInvalid
  else
    match s.buildRange k.ctx x with
    | some f => s.invalid k f.1
    | none =>
      let r := s.build k.ctx x
      let ws := r.2.1.writes x r.2.2.1 r.2.2.2
      let outs := (ws.map fun w => (r.1.physRuns k.ctx (w.2.length / smallPage + 2) w.1 w.2.length).map fun q =>
        ({ owner := k.ctx, addr := q.1, length := q.2 } : OutRun)).flatten
      let t := (ws.foldl (fun u w => u.vstore k.ctx w.1 w.2) r.1).updCtx k.ctx fun y => { y with build := some r.2.1.items }
      t.beginBegun k { k.begun with outs := outs }

/-- STEP_BUILD: the entries of a model and shape gathered into work lists (R464). -/
def execStepBuild (ctx : Nat) (s : State) : Host.Outcome State Fault Refusal :=
  done s (s.runCmd ctx (isOpcode 10) stepBuildBody)

end Sys2Proof.Machine
end

