-- ==== Sys2Proof/Machine/Messages.lean ====
section
/-! DEFINITION. Scan rounds, the release of held messages, and the watchdog (10, R483, R484, R492, R493, R496). -/
namespace Sys2Proof.Machine

open Sys2Proof

/-- How a message of each form is carried out. -/
def carryOf (f : Form) : State → Msg → Carried :=
  match f with
  | .claim => carryClaim
  | .handover => carryHandover
  | .handoverResign => carryResign
  | .accept => carryAccept
  | .portThaw => carryPortThaw
  | .dmaOpen => carryDmaOpen
  | .dmaClose => carryDmaClose
  | .queryCaps => carryQueryCaps
  | .listSet => carryListSet
  | .listExtend => carryListExtend
  | .partitionSet => carryPartitionSet
  | .ctxCreate => carryCtxCreate
  | .ctxGrant => carryCtxGrant
  | .ctxRevoke => carryCtxRevoke
  | .ctxDestroy => carryCtxDestroy
  | .stepAdd => carryStepAdd
  | .stepUpdate => carryStepUpdate
  | .stepRetire => carryStepRetire
  | .ptCreate => carryPtCreate
  | .ptEdit => carryPtEdit
  | .ptDestroy => carryPtDestroy
  | .mapAllocate => carryMapAllocate
  | .mapShare => carryMapShare
  | .memUnmap => carryMemUnmap
  | .repairQuery => carryRepairQuery
  | .repairApply => carryRepairApply
  | .loopback => carryLoopback
  | .fabGlobal => carryFabGlobal
  | .fabPort => carryFabPort
  | .fabSubport => carryFabSubport
  | .addAnchor => carryAddAnchor
  | .removeAnchor => carryRemoveAnchor
  | .setOwnChain => carrySetOwnChain
  | .addPeer => carryAddPeer
  | .removePeer => carryRemovePeer
  | .rekey => carryRekey
  | .peerThaw => carryPeerThaw
  | .powerPolicy => carryPowerPolicy
  | .fwStage => carryFwStage
  | .fwTry => carryFwTry
  | .fwConfirm => carryFwConfirm
  | .fwRaise => carryFwRaise
  | .attestReport => carryAttestReport
  | .attestChain => carryAttestChain
  | .journalCompact => carryJournalCompact
  | .serviceEnter => carryServiceEnter
  | .serviceLeave => carryServiceLeave

/-- The mailboxes of a port in the order of a round: the management mailbox, then contexts in ascending number (R492). -/
def Port.boxOrder (q : Port) : List (Option Nat) :=
  none :: ((q.boxes.map fun b => b.1).insertionSort fun a b => a ≤ b).map some

/-- The lowest-numbered sealed slot of one mailbox taken, when its port is scanned (R492, R493). -/
def State.scanBox (s : State) (p : Nat) (box : Option Nat) : State :=
  if !s.scans p then s
  else
    match ((s.port p).box? box).bind lowestSealed with
    | none => s
    | some i => s.takeSlot { port := p, box := box, slot := i } carryOf

/-- One port of a round. -/
def State.scanPort (s : State) (p : Nat) : State := (s.port p).boxOrder.foldl (fun t b => t.scanBox p b) s

/-- A round: the heartbeat rises once, and the ports are visited in the order H0 to H3 (R484, R492). -/
def State.scanRound (s : State) : State :=
  (List.range 4).foldl State.scanPort { s with ccx := { s.ccx with heartbeat := s.ccx.heartbeat + 1 } }

/-- A corrected error of the control complex SRAM is counted and changes nothing else (R483). -/
def State.ccxCorrected (s : State) : State := { s with ccx := { s.ccx with eccCorr := s.ccx.eccCorr + 1 } }

/-- A scan round; `sram` is what the control complex met in its SRAM during it: an uncorrectable error halts it, a
corrected one is counted (R483). -/
def execScanRound (sram : EccResult) (s : State) : Host.Outcome State Fault Refusal :=
  done s
    (if !s.running then s
      else
        match sram with
        | .uncorrectable => s.haltCcx Err.ccxSramUncorrectable
        | .corrected => s.ccxCorrected.scanRound
        | .clean => s.scanRound)

/-- The messages before a held one that may hold it back: those that wait, and the held ones taken before it (R496). -/
def holdersBefore (l : List Msg) (m : Msg) : List Msg :=
  (l.filter fun x => x.state == .waiting) ++ (l.takeWhile fun x => x.seq != m.seq).filter fun x => x.state == .held

/-- The first held message that nothing holds back any more. -/
def State.releasable (s : State) : Option Msg :=
  s.ccx.msgs.find? fun m => m.state == .held && !s.mustHold m (holdersBefore s.ccx.msgs m)

/-- HELD_MESSAGE_RELEASE: a held message begins (R494, R496). -/
def State.releaseHeldMsg (s : State) : State :=
  match s.releasable with
  | none => s
  | some m =>
    let s1 := { s with ccx := { s.ccx with msgs := s.ccx.msgs.filter fun x => x.seq != m.seq } }
    s1.begin m carryOf

/-- HELD_MESSAGE_RELEASE (R496). -/
def execHeldMessageRelease (s : State) : Host.Outcome State Fault Refusal :=
  done s (if s.running then s.releaseHeldMsg else s)

/-- 100 ms without a heartbeat halt the control complex (R484). -/
def execCcxWatchdog (s : State) : Host.Outcome State Fault Refusal :=
  done s (if s.phase = .ready then s.haltCcx Err.ccxWatchdog else s)

end Sys2Proof.Machine
end

