-- ==== Sys2Proof/Machine/MoverWork.lean ====
section
/-! DEFINITION. The dealing of chunks to the movers: the saves and restores of pre-empted cores first, then the MOVEs, the
ZERO fills and the page copies in turn (05, R228; 08, R361, R385, R402; 09, R437, R440). -/
namespace Sys2Proof.Machine

open Sys2Proof

/-! ### Work of the firmware's -/

/-- A PUSH of the context's core command is not yet acknowledged (R228). -/
def State.pushesOut (s : State) (n : Nat) : Bool :=
  match (s.ctx? n).bind Ctx.coreCmd? with
  | none => false
  | some b => s.fab.peers.any fun p => p.reqs.any fun r => r.ctx == n && r.index == b.index && !r.acked

/-- Save and restore chunks go before all others (R385). -/
def FwWork.urgent : FwWork → Bool
  | .save _ => true
  | .restore _ => true
  | _ => false

/-- A piece of work has a chunk to deal; the last chunk of a save waits for the pushes of its command (R228). -/
def State.fwReady (s : State) (w : FwJob) : Bool :=
  decide (w.next < w.total) && match w.work with
    | .save n => !(w.next + 1 == w.total && s.pushesOut n)
    | _ => true

/-- The physical place of a chunk in pages of one size. -/
def chunkPlace (pages : List Nat) (psize c : Nat) : Nat :=
  pages.getD (c * chunkBytes / psize) 0 + c * chunkBytes % psize

/-- One chunk carried out: a fill reaches only the pages that its mapping still holds. -/
def State.fwChunk (s : State) (w : FwJob) : State :=
  match w.work with
  | .fill id pages psize _ _ =>
    let page := pages.getD (w.next * chunkBytes / psize) 0
    if s.maps.any fun m => m.id == id && m.pages.contains page then
      { s with wr := .zero (chunkPlace pages psize w.next) chunkBytes :: s.wr }
    else s
  | .copy old new =>
    s.storeBytes (new + w.next * chunkBytes) (s.loadBytes (old + w.next * chunkBytes) chunkBytes)
  | .save n =>
    match s.ctx? n with
    | none => s
    | some c => s.smudge (chunkPlace c.savePages bigPage w.next)
  | .restore _ => s

/-- What the end of a piece of work brings: the reply of a MEM_MAP (R361), a complete copy (R402), the cores of a saved
command freed (R93, R437), a restored command that continues (R440). -/
def State.fwEnd (s : State) : FwWork → State
  | .fill _ _ _ seq reply => s.replyWaiting seq Err.success (replyBody reply)
  | .copy old _ =>
    { s with pageMoves := s.pageMoves.map fun p => if p.old = old then { p with copied := true } else p }
  | .save n => (s.releaseCores n).settle
  | .restore n =>
    (s.updCtx n fun x =>
      { x with begun := x.begun.map fun b => if b.core && !b.waiting then { b with preempted := false } else b }).settle

/-- A chunk of the firmware's work dealt. -/
def State.dealFw (s : State) (j : Job) (w : FwJob) : State :=
  let s1 := s.fwChunk w
  if w.next + 1 < w.total then
    { s1 with jobs := s1.jobs.map fun x => if x.id = j.id then { x with fw := some { w with next := w.next + 1 } } else x }
  else ({ s1 with jobs := s1.jobs.filter fun x => x.id != j.id }).fwEnd w.work

/-! ### Turns of the waiting work (R385) -/

/-- What a job has for a mover: a piece of the firmware's work, or a chunk of a segment and whether it was held. -/
inductive MoverTask where
  | fw (w : FwJob)
  | chunk (g : MoveSeg) (c : Nat) (wasHeld : Bool)
  deriving DecidableEq, Repr

/-- What a job has to deal. -/
def State.taskOf (s : State) (j : Job) : Option MoverTask :=
  match j.fw with
  | some w => if s.fwReady w then some (.fw w) else none
  | none => (s.nextOfJob j).map fun r => .chunk r.1 r.2.1 r.2.2

/-- The work of a save or a restore. -/
def Job.urgent (j : Job) : Bool := j.fw.any fun w => w.work.urgent

/-- What the next free mover takes: of the saves and restores first, else of the job whose turn it is (R385). -/
def State.nextTask (s : State) : Option (Job × MoverTask) :=
  ((s.jobs.filter Job.urgent) ++ s.jobs.filter fun j => !j.urgent).findSome? fun j => (s.taskOf j).map fun t => (j, t)

/-- One task dealt to a mover; the job served goes last (R385). A chunk dealt toward a closing window faults (R555). -/
def State.deal (s : State) (m : Nat) : State :=
  match s.nextTask with
  | none => s
  | some (j, t) =>
    let s1 : State := { s with jobs := s.jobs.filter (fun x => x.id != j.id) ++ [j] }
    match t with
    | .fw w => s1.dealFw j w
    | .chunk g c wasHeld =>
      let s2 :=
        if wasHeld then
          { s1 with held := s1.held.filter fun h => !(h.job == j.id && h.seg == g.index && h.chunk == c) }
        else s1.updSeg j.id g.index fun x => { x with next := x.next + 1 }
      match s.windowClosing j.kind g with
      | some a => if wasHeld then s2.performChunk j g c m else s2.stopSeg j g m Err.moveWindowInvalid a
      | none => s2.performChunk j g c m

/-! ### What the reads of a chunk meet (R368, R371, R398, R401) -/

/-- The physical runs a task reads, and those it writes. -/
def State.taskRuns (s : State) (j : Job) : MoverTask → List (Nat × Nat) × List (Nat × Nat)
  | .fw w =>
    match w.work with
    | .copy old new => ([(old + w.next * chunkBytes, chunkBytes)], [(new + w.next * chunkBytes, chunkBytes)])
    | .restore n =>
      ((s.ctx? n).elim [] fun c => [(chunkPlace c.savePages bigPage w.next, chunkBytes)], [])
    | _ => ([], [])
  | .chunk g c _ =>
    let runs (base : Nat) (l : List (Nat × Nat)) : List (Nat × Nat) :=
      if maHost base then []
      else (l.map fun r => s.physRuns j.ctx (r.2 / smallPage + 2) (base + r.1) r.2).flatten
    (if j.kind = .fill then [] else runs g.src (g.reads j.kind j.esize c), runs g.dst (g.writes j.kind j.esize c))

/-- What the codes of memory showed to the reads of a task: the values of an uncorrectable granule are not stated, so what was
made from it is unspecified. Log entry 38. -/
def State.taskHits (s : State) (task : Option (List (Nat × Nat) × List (Nat × Nat))) (reads : List MemHit) : State :=
  match task with
  | none => s
  | some (src, dst) => s.hitsIn src (dst.map fun r => { owner := 0, addr := r.1, length := r.2 }) reads

/-- MOVER_CHUNK: a free mover takes the next chunk (R385); at duty 0 it issues nothing (R672). -/
def execMoverChunk (turn : MoverTurn) (s : State) : Host.Outcome State Fault Refusal :=
  done s (if s.phase ≠ .ready ∨ s.heat.dp = 0 ∨ s.moverBusy turn.mover then s
    else (s.deal turn.mover).taskHits (s.nextTask.map fun p => s.taskRuns p.1 p.2) turn.reads)

end Sys2Proof.Machine
end

