-- ==== Sys2Proof/Machine/Registers.lean ====
section
/-! DEFINITION. What a host reads at each offset of BAR0 (11, Table 3), the registers of the platform page (14, Table 9;
15, R720; 16, R729), the latching of 64-bit counters (R613, R685), and register writes with no row of their own. -/
namespace Sys2Proof.Machine

open Sys2Proof

/-! ### The platform page (R685, R720, R729) -/

/-- BOARD_W is too low for the module (Table 10 of 14). -/
def Plt.boardLow (p : Plt) : Bool := decide (p.boardW < p.idleW + 50)

/-- PLT_POWER_STATUS (Table 10 of 14). -/
def State.powerStatus (s : State) : Nat :=
  packFields [(s.heat.dp, 7), (0, 8), (bit s.plt.boardLow, 1), (s.plt.classLimit, 3), (s.plt.capInForce, 13)]

/-- Present cores of a field (Table 2 of 00). -/
def State.fieldCores (s : State) (f : Nat) : List Nat :=
  ((List.range 32).map fun i => 32 * f + i).filter fun n => (s.cores.getD n (Core.reset false)).present

/-- The hottest core of a list, the lowest number winning ties. Log entry 25. -/
def Heat.hottest (h : Heat) : List Nat → Option Nat
  | [] => none
  | n :: ns =>
    match h.hottest ns with
    | none => some n
    | some m => if h.coreTemp.getD m 0 > h.coreTemp.getD n 0 then some m else some n

/-- SENSOR_FAIL of a field: a core or field sensor of it has failed (R677), or the coolant reading has (R751). -/
def Heat.sensorFail (h : Heat) (f : Nat) : Bool := h.coolantFailed || h.dfFailed.contains f || h.djFailed.any fun n => n / 32 == f

/-- PLT_FIELD_THERMAL (Table 11 of 14); a field that does not exist reads 0. -/
def State.fieldThermal (s : State) (f : Nat) : Nat :=
  if f ≥ s.part.fields then 0
  else
    let cs := s.fieldCores f
    let hot := s.heat.hottest cs
    packFields [(hot.elim 0 fun n => s.heat.coreTemp.getD n 0, 8), (hot.elim 0 fun n => n % 32, 7),
      (cs.foldl (fun d n => min d (s.heat.dj.getD n 64)) 64, 7), (s.heat.fieldDuty f, 7),
      (bit (s.heat.hotFields.contains f), 1), (bit (s.heat.sensorFail f), 1), (1, 1)]

/-- A context's energy counter in millijoules (R681, R683). -/
def Plt.ctxMj (p : Plt) (c : Nat) : Nat := ((p.ctxUj.find? fun x => x.1 == c).elim 0 fun x => x.2) / 1000

/-- PLT_INPUT_ENERGY in millijoules (R679). -/
def Plt.inputMj (p : Plt) : Nat := p.inputUj / 1000

/-- The counters of contexts not yet destroyed, summed (R681). -/
def Plt.liveMj (p : Plt) : Nat :=
  ((p.ctxUj.filter fun x => !p.destroyed.contains x.1).map fun x => x.2 / 1000).sum

/-- PLT_UNATTRIBUTED: the input energy less the counters of contexts not yet destroyed (R681). -/
def Plt.bucketMj (p : Plt) : Nat := p.inputMj - p.liveMj

/-- PLT_BIST_SUMMARY (Table 3 of 16). -/
def Plt.bistSummary (p : Plt) : Nat :=
  packFields [(p.coresFailed, 8), (p.quadsFailed, 8), (p.sitesFailed.toNat, 8), (0, 6), (bit p.noBase, 1),
    (bit p.bistDone, 1)]

/-- A 32-bit register of the platform page. -/
def State.platformReg (s : State) (o : Nat) : Nat :=
  match o with
  | 0x000 => s.powerStatus
  | 0x004 => s.plt.idleW
  | 0x008 => s.plt.energySeq.toNat
  | 0x020 => s.plt.exceeded.toNat
  | 0x024 => s.plt.hours
  | 0x040 => s.fieldThermal 0
  | 0x044 => s.fieldThermal 1
  | 0x048 => s.fieldThermal 2
  | 0x04C => s.fieldThermal 3
  | 0x080 => s.store.statusWord
  | 0x090 => s.store.slotsWord
  | 0x0A0 => s.plt.bistSummary
  | 0x0A4 => s.plt.pkgsFailed.toNat
  | 0x0A8 => s.plt.fabsFailed.toNat
  | _ => 0

/-! ### 64-bit counters (R613, R683, R685) -/

/-- Whether an offset is the low word of a 64-bit register that latches. -/
def isCounter (off : Nat) : Bool :=
  off % 8 == 0 &&
    ((decide (0x108000 ≤ off) && decide (off < 0x114000) && decide (8 ≤ off % 256) && decide (off % 256 < 0xE0)) ||
      (decide (0x11C000 ≤ off) && decide (off < 0x11E000)) || [0x11E010, 0x11E018, 0x11E088].contains off)

/-- The value of a 64-bit register by the offset of its low word, as a port sees it. -/
def State.counterValue (s : State) (p off : Nat) : Nat :=
  if off < 0x114000 then (if s.hasFabric then s.counterAt ((off - 0x108000) / 256) (off % 256) else 0)
  else if off < 0x11E000 then
    let c := (off - 0x11C000) / 8
    if s.own.owner = some p ∨ s.holds p c = true then s.plt.ctxMj c else 0
  else
    match off with
    | 0x11E010 => s.plt.inputMj
    | 0x11E018 => s.plt.bucketMj
    | _ => s.store.lastSeq

/-- The high word a port's next read of a 64-bit register returns: the latched one where a low read latched it. -/
def State.highWord (s : State) (p off : Nat) : Word :=
  match (s.port p).latches.find? fun x => x.1 == off with
  | some x => x.2
  | none => BitVec.ofNat 32 (s.counterValue p off / 2 ^ 32)

/-! ### Reads of BAR0 (Table 3 of 11) -/

/-- A word of the capability page; after a start that halted only CAP_VERSION and PART are not zero (R520, R725). -/
def State.capsWord (s : State) (o : Nat) : Nat :=
  if s.phase = .startHalted then (if o = 0 then 1 else if o = 4 then s.part.code else 0) else leAt s.capsHead o 4

/-- A word of the port register page (Table 4 of 11). -/
def State.portReg (s : State) (p o : Nat) : Word :=
  let q := s.port p
  if 0x100 ≤ o ∧ o < 0x200 then
    let g := s.seg p ((o - 0x100) / 16)
    match o % 16 with
    | 0 => g.baseLo
    | 4 => g.baseHi
    | 8 => regWord [(g.ctx.toNat, 10), (0, 19), (bit g.refused, 1), (bit g.write, 1), (bit g.valid, 1)]
    | _ => 0
  else
    match o with
    | 0x000 => s.portStatus p
    | 0x004 => s.hpcFreeze p
    | 0x008 => q.freezeAddr.truncate 32
    | 0x00C => (q.freezeAddr >>> 32).truncate 32
    | 0x010 => q.events.zeroExtend 32
    | 0x014 => q.eventEn
    | 0x018 => q.discards
    | _ => 0

/-- A word of the unit status region. -/
def State.unitStatus (s : State) (p off : Nat) : Word :=
  let o := off - 0x100000
  if o < 0x200 then (s.cores.getD (o / 4) (Core.reset false)).info
  else if o < 0x280 then s.expInfo ((o - 0x200) / 4)
  else if o = 0x300 then s.ccxStatus
  else if o = 0x304 then s.stale
  else if o = 0x308 then s.dbgStatus
  else if 0x400 ≤ o ∧ o < 0x410 then
    (if (s.port ((o - 0x400) / 4)).present then s.portStatus ((o - 0x400) / 4) else 0)
  else if isCounter off then BitVec.ofNat 32 (s.counterValue p off)
  else if isCounter (off - 4) then s.highWord p (off - 4)
  else if 0x11E000 ≤ off then BitVec.ofNat 32 (s.platformReg (off - 0x11E000))
  else if !s.hasFabric then 0
  else if 0x500 ≤ o ∧ o < 0x560 then BitVec.ofNat 32 (s.fabPortStatus ((o - 0x500) / 4))
  else if o = 0x560 then s.fab.macBase.truncate 32
  else if o = 0x564 then (s.fab.macBase >>> 32).truncate 32
  else if 0x6000 ≤ o ∧ o < 0x6300 then BitVec.ofNat 32 (s.prbsLane ((o - 0x6000) / 4))
  else if 0x8000 ≤ o ∧ o < 0x14000 ∧ o % 256 = 0 then BitVec.ofNat 32 (s.subportStatus ((o - 0x8000) / 256))
  else 0

/-- A word of the pending bit array. -/
def Port.pbaWord (q : Port) (i : Nat) : Nat :=
  ((List.range 32).map fun b => if q.pba.contains (32 * i + b) then 2 ^ b else 0).sum

/-- A word of the MSI-X table. -/
def Port.msixWord (q : Port) (i : Nat) : Word :=
  let e := q.msixEntry (i / 4)
  match i % 4 with
  | 0 => e.addrLo
  | 1 => e.addrHi
  | 2 => e.data
  | _ => e.control

/-- A word of a mailbox slot as a port's window shows it: zero where the port holds no such mailbox (R538). -/
def State.slotWord (s : State) (p off : Nat) : Nat :=
  match slotAt p off with
  | none => 0
  | some (r, o) => (s.slot? r).elim 0 fun b => leAt b o 4

/-- The word a host reads at an aligned offset of a port's BAR0 (Table 3 of 11, R537, R538, R655, R762). In recovery the
window is Table 7 of 17. -/
def State.readReg (s : State) (p off : Nat) : Word :=
  if s.recovers p then (if off = 0 then s.rcv.control else if off = 4 then s.rcv.status else 0)
  else if off < 0x1000 then BitVec.ofNat 32 (s.capsWord off)
  else if off < 0x2000 then s.portReg p (off - 0x1000)
  else if 0x4000 ≤ off ∧ off < 0x4100 then BitVec.ofNat 32 ((s.port p).pbaWord ((off - 0x4000) / 4))
  else if 0x8000 ≤ off ∧ off < 0x10000 then (s.port p).msixWord ((off - 0x8000) / 4)
  else if 0x100000 ≤ off ∧ off < 0x120000 then s.unitStatus p off
  else if 0x120000 ≤ off ∧ off < 0x140000 then
    match (s.ctx? ((off - 0x120000) / 128)).filter fun c => c.granted p with
    | some c => BitVec.ofNat 32 (leAt (s.statusRecord c) (off % 128) 4)
    | none => 0
  else if 0x140000 ≤ off ∧ off < 0x150000 then
    let d := (off - 0x140000) / 16
    if !s.hasFabric ∨ s.fab.glob.device = some d then 0
    else BitVec.ofNat 32 (leAt (s.peerEntry d) (off % 16) 4)
  else if s.hasFabric ∧ 0xD80000 ≤ off ∧ off < 0xD80000 + 4 * 24 then (s.fport ((off - 0xD80000) / 4)).prbs
  else BitVec.ofNat 32 (s.slotWord p off)

/-- Whether a port's register reads are served: its link is up, and the module is ready or its start has halted (R536,
R573, R725). -/
def State.servesReads (s : State) (p : Nat) : Bool :=
  s.hostsServed && (s.port p).reaches

/-- A port's high-word latch set. -/
def Port.latch (q : Port) (off : Nat) (w : Word) : Port :=
  { q with latches := (off, w) :: q.latches.filter fun x => x.1 != off }

/-- The low word of a 64-bit register read: its high word is latched for the port (R613, R685). -/
def State.counterLowRead (s : State) (p off : Nat) : State :=
  if !s.servesReads p ∨ !isCounter off then s
  else
    let v := s.counterValue p off
    (s.updPort p fun q => q.latch off (BitVec.ofNat 32 (v / 2 ^ 32))).emit (.readData p (leBytes 4 v))

/-- COUNTER_LOW_READ (R613). -/
def execCounterLowRead (port : Nat) (offset : Nat) (s : State) : Host.Outcome State Fault Refusal :=
  done s (s.counterLowRead port offset)

/-- REGISTER_WRITE: a host write to BAR0 (R537), or without a port a write of a sideband register (R749). -/
def execRegisterWrite (port : Option Nat) (offset : Nat) (bytes : Bytes) (s : State) :
    Host.Outcome State Fault Refusal :=
  done s (match port with
    | some p => s.hostWrite p offset bytes
    | none => s.sidebandWrite offset bytes)

end Sys2Proof.Machine
end

