-- ==== Sys2Proof/Machine/Dispatch.lean ====
section
/-! DEFINITION. The meaning of each command: one arm per constructor of `Instr`. -/
namespace Sys2Proof.Machine

open Sys2Proof

/-- The effect of a command on everything but the queue. -/
def exec (i : Instr) (s : State) : Host.Outcome State Fault Refusal :=
  match i with
  | .fundamentalReset lowUs => Sys2Proof.Machine.execFundamentalReset lowUs s
  | .hotswapOpen cause => Sys2Proof.Machine.execHotswapOpen cause s
  | .hotswapClose millivolts wasBelow10V => Sys2Proof.Machine.execHotswapClose millivolts wasBelow10V s
  | .moduleStart inp => Sys2Proof.Machine.execModuleStart inp s
  | .recoveryGo value => Sys2Proof.Machine.execRecoveryGo value s
  | .recoveryDone => Sys2Proof.Machine.execRecoveryDone s
  | .pcieConfigRequestRetry port => Sys2Proof.Machine.execPcieConfigRequestRetry port s
  | .portLinkDown port => Sys2Proof.Machine.execPortLinkDown port s
  | .portHotReset port how link => Sys2Proof.Machine.execPortHotReset port how link s
  | .slotSeal slot word => Sys2Proof.Machine.execSlotSeal slot word s
  | .scanRound sram => Sys2Proof.Machine.execScanRound sram s
  | .heldMessageRelease => Sys2Proof.Machine.execHeldMessageRelease s
  | .ccxWatchdog => Sys2Proof.Machine.execCcxWatchdog s
  | .claim slot => Sys2Proof.Machine.execClaim slot s
  | .electionClose => Sys2Proof.Machine.execElectionClose s
  | .handover slot => Sys2Proof.Machine.execHandover slot s
  | .handoverResign slot => Sys2Proof.Machine.execHandoverResign slot s
  | .accept slot => Sys2Proof.Machine.execAccept slot s
  | .handoverOfferExpire => Sys2Proof.Machine.execHandoverOfferExpire s
  | .portThaw slot => Sys2Proof.Machine.execPortThaw slot s
  | .dmaWindowOpen slot => Sys2Proof.Machine.execDmaWindowOpen slot s
  | .dmaWindowClose slot => Sys2Proof.Machine.execDmaWindowClose slot s
  | .dmaWindowCloseDone port window => Sys2Proof.Machine.execDmaWindowCloseDone port window s
  | .queryCaps slot => Sys2Proof.Machine.execQueryCaps slot s
  | .listSet slot => Sys2Proof.Machine.execListSet slot s
  | .listExtend slot => Sys2Proof.Machine.execListExtend slot s
  | .partitionSet slot => Sys2Proof.Machine.execPartitionSet slot s
  | .partitionApply => Sys2Proof.Machine.execPartitionApply s
  | .ctxCreate slot => Sys2Proof.Machine.execCtxCreate slot s
  | .ctxGrant slot => Sys2Proof.Machine.execCtxGrant slot s
  | .ctxRevoke slot => Sys2Proof.Machine.execCtxRevoke slot s
  | .ctxDestroy slot => Sys2Proof.Machine.execCtxDestroy slot s
  | .stepAdd slot => Sys2Proof.Machine.execStepAdd slot s
  | .stepAddUpdate slot => Sys2Proof.Machine.execStepAddUpdate slot s
  | .stepRetire slot => Sys2Proof.Machine.execStepRetire slot s
  | .ptCommitCreate slot => Sys2Proof.Machine.execPtCommitCreate slot s
  | .ptCommitEdit slot => Sys2Proof.Machine.execPtCommitEdit slot s
  | .ptCommitDestroy slot => Sys2Proof.Machine.execPtCommitDestroy slot s
  | .memMapAllocate slot => Sys2Proof.Machine.execMemMapAllocate slot s
  | .memMapShare slot => Sys2Proof.Machine.execMemMapShare slot s
  | .memUnmap slot => Sys2Proof.Machine.execMemUnmap slot s
  | .memUnmapApply ctx => Sys2Proof.Machine.execMemUnmapApply ctx s
  | .repairQuery slot => Sys2Proof.Machine.execRepairQuery slot s
  | .repairApply slot => Sys2Proof.Machine.execRepairApply slot s
  | .loopback slot => Sys2Proof.Machine.execLoopback slot s
  | .loopbackDone errors => Sys2Proof.Machine.execLoopbackDone errors s
  | .fabricConfigGlobal slot => Sys2Proof.Machine.execFabricConfigGlobal slot s
  | .fabricConfigPort slot => Sys2Proof.Machine.execFabricConfigPort slot s
  | .fabricConfigSubport slot => Sys2Proof.Machine.execFabricConfigSubport slot s
  | .fabricAdmitAddAnchor slot => Sys2Proof.Machine.execFabricAdmitAddAnchor slot s
  | .fabricAdmitRemoveAnchor slot => Sys2Proof.Machine.execFabricAdmitRemoveAnchor slot s
  | .fabricAdmitSetOwnChain slot => Sys2Proof.Machine.execFabricAdmitSetOwnChain slot s
  | .fabricAdmitAddPeer slot => Sys2Proof.Machine.execFabricAdmitAddPeer slot s
  | .fabricAdmitRemovePeer slot => Sys2Proof.Machine.execFabricAdmitRemovePeer slot s
  | .fabricAdmitRekey slot => Sys2Proof.Machine.execFabricAdmitRekey slot s
  | .peerThaw slot => Sys2Proof.Machine.execPeerThaw slot s
  | .powerPolicy slot => Sys2Proof.Machine.execPowerPolicy slot s
  | .fwStage slot => Sys2Proof.Machine.execFwStage slot s
  | .fwStageDone => Sys2Proof.Machine.execFwStageDone s
  | .fwActivateTry slot => Sys2Proof.Machine.execFwActivateTry slot s
  | .fwActivateConfirm slot => Sys2Proof.Machine.execFwActivateConfirm slot s
  | .fwActivateRaiseSvn slot => Sys2Proof.Machine.execFwActivateRaiseSvn slot s
  | .attestReport slot => Sys2Proof.Machine.execAttestReport slot s
  | .attestIdentityChain slot => Sys2Proof.Machine.execAttestIdentityChain slot s
  | .journalCompact slot => Sys2Proof.Machine.execJournalCompact slot s
  | .compaction => Sys2Proof.Machine.execCompaction s
  | .serviceModeEnter slot => Sys2Proof.Machine.execServiceModeEnter slot s
  | .serviceModeLeave slot => Sys2Proof.Machine.execServiceModeLeave slot s
  | .matmul ctx hw => Sys2Proof.Machine.execMatmul ctx hw s
  | .matmulElementwise ctx hw => Sys2Proof.Machine.execMatmulElementwise ctx hw s
  | .convolve ctx hw => Sys2Proof.Machine.execConvolve ctx hw s
  | .maxPool ctx hw => Sys2Proof.Machine.execMaxPool ctx hw s
  | .avgPool ctx hw => Sys2Proof.Machine.execAvgPool ctx hw s
  | .upNearest ctx hw => Sys2Proof.Machine.execUpNearest ctx hw s
  | .upBilinear ctx hw => Sys2Proof.Machine.execUpBilinear ctx hw s
  | .regroup ctx hw => Sys2Proof.Machine.execRegroup ctx hw s
  | .gnStats ctx hw => Sys2Proof.Machine.execGnStats ctx hw s
  | .gnApply ctx hw => Sys2Proof.Machine.execGnApply ctx hw s
  | .attend ctx hw remote => Sys2Proof.Machine.execAttend ctx hw remote s
  | .eltwise ctx hw => Sys2Proof.Machine.execEltwise ctx hw s
  | .moveCopy ctx => Sys2Proof.Machine.execMoveCopy ctx s
  | .moveTranspose ctx => Sys2Proof.Machine.execMoveTranspose ctx s
  | .moveFill ctx => Sys2Proof.Machine.execMoveFill ctx s
  | .expand ctx hw => Sys2Proof.Machine.execExpand ctx hw s
  | .packpassBuild ctx hw => Sys2Proof.Machine.execPackpassBuild ctx hw s
  | .packpassEncode ctx hw => Sys2Proof.Machine.execPackpassEncode ctx hw s
  | .packpassReencode ctx hw => Sys2Proof.Machine.execPackpassReencode ctx hw s
  | .fabricPutWrite ctx => Sys2Proof.Machine.execFabricPutWrite ctx s
  | .fabricPutFetchAdd ctx => Sys2Proof.Machine.execFabricPutFetchAdd ctx s
  | .fabricGet ctx => Sys2Proof.Machine.execFabricGet ctx s
  | .stepBuild ctx => Sys2Proof.Machine.execStepBuild ctx s
  | .semSignal ctx => Sys2Proof.Machine.execSemSignal ctx s
  | .semSignalInit ctx => Sys2Proof.Machine.execSemSignalInit ctx s
  | .semWait ctx => Sys2Proof.Machine.execSemWait ctx s
  | .semWaitRecheck => Sys2Proof.Machine.execSemWaitRecheck s
  | .semTimeout ctx => Sys2Proof.Machine.execSemTimeout ctx s
  | .phase ctx => Sys2Proof.Machine.execPhase ctx s
  | .stats ctx => Sys2Proof.Machine.execStats ctx s
  | .nop ctx => Sys2Proof.Machine.execNop ctx s
  | .commandComplete ctx index meas => Sys2Proof.Machine.execCommandComplete ctx index meas s
  | .moverChunk turn => Sys2Proof.Machine.execMoverChunk turn s
  | .hostReadCompletion tag answer => Sys2Proof.Machine.execHostReadCompletion tag answer s
  | .hostCompletionTimeout ask => Sys2Proof.Machine.execHostCompletionTimeout ask s
  | .sliceEnd part => Sys2Proof.Machine.execSliceEnd part s
  | .turnTake part overrunUs => Sys2Proof.Machine.execTurnTake part overrunUs s
  | .evictionWaitTimeout ctx => Sys2Proof.Machine.execEvictionWaitTimeout ctx s
  | .teardownFinish ctx => Sys2Proof.Machine.execTeardownFinish ctx s
  | .configApply unit => Sys2Proof.Machine.execConfigApply unit s
  | .registerWrite port offset bytes => Sys2Proof.Machine.execRegisterWrite port offset bytes s
  | .hpcEventsClear port value => Sys2Proof.Machine.execHpcEventsClear port value s
  | .apertureArm port seg value => Sys2Proof.Machine.execApertureArm port seg value s
  | .apertureDisarm port seg value => Sys2Proof.Machine.execApertureDisarm port seg value s
  | .apertureWrite port offset bytes => Sys2Proof.Machine.execApertureWrite port offset bytes s
  | .apertureRead port offset length => Sys2Proof.Machine.execApertureRead port offset length s
  | .msixUnmask port vector => Sys2Proof.Machine.execMsixUnmask port vector s
  | .counterLowRead port offset => Sys2Proof.Machine.execCounterLowRead port offset s
  | .debugArm port value => Sys2Proof.Machine.execDebugArm port value s
  | .debugDiscard port value => Sys2Proof.Machine.execDebugDiscard port value s
  | .fabPrbsCtlWrite port fabPort value => Sys2Proof.Machine.execFabPrbsCtlWrite port fabPort value s
  | .sbBoardLimitWrite value => Sys2Proof.Machine.execSbBoardLimitWrite value s
  | .sbStatusRead => Sys2Proof.Machine.execSbStatusRead s
  | .coolantReading => Sys2Proof.Machine.execCoolantReading s
  | .powerSample milliwatts settled => Sys2Proof.Machine.execPowerSample milliwatts settled s
  | .powerWindowEnd activity => Sys2Proof.Machine.execPowerWindowEnd activity s
  | .sensorReading sensor reading => Sys2Proof.Machine.execSensorReading sensor reading s
  | .stackTempReading site celsius => Sys2Proof.Machine.execStackTempReading site celsius s
  | .scrubRead bulk unit offset found => Sys2Proof.Machine.execScrubRead bulk unit offset found s
  | .stackRowRemap row uncorrectable => Sys2Proof.Machine.execStackRowRemap row uncorrectable s
  | .pageReplace ctx page => Sys2Proof.Machine.execPageReplace ctx page s
  | .poweredHourTick margins => Sys2Proof.Machine.execPoweredHourTick margins s
  | .subportUp link => Sys2Proof.Machine.execSubportUp link s
  | .subportBringupRetry link => Sys2Proof.Machine.execSubportBringupRetry link s
  | .subportFecLockLoss link => Sys2Proof.Machine.execSubportFecLockLoss link s
  | .subportErrorWindow link uncorrectable corrected symbols => Sys2Proof.Machine.execSubportErrorWindow link uncorrectable corrected symbols s
  | .lldpTimer link => Sys2Proof.Machine.execLldpTimer link s
  | .frameReceive link frame => Sys2Proof.Machine.execFrameReceive link frame s
  | .frameTransmit device => Sys2Proof.Machine.execFrameTransmit device s
  | .hello device session => Sys2Proof.Machine.execHello device session s
  | .reply device session => Sys2Proof.Machine.execReply device session s
  | .confirm device session => Sys2Proof.Machine.execConfirm device session s
  | .rekeyHello device session => Sys2Proof.Machine.execRekeyHello device session s
  | .handshakeRetryTimer device => Sys2Proof.Machine.execHandshakeRetryTimer device s
  | .epochGraceExpire device => Sys2Proof.Machine.execEpochGraceExpire device s
  | .writeRecord device tsn => Sys2Proof.Machine.execWriteRecord device tsn s
  | .pushRecord device tsn => Sys2Proof.Machine.execPushRecord device tsn s
  | .readRecord device turn => Sys2Proof.Machine.execReadRecord device turn s
  | .fetchAddRecord device turn => Sys2Proof.Machine.execFetchAddRecord device turn s
  | .seqReadRecord device turn => Sys2Proof.Machine.execSeqReadRecord device turn s
  | .seqReleaseRecord device tsn => Sys2Proof.Machine.execSeqReleaseRecord device tsn s
  | .readDataRecord device => Sys2Proof.Machine.execReadDataRecord device s
  | .faResultRecord device => Sys2Proof.Machine.execFaResultRecord device s
  | .statusRecord device => Sys2Proof.Machine.execStatusRecord device s
  | .ackRecord device => Sys2Proof.Machine.execAckRecord device s
  | .creditRecord device => Sys2Proof.Machine.execCreditRecord device s
  | .ackTimer device => Sys2Proof.Machine.execAckTimer device s
  | .retransmitTimeout device tsn => Sys2Proof.Machine.execRetransmitTimeout device tsn s
  | .sessionTimeout device => Sys2Proof.Machine.execSessionTimeout device s
  | .rateInterval device => Sys2Proof.Machine.execRateInterval device s
  | .prbsCheckerLock lane pattern => Sys2Proof.Machine.execPrbsCheckerLock lane pattern s
  | .prbsCheckerLockLoss lane errors => Sys2Proof.Machine.execPrbsCheckerLockLoss lane errors s

end Sys2Proof.Machine
end

