-- ==== Sys2Proof/Safety.lean ====
section
/-! DEFINITION. What counts as a safe run, and the words the statements are made of: what a command gives, when a message
is taken and answered, when a command of a list is fetched. -/
namespace Sys2Proof

open Sys2Proof.Machine

/-- One step that answers a next state. -/
def SafeStep (s : Machine.State) : Prop := ∃ t, step s = .next t

/-- Every one of the first `k` steps answers a next state. -/
def SafeRun : Nat → Machine.State → Prop
  | 0, _ => True
  | k + 1, s => ∃ t, step s = .next t ∧ SafeRun k t

/-- A command answers a next state, and that state has a property. -/
def Gives (i : Instr) (s : Machine.State) (P : Machine.State → Prop) : Prop := ∃ t, exec i s = .next t ∧ P t

/-- The message of a slot as it is taken in a state. -/
def msgAt (s : Machine.State) (r : SlotRef) (b : Bytes) : Msg := slotMsg r b s.ccx.takeSeq

/-- A sealed slot whose turn it is holds a message of a form, nothing holds it back, and the checks every message shares
pass: its header, its mailbox, its sender, the units it needs, its reserved bytes and its contexts (R492, R496, R498,
R757). What is left to judge is its own body. -/
structure Taken (s : Machine.State) (r : SlotRef) (f : Form) (b : Bytes) : Prop where
  scanned  : s.scans r.port = true
  found    : ∃ l, (s.port r.port).box? r.box = some l ∧ lowestSealed l = some r.slot ∧ l[r.slot]? = some b
  form     : formOf (slotOpcode b).toNat (slotBody b) = some f
  allowed  : s.takeRefusal b (msgAt s r b) = none
  free     : s.mustHold (msgAt s r b) s.ccx.msgs = false
  contexts : s.ctxRefusal f (msgAt s r b) = none

/-- A slot holds the reply to the message it held: STATE 3 with the message's TAG, a status and a body (R501). -/
def Answered (t : Machine.State) (r : SlotRef) (b : Bytes) (code : Code) (body : Bytes) : Prop :=
  ∃ x, t.slot? r = some x ∧ leAt x 0 4 = (sealTag (slotSealWord b)).toNat * 65536 + 3 ∧ leAt x 8 2 = code.toNat ∧
    slotBody x = body

/-- The message of a slot waits with the control complex (R496). -/
def Waits (t : Machine.State) (s : Machine.State) (r : SlotRef) (b : Bytes) : Prop :=
  { msgAt s r b with state := .waiting } ∈ t.ccx.msgs

/-- The next command of a RUNNING resident context is fetched, and its header is valid (R427, R512, R515). -/
structure Fetched (s : Machine.State) (n : Nat) (c : Ctx) (l : CmdList) (d : Bytes) : Prop where
  runs    : s.running = true
  ctx     : s.ctx? n = some c
  state   : c.state = .running
  slot    : c.resident = true
  list    : c.list = some l
  begins  : s.canBegin c = true
  read    : s.vread n (l.place l.next) 128 = .ok d
  header  : headerOk d = true

/-- The row of a message form. -/
def messageRow (f : Form) (r : SlotRef) : Instr :=
  match f with
  | .claim => .claim r
  | .handover => .handover r
  | .handoverResign => .handoverResign r
  | .accept => .accept r
  | .portThaw => .portThaw r
  | .dmaOpen => .dmaWindowOpen r
  | .dmaClose => .dmaWindowClose r
  | .queryCaps => .queryCaps r
  | .listSet => .listSet r
  | .listExtend => .listExtend r
  | .partitionSet => .partitionSet r
  | .ctxCreate => .ctxCreate r
  | .ctxGrant => .ctxGrant r
  | .ctxRevoke => .ctxRevoke r
  | .ctxDestroy => .ctxDestroy r
  | .stepAdd => .stepAdd r
  | .stepUpdate => .stepAddUpdate r
  | .stepRetire => .stepRetire r
  | .ptCreate => .ptCommitCreate r
  | .ptEdit => .ptCommitEdit r
  | .ptDestroy => .ptCommitDestroy r
  | .mapAllocate => .memMapAllocate r
  | .mapShare => .memMapShare r
  | .memUnmap => .memUnmap r
  | .repairQuery => .repairQuery r
  | .repairApply => .repairApply r
  | .loopback => .loopback r
  | .fabGlobal => .fabricConfigGlobal r
  | .fabPort => .fabricConfigPort r
  | .fabSubport => .fabricConfigSubport r
  | .addAnchor => .fabricAdmitAddAnchor r
  | .removeAnchor => .fabricAdmitRemoveAnchor r
  | .setOwnChain => .fabricAdmitSetOwnChain r
  | .addPeer => .fabricAdmitAddPeer r
  | .removePeer => .fabricAdmitRemovePeer r
  | .rekey => .fabricAdmitRekey r
  | .peerThaw => .peerThaw r
  | .powerPolicy => .powerPolicy r
  | .fwStage => .fwStage r
  | .fwTry => .fwActivateTry r
  | .fwConfirm => .fwActivateConfirm r
  | .fwRaise => .fwActivateRaiseSvn r
  | .attestReport => .attestReport r
  | .attestChain => .attestIdentityChain r
  | .journalCompact => .journalCompact r
  | .serviceEnter => .serviceModeEnter r
  | .serviceLeave => .serviceModeLeave r

/-- The rows that may change the duties or lose the module's state (14; 17, R745, R747). -/
def movesHeat : Instr → Bool
  | .fundamentalReset _ => true
  | .hotswapOpen _ => true
  | .moduleStart _ => true
  | .powerSample _ _ => true
  | .powerWindowEnd _ => true
  | .sensorReading _ _ => true
  | .stackTempReading _ _ => true
  | .coolantReading => true
  | _ => false

/-- The duties keep the ranges of 14: D_p from 0 to 64, and 0 under the thermal stop; every D_j and D_f from 8 to 64;
at most the 1,000 samples of a window are counted (R671, R675, R677, R678). -/
structure HeatLegal (h : Heat) : Prop where
  brake   : h.dp ≤ 64
  stop    : h.stopped = true → h.dp = 0
  cores   : h.dj.length = 128 ∧ ∀ d ∈ h.dj, 8 ≤ d ∧ d ≤ 64
  fields  : h.df.length = 4 ∧ ∀ d ∈ h.df, 8 ≤ d ∧ d ≤ 64
  samples : h.sample ≤ 1000

/-- A slot stands sealed, its turn has come, and its message is of a form; whatever the checks say of it. -/
structure Next (s : Machine.State) (r : SlotRef) (f : Form) (b : Bytes) : Prop where
  scanned : s.scans r.port = true
  found   : ∃ l, (s.port r.port).box? r.box = some l ∧ lowestSealed l = some r.slot ∧ l[r.slot]? = some b
  form    : formOf (slotOpcode b).toNat (slotBody b) = some f

/-- A slot taken: STATE 2 with its other bits unchanged, TAKE_SEQ written, every other byte as sealed (R493, R495). -/
def takenSlot (s : Machine.State) (b : Bytes) : Bytes :=
  leBytes 4 ((slotSealWord b).toNat / 4 * 4 + 2) ++ sliceBytes b 4 8 ++ leBytes 4 s.ccx.takeSeq ++ sliceBytes b 16 240

/-- The TAKE_SEQ after one: R495. -/
def takeSeqAfter (n : Nat) : Nat := if n = 0xFFFFFFFF then 1 else n + 1

/-- Table 9 of 11 for an open: FLAGS below 16 with READ or WRITE, HOST_ADDR and LENGTH multiples of 4 KiB, LENGTH from
4 KiB to 2^48. -/
def dmaOpenBody (b : Bytes) : Prop :=
  (byteAt b 2).toNat < 16 ∧ (byteAt b 2).toNat % 4 ≠ 0 ∧ leAt b 8 8 % 4096 = 0 ∧ leAt b 16 8 % 4096 = 0 ∧
    0 < leAt b 16 8 ∧ leAt b 16 8 ≤ 2 ^ 48

/-- Every state but the store, the fuses and the repairs in the stacks is lost (R724, R747; 15, R706). -/
structure LosesAll (s t : Machine.State) : Prop where
  memory   : ∀ a, t.mem.get a = 0
  contexts : t.ctxs = [] ∧ t.maps = [] ∧ t.entries = [] ∧ t.seqs = [] ∧ t.jobs = []
  owner    : t.own.owner = none ∧ t.own.electing = false
  ports    : ∀ q ∈ t.ports, q.mgmt = List.replicate 8 (List.replicate 256 0) ∧ q.linkUp = false ∧ q.frozen = false
  heat     : t.heat = Heat.reset
  control  : t.ccx = Ccx.reset
  peers    : t.fab.peers = [] ∧ t.fab.glob = FabGlobal.reset
  journal  : t.store.journal = s.store.journal ∧ t.store.base = s.store.base ∧ t.store.lastSeq = s.store.lastSeq
  slots    : t.store.fw0 = s.store.fw0 ∧ t.store.fw1 = s.store.fw1 ∧ t.store.preferred = s.store.preferred ∧
    t.store.minSvn = s.store.minSvn ∧ t.store.running = none
  repairs  : t.sites.map (fun x => x.used) = s.sites.map fun x => x.used
  fuses    : t.cores.map (fun c => c.fusedMax) = s.cores.map fun c => c.fusedMax

/-- The thermal stop of Table 6 of 14. -/
structure Stopped (s t : Machine.State) : Prop where
  duty    : t.heat.stopped = true ∧ t.heat.dp = 0
  halted  : t.ccx.halted = true ∧ t.ccx.haltCode = 0x0C04
  trip    : t.pins.thermTrip = true ∧ Output.thermTrip ∈ t.out
  journal : s.store.room 6 = true → s.store.lastSeq < t.store.lastSeq
  kept    : t.mem = s.mem ∧ t.ctxs = s.ctxs ∧ t.maps = s.maps ∧ t.own = s.own ∧ t.fab = s.fab ∧ t.ports = s.ports

/-- A command begun and completed in one step: its list has moved past it, CMD_DONE counts it, its record is kept, and no
begun command has its index (R427, R429, R455). -/
def RanToEnd (t : Machine.State) (n : Nat) (c : Ctx) (l : CmdList) : Prop :=
  ∃ y l', t.ctx? n = some y ∧ y.list = some l' ∧ l' = { l with next := l.next + 1, begun := l.next }.complete l.next ∧
    (y.records.head?.map fun r => r.index) = some l.next ∧ y.begun = c.begun.filter fun b => b.index != l.next

/-- A command begun and not yet completed (R425, R427). -/
def StandsBegun (t : Machine.State) (n : Nat) (c : Ctx) (l : CmdList) (d : Bytes) (b : Begun) : Prop :=
  ∃ y, t.ctx? n = some y ∧ y.list = some { l with next := l.next + 1, begun := l.next } ∧ y.begun = c.begun ++ [b] ∧
    b.index = l.next ∧ b.desc = d ∧ b.opcode = descOpcode d ∧ b.preempted = false

/-- A running context faulted by a command of its own, under the command's FAULT_POLICY or its own: halted or being torn
down with nothing begun, the fault recorded when it is the first (R443 to R445, R450). -/
def FaultedBy (t : Machine.State) (n : Nat) (c : Ctx) (index : Word) (op : Byte) (policy : Nat) (code : Code) : Prop :=
  ∃ y, t.ctx? n = some y ∧ y.begun = [] ∧
    y.state = (if (if policy = 0 then c.policy else policy) = 2 then CtxState.halted else CtxState.closing) ∧
    (c.fault.outcome = 0 → y.fault.code = code ∧ y.fault.cmdCtx = n ∧ y.fault.cmdIndex = index ∧ y.fault.opcode = op ∧
      y.fault.outcome ≠ 0) ∧
    (c.fault.outcome ≠ 0 → y.fault = c.fault)

/-- Every other context keeps its list, its begun commands and its records. -/
def OthersKeep (s t : Machine.State) (n : Nat) : Prop :=
  ∀ k x, k ≠ n → s.ctx? k = some x →
    ∃ y, t.ctx? k = some y ∧ y.list = x.list ∧ y.begun = x.begun ∧ y.records = x.records ∧ y.cls = x.cls

/-- The rows that fetch a command of a context's list, whatever the units would meet. -/
def fetchRows (n : Nat) (hw : RunHw) (remote : List RemoteShard) : List Instr :=
  [.matmul n hw, .matmulElementwise n hw, .convolve n hw, .maxPool n hw, .avgPool n hw, .upNearest n hw,
   .upBilinear n hw, .regroup n hw, .gnStats n hw, .gnApply n hw, .attend n hw remote, .eltwise n hw, .moveCopy n,
   .moveTranspose n, .moveFill n, .expand n hw, .packpassBuild n hw, .packpassEncode n hw, .packpassReencode n hw,
   .fabricPutWrite n, .fabricPutFetchAdd n, .fabricGet n, .stepBuild n, .semSignal n, .semSignalInit n, .semWait n,
   .phase n, .stats n, .nop n]

/-- The rows of the cores and the expanders, each with its descriptors and with how a descriptor is judged and planned. -/
def coreRows (n : Nat) (hw : RunHw) (remote : List RemoteShard) :
    List (Instr × (Bytes → Bool) × (Machine.State → Ctx → Cmd → Except Code CoreRun)) :=
  [(.matmul n hw, isMatmul false, State.matRun hw), (.matmulElementwise n hw, isMatmul true, State.matRun hw),
   (.convolve n hw, isConvKind 0, State.convRun hw), (.maxPool n hw, isConvKind 1, State.convRun hw),
   (.avgPool n hw, isConvKind 2, State.convRun hw), (.upNearest n hw, isConvKind 3, State.convRun hw),
   (.upBilinear n hw, isConvKind 4, State.convRun hw), (.regroup n hw, isConvKind 5, State.convRun hw),
   (.gnStats n hw, isConvKind 6, State.convRun hw), (.gnApply n hw, isConvKind 7, State.convRun hw),
   (.attend n hw remote, isOpcode 3, State.attRun hw remote), (.eltwise n hw, isOpcode 4, State.eltRun hw),
   (.expand n hw, isOpcode 6, State.expandRun hw), (.packpassBuild n hw, isPackpass 0, State.packpassRun hw),
   (.packpassEncode n hw, isPackpass 1, State.packpassRun hw), (.packpassReencode n hw, isPackpass 2, State.packpassRun hw)]

/-- Every item of a planned command computes, may make all its writes and pushes nothing, no unit meets an uncorrectable
error, and no context that owns a NaN event of it traps. -/
def CleanRun (s : Machine.State) (c : Ctx) (r : CoreRun) : Prop :=
  r.begun.hw.coreSram = none ∧ r.begun.hw.expSram = none ∧ (∀ h ∈ r.begun.hw.reads, h.found ≠ .uncorrectable) ∧
    ∀ it ∈ r.items, ∃ w, it.work = .ok w ∧ w.pushes = [] ∧
      (∀ x ∈ w.writes, r.state.accessFault c.num x.1 x.2.length true = none) ∧
      (w.events ≠ [] → ∀ y, s.ctx? (c.itemOwner it.item) = some y → y.nanTrap = false)

/-- What the items of a planned command write. -/
def runWrites (r : CoreRun) : List (Nat × Bytes) :=
  (r.items.map fun it =>
    match it.work with
    | .ok w => w.writes
    | .error _ => []).flatten

/-- A message refused: its reply, and no effect beyond its slot, its take and the reply's vector (R498, R501). -/
def TurnedAway (t : Machine.State) (s : Machine.State) (r : SlotRef) (b : Bytes) (code : Code) : Prop :=
  Answered t r b code (zeros 240) ∧ t = { s with ports := t.ports, ccx := t.ccx, out := t.out }

/-- The counters of a subport rise by the amounts listed, in the order of Table 13 of 12, and by nothing else. -/
def Counts (s t : Machine.State) (l : Nat) (by_ : List (Nat × Nat)) : Prop :=
  ∀ x, s.fab.subs[l]? = some x → ∃ y, t.fab.subs[l]? = some y ∧ y = { x with counters := y.counters } ∧
    y.counters.length = x.counters.length ∧
    ∀ k, k < x.counters.length →
      y.counters.getD k 0 = x.counters.getD k 0 + ((by_.filter fun a => a.1 == k).map fun a => a.2).sum

/-- Nothing changes but the subport of a link, and what the module sends. -/
def OnlySub (s t : Machine.State) (l : Nat) : Prop :=
  (∀ k, k ≠ l → t.fab.subs[k]? = s.fab.subs[k]?) ∧
    t = { s with fab := { s.fab with subs := t.fab.subs }, out := t.out }

/-- A record of a request performed or refused once: its credits are returned, and its TSN is behind CUM or noted above it
(R636, R642); one performed is noted by those that wait and may overlap it (R630). -/
def Performed (q q' : Session) (r : InRec) (refused : Nat) : Prop :=
  q'.returned = q.returned + BitVec.ofNat 32 (recCost r.data.length) ∧ q'.refused = refused ∧
    q'.inbox = (if refused = 0 then (q.inbox.erase r).map r.meet else q.inbox.erase r) ∧
    (r.tsn ∈ q'.beyond ∨ ∃ k, k ≤ q.beyond.length ∧ q'.cum = r.tsn + BitVec.ofNat 32 k)

/-- A frame leaves on one of some links. -/
def FrameOn (s t : Machine.State) (ls : List Nat) : Prop :=
  ∃ l ∈ ls, ∃ fr, t.out = s.out ++ [.frame l fr]

end Sys2Proof
end

