-- ==== Sys2Proof/WellFormed.lean ====
section
/-! DEFINITION. Which commands are well formed: their operands name instances the chapters' tables allow. -/
namespace Sys2Proof

/-- A host port H0 to H3. -/
def portOk (p : Nat) : Bool := decide (p < 4)

/-- A context number, 0 to 1,023 (Table 2 of 09). -/
def ctxOk (c : Nat) : Bool := decide (c < 1024)

/-- A slot of a management mailbox, 0 to 7, or of a context mailbox, 0 to 3 (R487). -/
def SlotRef.ok (r : SlotRef) : Bool :=
  portOk r.port &&
    match r.box with
    | none => decide (r.slot < 8)
    | some c => ctxOk c && decide (r.slot < 4)

/-- A stack row of Table 3 of 08. -/
def RowRef.ok (r : RowRef) : Bool :=
  decide (r.site < 8) && decide (r.chan < 32) && decide (r.bank < 64) && decide (r.row < 32768)

/-- A byte of the memory of some part that a read served (Table 1 of 08). -/
def MemHit.ok (h : MemHit) : Bool := decide (h.unit < (if h.bulk then 32 else 8)) && decide (h.offset < 2 ^ 36)

/-- What a command meets while it runs names units and bytes that exist on some part. -/
def RunHw.ok (w : RunHw) : Bool :=
  w.coreSram.all (fun n => decide (n < 128)) && w.expSram.all (fun q => decide (q < 32)) &&
    w.coreCorr.all (fun n => decide (n < 128)) && w.expCorr.all (fun q => decide (q < 32)) && w.reads.all MemHit.ok

/-- Settings of a host port's configuration space that R534 admits: a 4 to 64 GiB aperture, a payload of 128 to 512 bytes and a read
request of 128 to 4,096. -/
def PortConfig.ok (g : PortConfig) : Bool :=
  [4, 8, 16, 32, 64].contains g.bar2Gib && [128, 256, 512].contains g.payload &&
    [128, 256, 512, 1024, 2048, 4096].contains g.readReq

/-- A link index, 8p + s (R583). -/
def linkOk (l : Nat) : Bool := decide (l < 192)

/-- A device number, 0 to 4,095 (Table 4 of 12). -/
def deviceOk (d : Nat) : Bool := decide (d < 4096)

/-- A unit that exists on some part. -/
def ConfigUnit.ok : ConfigUnit → Bool
  | .core n => decide (n < 128)
  | .expander q => decide (q < 32)
  | .mover m => decide (m < 16)
  | .site n => decide (n < 8)
  | .package b => decide (b < 32)
  | .portGroup g => decide (g < 6)
  | .hostPort p => portOk p
  | .scheduler => true
  | .platform => true

/-- A sensor that exists on some part. -/
def Sensor.ok : Sensor → Bool
  | .core n => decide (n < 128)
  | .field f => decide (f < 4)
  | .bulk b => decide (b < 32)
  | .coolant => true

/-- An aperture access stays within the 64 GiB of BAR2 (R546). -/
def apertureOk (offset n : Nat) : Bool := decide (offset + n ≤ 2 ^ 36)

/-- A command's operands name what the tables allow. -/
def Instr.wf : Instr → Bool
  | .fundamentalReset _ => true
  | .hotswapOpen _ => true
  | .hotswapClose _ _ => true
  | .moduleStart inp => inp.badRows.all RowRef.ok
  | .recoveryGo _ => true
  | .recoveryDone => true
  | .pcieConfigRequestRetry p => portOk p
  | .portLinkDown p => portOk p
  | .portHotReset p _ k => portOk p && k.all fun x => x.cfg.ok
  | .slotSeal r _ => r.ok
  | .scanRound _ => true
  | .heldMessageRelease => true
  | .ccxWatchdog => true
  | .claim r => r.ok
  | .electionClose => true
  | .handover r => r.ok
  | .handoverResign r => r.ok
  | .accept r => r.ok
  | .handoverOfferExpire => true
  | .portThaw r => r.ok
  | .dmaWindowOpen r => r.ok
  | .dmaWindowClose r => r.ok
  | .dmaWindowCloseDone p w => portOk p && decide (w < 256)
  | .queryCaps r => r.ok
  | .listSet r => r.ok
  | .listExtend r => r.ok
  | .partitionSet r => r.ok
  | .partitionApply => true
  | .ctxCreate r => r.ok
  | .ctxGrant r => r.ok
  | .ctxRevoke r => r.ok
  | .ctxDestroy r => r.ok
  | .stepAdd r => r.ok
  | .stepAddUpdate r => r.ok
  | .stepRetire r => r.ok
  | .ptCommitCreate r => r.ok
  | .ptCommitEdit r => r.ok
  | .ptCommitDestroy r => r.ok
  | .memMapAllocate r => r.ok
  | .memMapShare r => r.ok
  | .memUnmap r => r.ok
  | .memUnmapApply c => ctxOk c
  | .repairQuery r => r.ok
  | .repairApply r => r.ok
  | .loopback r => r.ok
  | .loopbackDone es => decide (es.length = 128)
  | .fabricConfigGlobal r => r.ok
  | .fabricConfigPort r => r.ok
  | .fabricConfigSubport r => r.ok
  | .fabricAdmitAddAnchor r => r.ok
  | .fabricAdmitRemoveAnchor r => r.ok
  | .fabricAdmitSetOwnChain r => r.ok
  | .fabricAdmitAddPeer r => r.ok
  | .fabricAdmitRemovePeer r => r.ok
  | .fabricAdmitRekey r => r.ok
  | .peerThaw r => r.ok
  | .powerPolicy r => r.ok
  | .fwStage r => r.ok
  | .fwStageDone => true
  | .fwActivateTry r => r.ok
  | .fwActivateConfirm r => r.ok
  | .fwActivateRaiseSvn r => r.ok
  | .attestReport r => r.ok
  | .attestIdentityChain r => r.ok
  | .journalCompact r => r.ok
  | .compaction => true
  | .serviceModeEnter r => r.ok
  | .serviceModeLeave r => r.ok
  | .matmul c w => ctxOk c && w.ok
  | .matmulElementwise c w => ctxOk c && w.ok
  | .convolve c w => ctxOk c && w.ok
  | .maxPool c w => ctxOk c && w.ok
  | .avgPool c w => ctxOk c && w.ok
  | .upNearest c w => ctxOk c && w.ok
  | .upBilinear c w => ctxOk c && w.ok
  | .regroup c w => ctxOk c && w.ok
  | .gnStats c w => ctxOk c && w.ok
  | .gnApply c w => ctxOk c && w.ok
  | .attend c w _ => ctxOk c && w.ok
  | .eltwise c w => ctxOk c && w.ok
  | .moveCopy c => ctxOk c
  | .moveTranspose c => ctxOk c
  | .moveFill c => ctxOk c
  | .expand c w => ctxOk c && w.ok
  | .packpassBuild c w => ctxOk c && w.ok
  | .packpassEncode c w => ctxOk c && w.ok
  | .packpassReencode c w => ctxOk c && w.ok
  | .fabricPutWrite c => ctxOk c
  | .fabricPutFetchAdd c => ctxOk c
  | .fabricGet c => ctxOk c
  | .stepBuild c => ctxOk c
  | .semSignal c => ctxOk c
  | .semSignalInit c => ctxOk c
  | .semWait c => ctxOk c
  | .semWaitRecheck => true
  | .semTimeout c => ctxOk c
  | .phase c => ctxOk c
  | .stats c => ctxOk c
  | .nop c => ctxOk c
  | .commandComplete c _ _ => ctxOk c
  | .moverChunk t => decide (t.mover < 16) && t.reads.all MemHit.ok
  | .hostReadCompletion _ _ => true
  | .hostCompletionTimeout _ => true
  | .sliceEnd p => decide (p < 8)
  | .turnTake p _ => decide (p < 8)
  | .evictionWaitTimeout c => ctxOk c
  | .teardownFinish c => ctxOk c
  | .configApply u => u.ok
  | .registerWrite p off bs =>
    (match p with
      | none => decide (off < 256)
      | some p => portOk p && decide (off + bs.length ≤ 2 ^ 24))
  | .hpcEventsClear p _ => portOk p
  | .apertureArm p n _ => portOk p && decide (n < 16)
  | .apertureDisarm p n _ => portOk p && decide (n < 16)
  | .apertureWrite p off bs => portOk p && apertureOk off bs.length
  | .apertureRead p off n => portOk p && apertureOk off n
  | .msixUnmask p v => portOk p && decide (v < 2048)
  | .counterLowRead p off => portOk p && decide (off < 2 ^ 24)
  | .debugArm p _ => portOk p
  | .debugDiscard p _ => portOk p
  | .fabPrbsCtlWrite p f _ => portOk p && decide (f < 24)
  | .sbBoardLimitWrite _ => true
  | .sbStatusRead => true
  | .coolantReading => true
  | .powerSample _ _ => true
  | .powerWindowEnd _ => true
  | .sensorReading sn _ => sn.ok
  | .stackTempReading n _ => decide (n < 8)
  | .scrubRead bulk u off _ => decide (u < (if bulk then 32 else 8)) && decide (off < 2 ^ 36)
  | .stackRowRemap r _ => r.ok
  | .pageReplace c _ => ctxOk c
  | .poweredHourTick _ => true
  | .subportUp l => linkOk l
  | .subportBringupRetry l => linkOk l
  | .subportFecLockLoss l => linkOk l
  | .subportErrorWindow l _ _ _ => linkOk l
  | .lldpTimer l => linkOk l
  | .frameReceive l _ => linkOk l
  | .frameTransmit d => deviceOk d
  | .hello d _ => deviceOk d
  | .reply d _ => deviceOk d
  | .confirm d _ => deviceOk d
  | .rekeyHello d _ => deviceOk d
  | .handshakeRetryTimer d => deviceOk d
  | .epochGraceExpire d => deviceOk d
  | .writeRecord d _ => deviceOk d
  | .pushRecord d _ => deviceOk d
  | .readRecord d t => deviceOk d && t.reads.all MemHit.ok
  | .fetchAddRecord d t => deviceOk d && t.reads.all MemHit.ok
  | .seqReadRecord d t => deviceOk d && t.reads.all MemHit.ok
  | .seqReleaseRecord d _ => deviceOk d
  | .readDataRecord d => deviceOk d
  | .faResultRecord d => deviceOk d
  | .statusRecord d => deviceOk d
  | .ackRecord d => deviceOk d
  | .creditRecord d => deviceOk d
  | .ackTimer d => deviceOk d
  | .retransmitTimeout d _ => deviceOk d
  | .sessionTimeout d => deviceOk d
  | .rateInterval d => deviceOk d
  | .prbsCheckerLock l _ => linkOk l
  | .prbsCheckerLockLoss l _ => linkOk l

end Sys2Proof
end

