-- ==== Sys2Proof/Certificates/Slice0/Obligations.lean ====
section
/-! DEFINITION. The statements for the provers, from the spec's numbered rules. Where one rests on a choice of the model its
docstring names the log entry. -/

open Sys2Proof Sys2Proof.Machine


/-! ### The queue, the outcomes and reset -/

/-- The command at the front of the queue is carried out on the state with the queue's rest. An empty queue idles: the
model's choice, log entry 7. -/
def Obligations.StepRunsTheFrontCommand : Prop :=
  (∀ (c : Instr) (rest : List Instr) (s : State), s.pending = c :: rest → step s = exec c { s with pending := rest }) ∧
    ∀ s : State, s.pending = [] → step s = .next s

/-- No command faults or is refused; each leaves the queue as it was and every change of memory carried out, and only the
rows of 14 and the resets move the duties. -/
def Obligations.EveryCommandAnswers : Prop :=
  ∀ (i : Instr) (s : State), Gives i s fun t =>
    t.pending = s.pending ∧ t.wr = [] ∧ (movesHeat i = false → t.heat = s.heat)

/-- Every step keeps the canonical form of memory, so equal contents are equal data. -/
def Obligations.StepKeepsMemoryCanonical : Prop :=
  ∀ s t : State, s.mem.wf = true → step s = .next t → t.mem.wf = true

/-- Every step keeps the ranges of the duties (R671, R675, R677, R678). -/
def Obligations.StepKeepsDutiesLegal : Prop :=
  ∀ s t : State, HeatLegal s.heat → step s = .next t → HeatLegal t.heat

/-- The two invariants hold at reset, with an empty queue and nothing left to write. What reset leaves where the spec
gives the value: TAKE_SEQ 1 (R495); every duty 64 (R671, R675); the cap 3,000 W and BOARD_W 1,200 W (R667, R750); the
FABRIC_CONFIG settings "until first set" (Table 4 of 12); CORE_INFO of every core MODE 0, BUSY 0, CTX 0x3FF (Table 2
of 03); every management slot zero (R504); no owner (R557). That the module stands in reset with a GOOD image in slot
0 is log entry 1's and 6's. -/
def Obligations.ResetLeavesTheStatedValues : Prop :=
  (State.reset.mem.wf = true ∧ HeatLegal State.reset.heat ∧ State.reset.pending = [] ∧ State.reset.wr = []) ∧
  (State.reset.ccx.takeSeq = 1 ∧ State.reset.heat.dp = 64 ∧ State.reset.heat.dj = List.replicate 128 64 ∧
     State.reset.heat.df = List.replicate 4 64 ∧ State.reset.plt.capW = 3000 ∧ State.reset.plt.boardW = 1200 ∧
     State.reset.fab.glob.etherType = 0x88B5 ∧ State.reset.fab.glob.udpPort = 49511 ∧
     State.reset.fab.glob.hopLimit = 64 ∧ State.reset.fab.glob.dscp = 0 ∧ State.reset.fab.glob.maxPayload = 8192 ∧
     (∀ c ∈ State.reset.cores, c.mode = 0 ∧ c.busy = false ∧ c.ctx = 0x3FF) ∧
     (∀ q ∈ State.reset.ports, q.mgmt = List.replicate 8 (List.replicate 256 0)) ∧ State.reset.own.owner = none)

/-! ### Mailboxes (10) -/

/-- R490, R491: while a slot's STATE is 1 or 2 every host write to its bytes is discarded and counted, and so is a SEAL
write that sets STATE to 2 or 3 in any state; nothing else changes, and the port is not frozen. R489: a slot whose
STATE is 0 or 3 is sealed, or left free, by one write of the whole SEAL word; no other byte of the slot and nothing
else changes. Completes SLOT_SEAL and REGISTER_WRITE. -/
def Obligations.HostWritesToSlots : Prop :=
  (∀ (s : State) (r : SlotRef) (x : Bytes), s.phase = .ready → (s.port r.port).reaches = true →
     (s.port r.port).frozen = false → r.ok = true → (∀ c, r.box = some c → s.holds r.port c = true) →
     s.slot? r = some x → x.length = 256 → s.wr = [] →
     ((sealState (slotSealWord x) = 1 ∨ sealState (slotSealWord x) = 2) →
       (∀ off bs, bs ≠ [] → off + bs.length ≤ 256 →
         exec (.registerWrite (some r.port) (slotOffset r + off) bs) s = .next (s.discard r.port)) ∧
       ∀ w, exec (.slotSeal r w) s = .next (s.discard r.port)) ∧
     (∀ bs : Bytes, bs ≠ [] → bs.length ≤ 256 → 2 ≤ sealState (slotSealWord (bs ++ x.drop bs.length)) →
       exec (.registerWrite (some r.port) (slotOffset r) bs) s = .next (s.discard r.port)) ∧
     ∀ w, 2 ≤ sealState w → exec (.slotSeal r w) s = .next (s.discard r.port)) ∧
  (∀ (s : State) (r : SlotRef) (x : Bytes) (w : Word), s.phase = .ready → (s.port r.port).reaches = true →
     (s.port r.port).frozen = false → (∀ c, r.box = some c → s.holds r.port c = true) →
     s.slot? r = some x → x.length = 256 → s.wr = [] → sealState (slotSealWord x) ≠ 1 → sealState (slotSealWord x) ≠ 2 →
     sealState w ≤ 1 →
     Gives (.slotSeal r w) s fun t =>
       t.slot? r = some (leBytes 4 w.toNat ++ x.drop 4) ∧ t = { s with ports := t.ports } ∧
         ∀ q, q ≠ r.port → t.port q = s.port q)

/-- R498, R501: a message that fails a check of its header, its sender or its units, or that nothing holds and that fails
the check of its reserved bytes, is replied with that check's code and a body of zeros, and has no effect beyond its slot, TAKE_SEQ, the port's count of malformed messages and the reply's vector.
R500: the malformed message that brings a port's count to 3 is replied, and the port is then frozen with the cause of
Table 10 of 11. -/
def Obligations.RefusedMessagesHaveNoEffect : Prop :=
  (∀ (s : State) (r : SlotRef) (f : Form) (b : Bytes) (c : Code), Next s r f b →
     s.takeRefusal b (msgAt s r b) = some c →
     ((s.earlyRefusal b (msgAt s r b)).isSome = true ∨ s.mustHold (msgAt s r b) s.ccx.msgs = false) →
     (malformed b (msgAt s r b) = true → (s.port r.port).malformed < 2) → s.wr = [] →
     Gives (messageRow f r) s fun t =>
       Answered t r b c (zeros 240) ∧ t.ccx = { s.ccx with takeSeq := takeSeqAfter s.ccx.takeSeq } ∧
         t = { s with ports := t.ports, ccx := t.ccx, out := t.out } ∧
         (t.port r.port).malformed =
           (if malformed b (msgAt s r b) = true then (s.port r.port).malformed + 1 else 0)) ∧
  (∀ (s : State) (r : SlotRef) (f : Form) (b : Bytes) (c : Code), Next s r f b →
     s.takeRefusal b (msgAt s r b) = some c →
     ((s.earlyRefusal b (msgAt s r b)).isSome = true ∨ s.mustHold (msgAt s r b) s.ccx.msgs = false) →
     malformed b (msgAt s r b) = true → (s.port r.port).malformed = 2 →
     Gives (messageRow f r) s fun t =>
       Answered t r b c (zeros 240) ∧ (t.port r.port).frozen = true ∧
         (t.port r.port).cause = Err.frozenMalformed ∧ (t.port r.port).epoch = (s.port r.port).epoch + 1)

/-- R495, R496: a message that passes the shared checks while an earlier one waits or is held that names a context it
names, or while both are owner-only, is taken and held: its slot shows STATE 2 and its TAKE_SEQ, TAKE_SEQ rises by one
(wrapping from 0xFFFF_FFFF to 1), and nothing else happens yet, but that a HANDOVER with TARGET 0xFF lets ownership lapse
when it is taken (R567). R494, R757: a held message whose wait is over begins. Where a reserved byte of its body is set, or a
context it names is gone by then, it is refused with its Body refusal; otherwise its form carries it out on the state
without it. Completes HELD_MESSAGE_RELEASE. -/
def Obligations.HeldMessagesWaitTheirTurn : Prop :=
  (∀ (s : State) (r : SlotRef) (f : Form) (b : Bytes), Next s r f b → s.takeRefusal b (msgAt s r b) = none →
     s.mustHold (msgAt s r b) s.ccx.msgs = true → s.wr = [] →
     Gives (messageRow f r) s fun t =>
       t.slot? r = some (takenSlot s b) ∧
         t.ccx = { s.ccx with takeSeq := takeSeqAfter s.ccx.takeSeq, msgs := s.ccx.msgs ++ [msgAt s r b] } ∧
         (f ≠ .handoverResign → t = { s with ports := t.ports, ccx := t.ccx }) ∧
         (f = .handoverResign → t.own = { owner := none, electing := true, claims := [], offer := none } ∧
           t = { s with ports := t.ports, ccx := t.ccx, own := t.own, out := t.out })) ∧
  (∀ (s : State) (m : Msg) (f : Form) (x : Bytes), s.running = true → s.releasable = some m → m.form? = some f →
     m.port < s.ports.length → s.slot? { port := m.port, box := m.box, slot := m.slot } = some x → m.discard = false →
     let rest : State := { s with ccx := { s.ccx with msgs := s.ccx.msgs.filter fun y => y.seq != m.seq } }
     (f.reservedOk m.body = false →
       Gives .heldMessageRelease s fun t =>
         (∃ y, t.slot? { port := m.port, box := m.box, slot := m.slot } = some y ∧ sealState (slotSealWord y) = 3 ∧
           leAt y 8 2 = m.kind.refusal.toNat ∧ slotBody y = zeros 240) ∧ t.ccx = rest.ccx ∧
           (m.freezes = true → (t.port m.port).frozen = true)) ∧
     (∀ c, f.reservedOk m.body = true → s.ctxRefusal f m = some c →
       Gives .heldMessageRelease s fun t =>
         (∃ y, t.slot? { port := m.port, box := m.box, slot := m.slot } = some y ∧ sealState (slotSealWord y) = 3 ∧
           leAt y 8 2 = c.toNat ∧ slotBody y = zeros 240) ∧ t.ccx = rest.ccx) ∧
     (f.reservedOk m.body = true → s.ctxRefusal f m = none →
       (∀ u code body, carryOf f rest m = .reply u code body →
         Gives .heldMessageRelease s fun t => t.ccx = u.ccx ∧ t.ctxs = u.ctxs ∧ t.own = u.own ∧ t.maps = u.maps) ∧
       ∀ u, carryOf f rest m = .wait u →
         Gives .heldMessageRelease s fun t =>
           t.ccx.msgs = u.ccx.msgs ++ [{ m with state := .waiting }] ∧ t.ctxs = u.ctxs ∧ t.maps = u.maps))

/-- R483, R484, R492: a round over mailboxes with no sealed slot only raises the heartbeat; a corrected error of the control
complex SRAM is counted and changes nothing else of it; an uncorrectable one halts the control complex with
CCX_SRAM_UNCORRECTABLE, and 100 ms without a heartbeat with CCX_WATCHDOG. Completes SCAN_ROUND and CCX_WATCHDOG. -/
def Obligations.HeartbeatAndHalts : Prop :=
  ∀ s : State, s.wr = [] →
    (s.running = true →
      (∀ p l box, p < 4 → s.scans p = true → (s.port p).box? box = some l → lowestSealed l = none) →
      exec (.scanRound .clean) s = .next { s with ccx := { s.ccx with heartbeat := s.ccx.heartbeat + 1 } } ∧
        exec (.scanRound .corrected) s =
          .next { s with ccx := { s.ccx with heartbeat := s.ccx.heartbeat + 1, eccCorr := s.ccx.eccCorr + 1 } }) ∧
    (s.running = true →
      exec (.scanRound .uncorrectable) s = .next { s with ccx := { s.ccx with halted := true, haltCode := 0x020A } }) ∧
    (s.phase = .ready → s.ccx.halted = false →
      exec .ccxWatchdog s = .next { s with ccx := { s.ccx with halted := true, haltCode := 0x020B } })

/-! ### Ownership, freezes and thaws (11) -/

/-- R561, R562: with no owner a CLAIM is recorded in the election it opens or finds open, in place of an earlier claim of
its port, and waits; with an owner it is replied at once with RESULT 2 and the owner. R563, R564: when the window of
an election closes, the owner is the claimant of the highest priority, the lowest port number winning ties, among
those neither frozen, down nor hot-reset since; with none there is no owner. The election is over, and OWNER_CHANGED
is set where a port won. Completes CLAIM and ELECTION_CLOSE. -/
def Obligations.ElectionsPickTheOwner : Prop :=
  (∀ (s : State) (r : SlotRef) (b : Bytes), Taken s r .claim b → s.wr = [] →
     (∀ o, s.own.owner = some o →
       Gives (.claim r) s fun t =>
         Answered t r b Err.success (replyBody (leBytes 1 2 ++ leBytes 1 o)) ∧
           t = { s with ports := t.ports, ccx := { s.ccx with takeSeq := takeSeqAfter s.ccx.takeSeq }, out := t.out }) ∧
     (s.own.owner = none →
       Gives (.claim r) s fun t =>
         Waits t s r b ∧
           t.own = { s.own with
             electing := true
             claims := (s.own.claims.filter fun c => c.port != r.port) ++
               [{ port := r.port, priority := (byteAt (slotBody b) 0).toNat, seq := s.ccx.takeSeq, alive := true }] } ∧
           (s.own.electing = false → ∀ p, p < 4 → (s.port p).reaches = true → (t.port p).events.getLsbD 1 = true) ∧
           t = { s with own := t.own, ports := t.ports, ccx := t.ccx, out := t.out })) ∧
  (∀ s : State, s.running = true → s.own.electing = true → s.own.claims ≠ [] → s.wr = [] →
     let able := s.own.claims.filter fun c => c.alive && (s.port c.port).reaches && !(s.port c.port).frozen
     Gives .electionClose s fun t =>
       (∀ p, t.own.owner = some p ↔ ∃ c ∈ able, c.port = p ∧
         ∀ d ∈ able, d.priority < c.priority ∨ (d.priority = c.priority ∧ c.port ≤ d.port)) ∧
       t.own.electing = false ∧ t.own.claims = [] ∧ t.own.offer = none ∧
       (∀ p q, t.own.owner = some p → q < 4 → (s.port q).reaches = true → (t.port q).events.getLsbD 0 = true) ∧
       t = { s with own := t.own, ports := t.ports, ccx := t.ccx, out := t.out })

/-- R565, R567, R568: HANDOVER offers ownership to another present port that is up and not frozen, in place of an offer
that is pending, and is refused with HANDOVER_INVALID for any other TARGET; HANDOVER with TARGET 0xFF resigns:
ownership lapses and an election opens. R569: ownership passes when the ACCEPT is taken, provided an offer from SOURCE
to the sending port is still pending; otherwise it is refused with HANDOVER_INVALID (0x0104). R570: 1 s after its
HANDOVER was taken a pending offer ends, and nothing else changes. Completes HANDOVER, HANDOVER with TARGET 0xFF, ACCEPT and
HANDOVER_OFFER_EXPIRE. -/
def Obligations.OwnershipIsHandedOver : Prop :=
  (∀ (s : State) (r : SlotRef) (b : Bytes), s.wr = [] →
     let p := (byteAt (slotBody b) 0).toNat
     (Taken s r .handover b → p < 4 → p ≠ r.port → (s.port p).reaches = true → (s.port p).frozen = false →
       Gives (.handover r) s fun t =>
         t.own = { s.own with offer := some (r.port, p) } ∧ (t.port p).events.getLsbD 2 = true ∧
           Answered t r b Err.success (zeros 240) ∧
           t = { s with own := t.own, ports := t.ports, ccx := t.ccx, out := t.out }) ∧
     (Taken s r .handover b →
       (4 ≤ p ∨ p = r.port ∨ (s.port p).reaches = false ∨ (s.port p).frozen = true) →
       Gives (.handover r) s fun t =>
         Answered t r b Err.handoverInvalid (zeros 240) ∧ t = { s with ports := t.ports, ccx := t.ccx, out := t.out }) ∧
     (Taken s r .handoverResign b →
       Gives (.handoverResign r) s fun t =>
         t.own = { owner := none, electing := true, claims := [], offer := none } ∧
           (∀ q, q < 4 → (s.port q).reaches = true →
             (t.port q).events.getLsbD 0 = true ∧ (t.port q).events.getLsbD 1 = true) ∧
           Answered t r b Err.success (zeros 240) ∧
           t = { s with own := t.own, ports := t.ports, ccx := t.ccx, out := t.out })) ∧
  (∀ (s : State) (r : SlotRef) (b : Bytes), Taken s r .accept b → s.wr = [] →
     (s.own.offer = some ((byteAt (slotBody b) 0).toNat, r.port) →
       Gives (.accept r) s fun t =>
         t.own = { s.own with owner := some r.port, offer := none } ∧ Answered t r b Err.success (zeros 240) ∧
           (∀ q, q < 4 → (s.port q).reaches = true → (t.port q).events.getLsbD 0 = true) ∧
           t = { s with own := t.own, ports := t.ports, ccx := t.ccx, out := t.out }) ∧
     (s.own.offer ≠ some ((byteAt (slotBody b) 0).toNat, r.port) →
       Gives (.accept r) s fun t =>
         Answered t r b 0x0104 (zeros 240) ∧ t = { s with ports := t.ports, ccx := t.ccx, out := t.out })) ∧
  (∀ s : State, s.running = true → s.wr = [] →
     exec .handoverOfferExpire s = .next { s with own := { s.own with offer := none } })

/-- R575: PORT_THAW is refused with THAW_INVALID (0x0105) unless PORT names a present port that is frozen. An accepted
thaw clears the freeze and the malformed count, raises the port's epoch, sets THAWED where the port's link is up
(R542), and there releases the held chunks of commands that still run (R386). R536, R565, R32: a link that goes down
raises its port's epoch, ends the ownership it has and pauses the home contexts that follow their commands; the chunks of
the reads under way from it are held (log entry 17); a host access to it then changes nothing. R447, R504, R535, R555, R565,
R576: a hot reset of a present port, the return of a link that was down among them, clears its slots, windows, segments,
event bits, freeze and malformed count, raises its epoch, ends the ownership it has, removes its non-home grants, and leaves
no live context whose home it is. R723: a configuration request before the module is ready is answered with Request Retry
Status, and nothing else changes. Completes PORT_THAW, PORT_LINK_DOWN, PORT_HOT_RESET and PCIE_CONFIG_REQUEST_RETRY. -/
def Obligations.PortsFreezeAndReset : Prop :=
  (∀ (s : State) (r : SlotRef) (b : Bytes), Taken s r .portThaw b → s.wr = [] →
     let p := (byteAt (slotBody b) 0).toNat
     (p < 4 → (s.port p).present = true → (s.port p).frozen = true →
       Gives (.portThaw r) s fun t =>
         (t.port p).frozen = false ∧ (t.port p).cause = 0 ∧ (t.port p).malformed = 0 ∧
           (t.port p).epoch = (s.port p).epoch + 1 ∧
           ((s.port p).linkUp = true → (t.port p).events.getLsbD 4 = true) ∧
           ((s.port p).linkUp = true → t.held = s.held.map fun h =>
             if h.port = p ∧ s.heldRuns h = true then { h with released := true } else h) ∧
           Answered t r b Err.success (zeros 240) ∧ t.mem = s.mem ∧ t.own = s.own) ∧
     (¬(p < 4 ∧ (s.port p).present = true ∧ (s.port p).frozen = true) →
       Gives (.portThaw r) s fun t =>
         Answered t r b 0x0105 (zeros 240) ∧ t = { s with ports := t.ports, ccx := t.ccx, out := t.out })) ∧
  (∀ (s : State) (p : Nat), s.phase = .ready → (s.port p).present = true → (s.port p).linkUp = true → s.wr = [] →
     Gives (.portLinkDown p) s fun t =>
       (t.port p).linkUp = false ∧ (t.port p).epoch = (s.port p).epoch + 1 ∧
         (t.port p).frozen = (s.port p).frozen ∧
         (s.own.owner = some p → t.own = { owner := none, electing := true, claims := [], offer := none }) ∧
         (s.own.owner ≠ some p → t.own = s.own) ∧ t.mem = s.mem ∧ t.fab = s.fab ∧
         t.held = s.held ++ (s.hostReads.filter fun r => r.port == p && r.current s).map HostRead.hold ∧
         (∀ n c, s.ctx? n = some c → c.home = p → c.state.ordinary = true →
           ∃ y, t.ctx? n = some y ∧ y.state = .paused) ∧
         (∀ off bs, exec (.registerWrite (some p) off bs) t = .next t) ∧
         ∀ off bs, exec (.apertureWrite p off bs) t = .next t) ∧
  (∀ (s : State) (p : Nat) (how : ResetKind) (l : Option LinkState), s.phase = .ready → (s.port p).present = true →
     (how = .linkReturn → (s.port p).linkUp = false ∧ l.isSome = true) → s.wr = [] →
     Gives (.portHotReset p how l) s fun t =>
       (t.port p).epoch = (s.port p).epoch + 1 ∧ (t.port p).mgmt = List.replicate 8 (List.replicate 256 0) ∧ (t.port p).windows = [] ∧
         (t.port p).segs = List.replicate 16 Segment.reset ∧ (t.port p).events = 0 ∧ (t.port p).frozen = false ∧
         (t.port p).malformed = 0 ∧ (∀ x ∈ (t.port p).boxes, x.2 = List.replicate 4 (List.replicate 256 0)) ∧
         (s.own.owner = some p → t.own.owner = none ∧ t.own.electing = true) ∧
         (s.own.owner ≠ some p → t.own.owner = s.own.owner) ∧
         ∀ n c, t.ctx? n = some c → (c.home = p → c.live = false) ∧ (c.home ≠ p → c.granted p = false)) ∧
  (∀ (s : State) (p : Nat), (s.phase = .inReset ∨ s.phase = .startHalted) → s.wr = [] →
     exec (.pcieConfigRequestRetry p) s = .next { s with out := s.out ++ [.retryStatus p] })

/-! ### DMA windows and the aperture (11) -/

/-- R551, R554, R555: a DMA_WINDOW open that keeps Table 9 opens its window; a close takes an open window away, or waits
for the chunks dealt toward it, and DMA_WINDOW_CLOSE_DONE replies it once none remains. An open of an open window, a
breach of Table 9 and a close of a window that is not open are refused with DMA_WINDOW_INVALID (0x0106). Completes
DMA_WINDOW open, DMA_WINDOW close and DMA_WINDOW_CLOSE_DONE. -/
def Obligations.WindowsOpenAndClose : Prop :=
  ∀ (s : State) (r : SlotRef) (b : Bytes), s.wr = [] →
    let x := slotBody b
    let w := (byteAt x 1).toNat
    (Taken s r .dmaOpen b → dmaOpenBody x → s.window? r.port w = none →
      Gives (.dmaWindowOpen r) s fun t =>
        (t.port r.port).windows = (s.port r.port).windows ++
          [{ index := w, read := bitOf (byteAt x 2).toNat 0, write := bitOf (byteAt x 2).toNat 1,
             noSnoop := bitOf (byteAt x 2).toNat 2, relaxed := bitOf (byteAt x 2).toNat 3, hostAddr := leAt x 8 8,
             length := leAt x 16 8, closing := [] }] ∧
          Answered t r b Err.success (replyBody (leBytes 1 w)) ∧
          t = { s with ports := t.ports, ccx := t.ccx, out := t.out }) ∧
    (Taken s r .dmaOpen b → ¬(dmaOpenBody x ∧ s.window? r.port w = none) →
      Gives (.dmaWindowOpen r) s fun t =>
        Answered t r b 0x0106 (zeros 240) ∧ (t.port r.port).windows = (s.port r.port).windows) ∧
    (Taken s r .dmaClose b → (byteAt x 2).toNat < 16 → leAt x 8 8 = 0 → leAt x 16 8 = 0 →
      (s.window? r.port w).isSome = true →
      (s.towardWindow r.port w = false →
        Gives (.dmaWindowClose r) s fun t =>
          t.window? r.port w = none ∧ Answered t r b Err.success (replyBody (leBytes 1 w)) ∧
            t = { s with ports := t.ports, ccx := t.ccx, out := t.out }) ∧
      (s.towardWindow r.port w = true →
        Gives (.dmaWindowClose r) s fun t =>
          (t.window? r.port w).isSome = true ∧ Waits t s r b ∧
            (∀ y, t.window? r.port w = some y → s.ccx.takeSeq ∈ y.closing) ∧
            t = { s with ports := t.ports, ccx := t.ccx, out := t.out })) ∧
    (Taken s r .dmaClose b →
      ¬((byteAt x 2).toNat < 16 ∧ leAt x 8 8 = 0 ∧ leAt x 16 8 = 0 ∧ (s.window? r.port w).isSome = true) →
      Gives (.dmaWindowClose r) s fun t =>
        Answered t r b 0x0106 (zeros 240) ∧ t = { s with ports := t.ports, ccx := t.ccx, out := t.out }) ∧
    ∀ (p v : Nat) (y : Window), s.running = true → s.window? p v = some y → y.closing ≠ [] →
      s.towardWindow p v = false →
      Gives (.dmaWindowCloseDone p v) s fun t =>
        t.window? p v = none ∧ (∀ m ∈ t.ccx.msgs, m.seq ∈ y.closing → m.state ≠ .waiting) ∧
          t = { s with ports := t.ports, ccx := t.ccx, out := t.out }

/-- R547, R548: a write of HPC_AP_CTL(n) with VALID 1 arms the segment with the staged BASE, CTX and WRITE, or is refused,
VALID then reading 0 and REFUSED 1, when CTX is not granted to the port, BASE is not 2 MiB aligned or BASE + 2^32
exceeds 2^48; with VALID 0 it disarms it whatever BASE and CTX hold. REFUSED is cleared by every write but a refused
arm's, and CTX and WRITE read back as last written. That the write acts at once is the model's choice (log entry 28).
R534, R546, R549, R573: an aperture access within the size the host gave BAR2 and within an armed segment is translated
through the mappings of the segment's context: a write that no begun command's packed tensor holds lands byte by byte where
the translation says, and changes nothing else; a read returns those bytes. An access that one byte may not make freezes the
port with FROZEN_APERTURE, a write counted as discarded and a read answered with 0xFF; on a frozen port a write is discarded
and a read returns 0xFF; beyond BAR2 nothing reaches the module. Completes APERTURE_ARM, APERTURE_DISARM, APERTURE_WRITE and
APERTURE_READ. -/
def Obligations.AperturesTranslate : Prop :=
  (∀ (s : State) (p n : Nat) (v : Word), s.phase = .ready → p < 4 → (s.port p).reaches = true →
     (s.port p).frozen = false → n < 16 → n < (s.port p).segs.length → s.wr = [] →
     let g := s.seg p n
     let c := v.toNat % 1024
     let base := g.baseHi.toNat * 2 ^ 32 + g.baseLo.toNat
     let same : Segment := { g with write := v.getLsbD 30, ctx := BitVec.ofNat 10 c, refused := false, valid := false }
     (v.getLsbD 31 = true →
       (s.holds p c = true → base % 2 ^ 21 = 0 → base + 2 ^ 32 ≤ 2 ^ 48 →
         Gives (.apertureArm p n v) s fun t =>
           t.seg p n = { same with valid := true, base := base, armedCtx := c, armedWrite := v.getLsbD 30 } ∧
             t = { s with ports := t.ports }) ∧
       (¬(s.holds p c = true ∧ base % 2 ^ 21 = 0 ∧ base + 2 ^ 32 ≤ 2 ^ 48) →
         Gives (.apertureArm p n v) s fun t =>
           t.seg p n = { same with refused := true } ∧ t = { s with ports := t.ports })) ∧
     (v.getLsbD 31 = false →
       Gives (.apertureDisarm p n v) s fun t => t.seg p n = same ∧ t = { s with ports := t.ports })) ∧
  (∀ (s : State) (p off : Nat), s.phase = .ready → (s.port p).reaches = true → s.wr = [] → s.mem.wf = true →
     let inBar := fun n : Nat => off + n ≤ (s.port p).cfg.bar2Gib * 2 ^ 30
     ((s.port p).frozen = false →
       (∀ (bs : Bytes) (as : List Nat), inBar bs.length → s.apertureRun p off bs.length true = some as → as.Nodup →
         s.packUsers as = [] → Gives (.apertureWrite p off bs) s fun t =>
           (∀ i, i < bs.length → t.mem.get (as.getD i 0) = bs.getD i 0) ∧
             (∀ a, a ∉ as → t.mem.get a = s.mem.get a) ∧ t = { s with mem := t.mem }) ∧
       (∀ (bs : Bytes), inBar bs.length → s.apertureRun p off bs.length true = none →
         Gives (.apertureWrite p off bs) s fun t =>
           (t.port p).frozen = true ∧ (t.port p).cause = Err.frozenAperture ∧ t.mem = s.mem ∧
             (t.port p).discards = satInc (s.port p).discards 1) ∧
       (∀ (n : Nat) (as : List Nat), inBar n → s.apertureRun p off n false = some as →
         exec (.apertureRead p off n) s = .next { s with out := s.out ++ [.readData p (as.map s.mem.get)] }) ∧
       ∀ n : Nat, inBar n → s.apertureRun p off n false = none →
         Gives (.apertureRead p off n) s fun t =>
           (t.port p).frozen = true ∧ t.mem = s.mem ∧ Output.readData p (List.replicate n 0xFF) ∈ t.out) ∧
     ((s.port p).frozen = true →
       (∀ bs : Bytes, inBar bs.length → exec (.apertureWrite p off bs) s = .next (s.discard p)) ∧
       ∀ n : Nat, inBar n → exec (.apertureRead p off n) s =
         .next { s with out := s.out ++ [.readData p (List.replicate n 0xFF)] }) ∧
     (∀ bs : Bytes, ¬inBar bs.length → exec (.apertureWrite p off bs) s = .next s) ∧
     ∀ n : Nat, ¬inBar n → exec (.apertureRead p off n) s = .next s)

/-- R13, R526 to R529, R541, R543, R613: register accesses with rows of their own on a port that is up and not frozen. A
write of HPC_EVENTS clears the bits that are 1 in it; HPC_EVENT_EN keeps five bits; a read of the low word of a 64-bit
counter latches its high word for the port; unmasking a vector sends it when its pending bit is set and neither the function's
mask nor a disabled MSI-X holds it; an owner's write of FAB_PRBS_CTL(p) in service mode goes to the staged copy of that
register; an owner's DISCARD drops the staged copies of the named groups, of every group with 0xFF, and an arm without it
makes them ready for their groups' apply points; an arm or a discard outside R529 is ignored with DEBUG_ARM_INVALID; outside
service mode an owner's write of either register is discarded with DEBUG_LOCKED, and such a write of a port that is not the
owner freezes it in every mode. Completes HPC_EVENTS_CLEAR, REGISTER_WRITE, COUNTER_LOW_READ, MSIX_UNMASK,
FAB_PRBS_CTL_WRITE, DEBUG_DISCARD and DEBUG_ARM. -/
def Obligations.RegisterWritesOfTheirOwn : Prop :=
  ∀ (s : State) (p : Nat), s.phase = .ready → p < 4 → (s.port p).reaches = true → (s.port p).frozen = false →
    s.wr = [] →
    (∀ v : Word, Gives (.hpcEventsClear p v) s fun t =>
      (∀ i, i < 5 → (t.port p).events.getLsbD i = ((s.port p).events.getLsbD i && !v.getLsbD i)) ∧
        t = { s with ports := t.ports } ∧ ∀ q, q ≠ p → t.port q = s.port q) ∧
    (∀ v : Word, Gives (.registerWrite (some p) 0x1014 (leBytes 4 v.toNat)) s fun t =>
      (t.port p).eventEn = v &&& 0x1F ∧ t = { s with ports := t.ports } ∧ ∀ q, q ≠ p → t.port q = s.port q) ∧
    (∀ off, isCounter off = true → Gives (.counterLowRead p off) s fun t =>
      t.highWord p off = BitVec.ofNat 32 (s.counterValue p off / 2 ^ 32) ∧
        t.out = s.out ++ [.readData p (leBytes 4 (s.counterValue p off))] ∧
        t = { s with ports := t.ports, out := t.out }) ∧
    (∀ v, v < 2048 →
      let sends := (s.port p).pba.contains v && (s.port p).cfg.msixOn && !(s.port p).cfg.msixMask
      Gives (.msixUnmask p v) s fun t =>
        ((t.port p).msixEntry v).control = 0 ∧
          (t.port p).pba.contains v = ((s.port p).pba.contains v && !sends) ∧
          t.out = (if sends = true then s.out ++ [.msix p v] else s.out) ∧
          t = { s with ports := t.ports, out := t.out }) ∧
    (∀ f v, f < 24 → s.hasFabric = true → s.own.owner = some p →
      (s.ccx.service = true → Gives (.fabPrbsCtlWrite p f v) s fun t =>
        (t.fab.ports.getD f (FabPort.reset false)).staged =
            (if f < s.fab.ports.length then some (v &&& 0xFE00FFFF) else none) ∧
          (∀ g, g ≠ f → t.fab.ports[g]? = s.fab.ports[g]?) ∧ t.fab = { s.fab with ports := t.fab.ports } ∧
          t = { s with fab := t.fab, ccx := t.ccx }) ∧
      (s.ccx.service = false → Gives (.fabPrbsCtlWrite p f v) s fun t =>
        t.ccx.dbgCode = Err.debugLocked ∧ t.fab = s.fab ∧ (t.port p).frozen = false ∧
          (t.port p).discards = satInc (s.port p).discards 1)) ∧
    (∀ v : Word, s.own.owner = some p → s.ccx.service = true → s.armInvalid v = false →
      (v.getLsbD 0 = true → Gives (.debugDiscard p v) s fun t =>
        (∀ (i : Nat) (f : FabPort), t.fab.ports[i]? = some f →
          (bitsOf v.toNat 15 8 = 0xFF ∨ bitsOf v.toNat 15 8 = i / 4) → f.staged = none) ∧
          t.ccx.dbgWaiting = s.ccx.dbgWaiting ∧
          t = { s with fab := t.fab, ccx := t.ccx }) ∧
      (v.getLsbD 0 = false → Gives (.debugArm p v) s fun t =>
        (∀ (i : Nat) (f g : FabPort), s.fab.ports[i]? = some f → t.fab.ports[i]? = some g →
          i / 4 ∈ s.armGroups (bitsOf v.toNat 15 8) → f.present = true → g.armed = f.staged ∧ g.staged = none) ∧
          t.ccx.dbgWaiting = s.armGroups (bitsOf v.toNat 15 8) ∧
          t = { s with fab := t.fab, ccx := t.ccx, ord := t.ord })) ∧
    (∀ (v : Word) (i : Instr), i = (if v.getLsbD 0 = true then .debugDiscard p v else .debugArm p v) →
      (s.own.owner = some p → s.ccx.service = true → s.armInvalid v = true →
        exec i s = .next { s with ccx := { s.ccx with dbgCode := Err.debugArmInvalid } }) ∧
      (s.own.owner = some p → s.ccx.service = false → Gives i s fun t =>
        t.ccx.dbgCode = Err.debugLocked ∧ t.fab = s.fab ∧ (t.port p).frozen = false ∧
          (t.port p).discards = satInc (s.port p).discards 1) ∧
      (s.own.owner ≠ some p → Gives i s fun t =>
        (t.port p).frozen = true ∧ (t.port p).cause = Err.frozenOwWrite ∧ t.fab = s.fab)) ∧
    ∀ f v, f < 24 → s.hasFabric = true → s.own.owner ≠ some p → Gives (.fabPrbsCtlWrite p f v) s fun t =>
      (t.port p).frozen = true ∧ (t.port p).cause = Err.frozenOwWrite ∧ t.fab = s.fab

/-! ### Contexts, lists and capabilities (09, 10) -/

/-- R416, R418, R421, R456: a CTX_CREATE that names a free number, or leaves it to the firmware, keeps Table 2 of 09, and
finds room under R539 at its home port and for the save area it asks for, creates that context IDLE, or PAUSED where its home
port is frozen or down (R30, R32), granted to its home port alone with a mailbox of zeros there and with the pages of its save
area, and replies its number and the number's raised epoch. Completes CTX_CREATE. -/
def Obligations.ContextIsCreated : Prop :=
  ∀ (s : State) (r : SlotRef) (b : Bytes) (n : Nat) (v : State), Taken s r .ctxCreate b → s.wr = [] →
    let x := slotBody b
    let home := (byteAt x 12).toNat
    let c0 := newCtx n x s.ord (!(s.port home).answers)
    let want := if (byteAt x 6).getLsbD 1 = true then savePagesFor (s.partCores (byteAt x 4).toNat).length else 0
    s.createOk x = true →
    ((leAt x 0 4 = n ∧ n < 1024 ∧ s.ctx? n = none) ∨ (leAt x 0 4 = 0xFFFFFFFF ∧ s.freeCtx = some n)) →
    s.grantCount home < 256 →
    ({ s.markTaken r b false with ctxs := s.ctxs ++ [c0] } : State).tick.growSave c0 want = some v →
    Gives (.ctxCreate r) s fun t =>
      (∃ c, t.ctx? n = some c ∧ c.state = (if (s.port home).answers = true then .idle else .paused) ∧
        c.savePages.length = want ∧ c.grants = [(home, leAt x 14 2)] ∧ c.home = home ∧
        c.partition = (byteAt x 4).toNat ∧ c.step = decide (byteAt x 5 = 1) ∧ c.stackAllot = leAt x 16 8 ∧
        c.bulkAllot = leAt x 24 8 ∧ c.sliceUs = (if leAt x 8 4 = 0 then 4000 else leAt x 8 4) ∧ c.list = none ∧
        c.begun = [] ∧ c.fault.outcome = 0) ∧
      t.ctxEpoch n = s.ctxEpoch n + 1 ∧
      (∀ k, k ≠ n → t.ctx? k = s.ctx? k) ∧
      (t.port home).box? (some n) = some (List.replicate 4 (List.replicate 256 0)) ∧
      Answered t r b Err.success (replyBody (leBytes 4 n ++ leBytes 4 (s.ctxEpoch n + 1).toNat)) ∧
      (want = 0 → t.mem = s.mem) ∧ t.maps = s.maps

/-- R421, R539, R548: a grant adds the port with its vector and gives it a mailbox; it is refused with CTX_INVALID (0x0302)
to a port that already holds one, and with CTX_LIMIT (0x0303) beyond the port's 256. A revoke takes a grant other than
the home port's away, with its mailbox and its segments, and is refused with CTX_INVALID otherwise. Completes CTX_GRANT with
GOP 0 and with GOP 1. -/
def Obligations.GrantsAreAddedAndRemoved : Prop :=
  ∀ (s : State) (r : SlotRef) (b : Bytes) (c : Ctx), s.wr = [] →
    let x := slotBody b
    let n := leAt x 0 4
    let p := (byteAt x 4).toNat
    s.ctx? n = some c →
    (Taken s r .ctxGrant b → p < 4 → (s.port p).present = true → leAt x 6 2 ≤ 2047 → c.granted p = false →
      (s.grantCount p < 256 →
        Gives (.ctxGrant r) s fun t =>
          (∃ d, t.ctx? n = some d ∧ d.grants = c.grants ++ [(p, leAt x 6 2)] ∧ d = { c with grants := d.grants }) ∧
            (t.port p).box? (some n) = some (List.replicate 4 (List.replicate 256 0)) ∧
            (∀ k, k ≠ n → t.ctx? k = s.ctx? k) ∧
            t = { s with ctxs := t.ctxs, ports := t.ports, ccx := t.ccx, out := t.out }) ∧
      (256 ≤ s.grantCount p → Gives (.ctxGrant r) s fun t =>
        Answered t r b 0x0303 (zeros 240) ∧ t.ctxs = s.ctxs)) ∧
    (Taken s r .ctxGrant b → c.granted p = true → Gives (.ctxGrant r) s fun t =>
      Answered t r b 0x0302 (zeros 240) ∧ t.ctxs = s.ctxs) ∧
    (Taken s r .ctxRevoke b → p ≠ c.home → c.granted p = true →
      Gives (.ctxRevoke r) s fun t =>
        (∃ d, t.ctx? n = some d ∧ d.granted p = false ∧ d.grants = (c.grants.filter fun g => g.1 != p)) ∧
          (t.port p).box? (some n) = none ∧
          (∀ g ∈ (t.port p).segs, g.armedCtx = n → g.valid = false) ∧ (∀ k, k ≠ n → t.ctx? k = s.ctx? k) ∧
          t = { s with ctxs := t.ctxs, ports := t.ports, ccx := t.ccx, out := t.out }) ∧
    (Taken s r .ctxRevoke b → (p = c.home ∨ c.granted p = false) → Gives (.ctxRevoke r) s fun t =>
      Answered t r b 0x0302 (zeros 240) ∧ t.ctxs = s.ctxs)

/-- R423, R446, R449: a CTX_DESTROY of a DEAD context frees its number at once; of any other it begins the tear-down and
waits. The tear-down of a CLOSING context finishes once no chunk, no request and no command that aliases its pages is
left: its mappings, its jobs and its mailboxes are gone and it is DEAD, or, where a CTX_DESTROY of it waits, its number is
free. Completes CTX_DESTROY and TEARDOWN_FINISH. -/
def Obligations.DestroyTearsDown : Prop :=
  ∀ (s : State) (r : SlotRef) (b : Bytes) (c : Ctx), s.wr = [] →
    let n := leAt (slotBody b) 0 4
    (Taken s r .ctxDestroy b → s.ctx? n = some c → c.state = .dead →
      Gives (.ctxDestroy r) s fun t =>
        t.ctx? n = none ∧ n ∈ t.plt.destroyed ∧ (∀ p, p < 4 → (t.port p).box? (some n) = none)) ∧
    (Taken s r .ctxDestroy b → s.ctx? n = some c → c.live = true →
      Gives (.ctxDestroy r) s fun t =>
        (∃ d, t.ctx? n = some d ∧ d.state = .closing ∧ d.begun = []) ∧ Waits t s r b ∧
          t.ctxEpoch n = s.ctxEpoch n + 1 ∧ ∀ w ∈ t.waiters, w.ctx ≠ n) ∧
    ∀ k : Nat, s.running = true → s.ctx? k = some c → c.state = .closing → s.readsOut k = false →
      s.openReqs k = false → s.ordsBegun k c.closing = false →
      let waits := ∃ m ∈ s.ccx.msgs, m.state = .waiting ∧ m.opcode = 0x0304 ∧ leAt m.body 0 4 = k
      Gives (.teardownFinish k) s fun t =>
        (¬waits → ∃ d, t.ctx? k = some d ∧ d.state = .dead ∧ d.resident = false ∧ d.mailbox = false) ∧
          (waits → t.ctx? k = none ∧ k ∈ t.plt.destroyed) ∧
          (∀ m ∈ t.maps, m.ctx ≠ k) ∧ (∀ j ∈ t.jobs, j.ctx ≠ k) ∧
          (∀ e ∈ t.entries, e.ctx = k → e.state = .closing) ∧ (∀ p, p < 4 → (t.port p).box? (some k) = none)

/-- R508: an accepted LIST_SET sets the ring and makes END, CMD_BEGUN and CMD_DONE equal to START. R510: LIST_EXTEND
appends up to END - 1. It is accepted when (END - CMD_DONE) mod 2^32 and (END - present end) mod 2^32 are at most
LIST_CAP, refused with LIST_OVERRUN (0x0205) otherwise, and with LIST_INVALID (0x0204) when no LIST_SET has been
accepted for the context. Completes LIST_SET and LIST_EXTEND. -/
def Obligations.ListsAreSetAndExtended : Prop :=
  (∀ (s : State) (r : SlotRef) (b : Bytes) (c : Ctx), Taken s r .listSet b → s.wr = [] →
     let x := slotBody b
     let n := leAt x 0 4
     let start : Word := BitVec.ofNat 32 (leAt x 20 4)
     s.ctx? n = some c → leAt x 8 8 % 4096 = 0 → leAt x 8 8 < 2 ^ 48 → capOk (leAt x 16 4) = true →
     s.mapped n (leAt x 8 8) (leAt x 16 4 * 128) = true → c.begun = [] →
     (∀ l, c.list = some l → l.stop = l.done) →
     Gives (.listSet r) s fun t =>
       (∃ d l, t.ctx? n = some d ∧ d.list = some l ∧ l.base = leAt x 8 8 ∧ l.cap = leAt x 16 4 ∧ l.stop = start ∧
         l.begun = start ∧ l.done = start ∧ l.next = start) ∧
       t.mem = s.mem ∧ t.maps = s.maps ∧ Answered t r b Err.success (zeros 240)) ∧
  (∀ (s : State) (r : SlotRef) (b : Bytes) (c : Ctx), Taken s r .listExtend b → s.wr = [] →
     let n := leAt (slotBody b) 0 4
     let stop : Word := BitVec.ofNat 32 (leAt (slotBody b) 4 4)
     s.ctx? n = some c →
     (∀ l, c.list = some l → (stop - l.done).toNat ≤ l.cap → (stop - l.stop).toNat ≤ l.cap →
       Gives (.listExtend r) s fun t =>
         (∃ d, t.ctx? n = some d ∧ d.list = some { l with stop := stop }) ∧ t.mem = s.mem ∧
           Answered t r b Err.success
             (replyBody (leBytes 4 stop.toNat ++ leBytes 4 l.begun.toNat ++ leBytes 4 l.done.toNat))) ∧
     (∀ l, c.list = some l → (l.cap < (stop - l.done).toNat ∨ l.cap < (stop - l.stop).toNat) →
       Gives (.listExtend r) s fun t => Answered t r b 0x0205 (zeros 240) ∧ t.ctxs = s.ctxs) ∧
     (c.list = none → Gives (.listExtend r) s fun t => Answered t r b 0x0204 (zeros 240) ∧ t.ctxs = s.ctxs))

/-- R520, R522: QUERY_CAPS replies bytes 240 x PAGE to 240 x PAGE + 239 of the capability page, zero beyond byte 95, and
is refused with CAPS_INVALID (0x0207) for a PAGE above 17; it changes nothing but its slot. Completes QUERY_CAPS. -/
def Obligations.QueryCapsReadsThePage : Prop :=
  ∀ (s : State) (r : SlotRef) (b : Bytes), Taken s r .queryCaps b → s.wr = [] →
    let page := (byteAt (slotBody b) 0).toNat
    (page ≤ 17 → Gives (.queryCaps r) s fun t =>
      Answered t r b Err.success
          ((List.range 240).map fun i => if 240 * page + i < 96 then byteAt s.capsHead (240 * page + i) else 0) ∧
        t = { s with ports := t.ports, ccx := t.ccx, out := t.out }) ∧
    (17 < page → Gives (.queryCaps r) s fun t =>
      Answered t r b 0x0207 (zeros 240) ∧ t = { s with ports := t.ports, ccx := t.ccx, out := t.out })

/-- R413, R414, R456: a PARTITION_SET that breaks R413 is refused with PARTITION_INVALID (0x0305) and changes no mask; one
that moves no context with a save area applies at once where no core command of a context whose mask changes is begun,
and waits otherwise; PARTITION_APPLY applies the waiting masks once none is. A core that moves raises its epoch. Completes
PARTITION_SET and PARTITION_APPLY. -/
def Obligations.PartitionsApply : Prop :=
  ∀ (s : State) (r : SlotRef) (b : Bytes), s.wr = [] →
    let x := slotBody b
    let masks := (List.range (byteAt x 0).toNat).map (bodyMask x)
    let changed := s.ctxs.filter fun c => s.partitions.getD c.partition 0 != masks.getD c.partition 0
    (Taken s r .partitionSet b → s.partitionBad x = true → Gives (.partitionSet r) s fun t =>
      Answered t r b 0x0305 (zeros 240) ∧ t.partitions = s.partitions) ∧
    (Taken s r .partitionSet b → s.partitionBad x = false → (∀ c ∈ changed, c.savePages = []) →
      ((∀ c ∈ changed, s.coreBegun c.num = false) → Gives (.partitionSet r) s fun t =>
        t.partitions = masks ∧ t.turns.length = masks.length ∧ Answered t r b Err.success (zeros 240) ∧
          ∀ (i : Nat) (c d : Machine.Core), s.cores[i]? = some c → t.cores[i]? = some d →
            d = { c with epoch := if partOf s.partitions i = partOf masks i then c.epoch else c.epoch + 1 }) ∧
      ((∃ c ∈ changed, s.coreBegun c.num = true) → Gives (.partitionSet r) s fun t =>
        t.partitions = s.partitions ∧ Waits t s r b ∧
          t.partWait = some { seq := s.ccx.takeSeq, masks := masks, affected := changed.map fun c => c.num })) ∧
    ∀ p : PendingPartition, s.running = true → s.partWait = some p → (∀ n ∈ p.affected, s.coreBegun n = false) →
      Gives .partitionApply s fun t => t.partitions = p.masks ∧ t.partWait = none ∧
        ∀ m ∈ t.ccx.msgs, m.seq = p.seq → m.state ≠ .waiting

/-! ### Memory (08) -/

/-- R360, R361: an accepted MEM_MAP allocate adds one mapping of CTX over exactly the range it names, with as many pages
as the range holds, all of them distinct and, in the stack tier, none in use before, and replies their count; with ZERO
the reply waits and the movers have the range to fill (R366, R385). Which free pages is the firmware's choice (log entry 4).
R362, R357: an accepted MEM_MAP share makes every address of the new range name the byte that the same place of the source
range's mapping names, part by part, and every new mapping is an alias of its source. Completes MEM_MAP allocate and MEM_MAP
share. -/
def Obligations.MappingsAreMade : Prop :=
  (∀ (s : State) (r : SlotRef) (b : Bytes) (ps : List Nat) (u v : State), Taken s r .mapAllocate b → s.wr = [] →
     let x := slotBody b
     let tier := if byteAt x 1 = 0 then Tier.stack else Tier.bulk
     let size := if byteAt x 2 = 1 then 65536 else 2 ^ 21
     let n := leAt x 8 4
     let va := leAt x 16 8
     let len := leAt x 24 8
     let m : Mapping :=
       { id := u.nextMap, ctx := n, base := va, length := len, tier := tier, psize := size,
         readOnly := bitOf (byteAt x 3).toNat 0, pages := ps, charged := n, source := none }
     mapAllocateOk x = true → s.overlaps n va len = false →
     s.fits n (8 * (len / size) + if tier = .stack then len else 0) (if tier = .bulk then len else 0) = true →
     (s.markTaken r b false).allocPages tier size (byteAt x 4).toNat (len / size) = some (ps, u) →
     ({ u with maps := u.maps ++ [m], nextMap := u.nextMap + 1 } : State).fitFw = some v →
     Gives (.memMapAllocate r) s fun t =>
       t.maps = s.maps ++ [m] ∧ ps.length = len / size ∧ ps.Nodup ∧
         (tier = .stack → ∀ a ∈ ps, a ∉ s.usedStack) ∧ t.nextMap = s.nextMap + 1 ∧ t.ctxs = s.ctxs ∧
         (bitOf (byteAt x 3).toNat 1 = false → t.jobs = s.jobs ∧
           Answered t r b Err.success (replyBody (leBytes 4 (len / size) ++ leBytes 1 (unitOf (ps.getD 0 0))))) ∧
         (bitOf (byteAt x 3).toNat 1 = true → Waits t s r b ∧ ∃ j w, t.jobs = s.jobs ++ [j] ∧ j.fw = some w ∧
           w.total = len / 65536 ∧ w.next = 0)) ∧
  (∀ (s : State) (r : SlotRef) (b : Bytes) (ps : List (Mapping × Nat × Nat)) (v : State), Taken s r .mapShare b →
     s.wr = [] →
     let x := slotBody b
     let n := leAt x 8 4
     let src := leAt x 12 4
     let va := leAt x 16 8
     let len := leAt x 24 8
     let sva := leAt x 32 8
     let ms := shareMaps n (bitOf (byteAt x 3).toNat 0) s.nextMap va ps
     byteAt x 1 = 0 → byteAt x 2 = 0 → byteAt x 4 = 0 → (byteAt x 3).toNat ≤ 1 → 0 < len → va + len ≤ 2 ^ 48 →
     sva + len ≤ 2 ^ 48 → s.shareParts src (s.maps.length + 1) sva len = some ps → partsAligned va ps = true →
     s.overlaps n va len = false → s.fits n (8 * ms.foldl (fun a y => a + y.pages.length) 0) 0 = true →
     ({ s.markTaken r b false with maps := s.maps ++ ms, nextMap := s.nextMap + ms.length } : State).fitFw = some v →
     Gives (.memMapShare r) s fun t =>
       (∀ (j : Nat) (p : Mapping × Nat × Nat), ps[j]? = some p → ∀ i, i < p.2.2 →
         t.translate n (va + ((ps.take j).map fun q => q.2.2).sum + i) false = .ok (p.1.phys (p.1.base + p.2.1 + i))) ∧
       (ps.map fun q => q.2.2).sum = len ∧ t.maps = s.maps ++ ms ∧ (∀ y ∈ ms, y.source.isSome = true) ∧
       ∀ k c, s.ctx? k = some c → ∃ y, t.ctx? k = some y ∧ y.list = c.list ∧ y.begun = c.begun ∧ y.records = c.records)

/-- R364, R365: MEM_UNMAP removes every mapping of CTX that lies wholly within the range, with the aliases made from them,
at once where no command of a context that holds one is begun, and replies the pages of CTX removed. Where one is, the
message waits and the mappings of the contexts with begun commands stay until MEM_UNMAP_APPLY finds a context's earlier
commands ended. Completes MEM_UNMAP and MEM_UNMAP_APPLY. -/
def Obligations.UnmapRemovesAndWaits : Prop :=
  ∀ (s : State) (r : SlotRef) (b : Bytes), s.wr = [] →
    let x := slotBody b
    let n := leAt x 0 4
    let va := leAt x 8 8
    let len := leAt x 16 8
    let own := s.maps.filter fun m => m.ctx == n && decide (va ≤ m.base) && decide (m.base + m.length ≤ va + len)
    let ids := s.closureOf (own.map fun m => m.id)
    let pages := own.foldl (fun a m => a + m.pages.length) 0
    (Taken s r .memUnmap b → va % 65536 = 0 → va < 2 ^ 48 → 0 < len → len % 65536 = 0 →
      ((∀ c ∈ s.holdersOf ids, s.begunOf c = []) → Gives (.memUnmap r) s fun t =>
        t.maps = (s.maps.filter fun m => !ids.contains m.id) ∧
          (∀ m ∈ t.maps, m.ctx = n → ¬(va ≤ m.base ∧ m.base + m.length ≤ va + len)) ∧
          Answered t r b Err.success (replyBody (leBytes 4 pages)) ∧ t.mem = s.mem) ∧
      ((∃ c ∈ s.holdersOf ids, s.begunOf c ≠ []) → Gives (.memUnmap r) s fun t =>
        Waits t s r b ∧ (∀ m ∈ s.maps, s.begunOf m.ctx ≠ [] → m ∈ t.maps) ∧
          (∃ u ∈ t.unmaps, u.seq = s.ccx.takeSeq ∧ u.ids = ids ∧ u.pages = pages) ∧
          ∀ c ∈ s.holdersOf ids, s.begunOf c ≠ [] → t.ctxHeld c = true)) ∧
    (Taken s r .memUnmap b → (va % 65536 ≠ 0 ∨ 2 ^ 48 ≤ va ∨ len = 0 ∨ len % 65536 ≠ 0) → Gives (.memUnmap r) s fun t =>
      Answered t r b 0x0905 (zeros 240) ∧ t.maps = s.maps) ∧
    ∀ (c : Nat) (u : PendingUnmap), s.running = true → s.readyUnmap c = some u →
      Gives (.memUnmapApply c) s fun t =>
        (∀ m ∈ t.maps, m.ctx = c → m.id ∉ s.closureOf u.ids) ∧
          (∀ m ∈ s.maps, m.ctx ≠ c → m ∈ t.maps) ∧
          (u.affected = [c] → ∀ m ∈ t.ccx.msgs, m.seq = u.seq → m.state ≠ .waiting)

/-- R404: the reply of REPAIR_QUERY shows the spare rows of each bank of a channel in two bits, then its corrected errors;
R369: a corrected error that a scrub reads is counted against its channel and its row and changes no byte. R407 to
R409: a LOOPBACK of a site runs and waits; when its bursts have ended it is replied with 64 error counts for each
channel, stopping at 255 and zero for a channel not selected. Completes REPAIR_QUERY, SCRUB_READ, LOOPBACK and
LOOPBACK_DONE. -/
def Obligations.MemoryIsTestedAndScrubbed : Prop :=
  (∀ (s : State), s.wr = [] →
     (∀ (r : SlotRef) (b : Bytes), Taken s r .repairQuery b →
       let site := (byteAt (slotBody b) 0).toNat
       let chan := (byteAt (slotBody b) 1).toNat
       (site < 8 → chan < 32 → Gives (.repairQuery r) s fun t =>
         ∃ body, Answered t r b Err.success body ∧
           (∀ k, k < 64 → (byteAt body (k / 4)).toNat / 4 ^ (k % 4) % 4 = (s.site site).spares chan k) ∧
           leAt body 16 4 = (((s.site site).corrected.find? fun p => p.1 == chan).elim 0 fun p => p.2) % 2 ^ 32 ∧
           t = { s with ports := t.ports, ccx := t.ccx, out := t.out }) ∧
       (¬(site < 8 ∧ chan < 32) → Gives (.repairQuery r) s fun t => Answered t r b 0x0908 (zeros 240))) ∧
     ∀ (u off : Nat), s.phase = .ready → u < s.sites.length → (s.site u).present = true →
       Gives (.scrubRead false u off .corrected) s fun t =>
         (t.site u).corrected = bumpChan (s.site u).corrected (off / 256 % 32) ∧
           (t.site u).reads ⟨u, off / 256 % 32, off / 8192 % 64, off / 2 ^ 21⟩ =
             (s.site u).reads ⟨u, off / 256 % 32, off / 8192 % 64, off / 2 ^ 21⟩ + 1 ∧ t = { s with sites := t.sites }) ∧
  (∀ (s : State), s.wr = [] →
     (∀ (r : SlotRef) (b : Bytes), Taken s r .loopback b →
       let x := slotBody b
       let mask := (byteAt x 1).toNat
       (1 ≤ mask ∧ mask ≤ 3) → (byteAt x 0).toNat < 8 → (byteAt x 2).toNat ≤ 2 → 0 < leAt x 4 4 → leAt x 4 4 ≤ 2 ^ 24 →
       Gives (.loopback r) s fun t =>
         t.loop = some { seq := s.ccx.takeSeq, site := (byteAt x 0).toNat, mask := mask } ∧ Waits t s r b ∧
           t = { s with loop := t.loop, ports := t.ports, ccx := t.ccx }) ∧
     ∀ (l : LoopRun) (m : Msg) (b : Bytes) (es : List Nat), s.running = true → s.loop = some l →
       (s.ccx.msgs.find? fun y => y.seq == l.seq && y.state == .waiting) = some m → m.discard = false →
       m.port < s.ports.length → s.slot? { port := m.port, box := m.box, slot := m.slot } = some b →
       Gives (.loopbackDone es) s fun t =>
         t.loop = none ∧ ∃ y, t.slot? { port := m.port, box := m.box, slot := m.slot } = some y ∧
           sealState (slotSealWord y) = 3 ∧
           ∀ i, i < 128 → byteAt (slotBody y) i =
             if l.mask / 2 ^ (i / 64) % 2 = 1 then BitVec.ofNat 8 (min (es.getD i 0) 255) else 0)

/-- R398 to R400, R405: a row that gave eight corrected reads or an uncorrectable error, or that the owner names, takes a
spare of its bank while one is left: the remapping is journalled, the bank has one spare less, and the reply of
REPAIR_APPLY says so. Without a spare the row's page is retired, and REPAIR_APPLY is refused with REPAIR_NO_SPARE (0x0909)
unless it allows that. R402: at a context's quiescent point the copy of a retired page takes its place in every mapping
of the context, so that each address of it then names the copy; other contexts' mappings and every byte stay. Completes
STACK_ROW_REMAP, REPAIR_APPLY and PAGE_REPLACE. -/
def Obligations.PagesAreRepaired : Prop :=
  (∀ (s : State), s.wr = [] →
     (∀ (row : RowRef) (unc : Bool), s.running = true → (s.site row.site).present = true →
       (unc = true ∨ 8 ≤ (s.site row.site).reads row) → 0 < (s.site row.site).spares row.chan row.bank →
       s.store.room 1 = true →
       Gives (.stackRowRemap row unc) s fun t =>
         (t.site row.site).spares row.chan row.bank + 1 = (s.site row.site).spares row.chan row.bank ∧
           (row.chan, row.bank, row.row) ∈ (t.site row.site).used ∧ (t.site row.site).reads row = 0 ∧
           t.store.lastSeq > s.store.lastSeq ∧ t.maps = s.maps ∧ t.ctxs = s.ctxs ∧ (unc = false → t.mem = s.mem)) ∧
     (∀ (row : RowRef) (unc : Bool), s.running = true → (s.site row.site).present = true →
       (unc = true ∨ 8 ≤ (s.site row.site).reads row) → (s.site row.site).spares row.chan row.bank = 0 →
       s.store.room 0 = true →
       Gives (.stackRowRemap row unc) s fun t =>
         rowPage row ∈ t.retired ∧ t.store.lastSeq > s.store.lastSeq ∧ t.sites = s.sites ∧
           (unc = true → ∀ m ∈ t.maps, m.touches (rowPage row) = false)) ∧
     ∀ (r : SlotRef) (b : Bytes), Taken s r .repairApply b →
       let x := slotBody b
       let site := (byteAt x 0).toNat
       let chan := (byteAt x 1).toNat
       let bank := (byteAt x 2).toNat
       site < 8 → chan < 32 → bank < 64 → leAt x 4 4 < 32768 → (byteAt x 3).toNat ≤ 1 → site < s.sites.length →
       (0 < (s.site site).spares chan bank → s.store.reserveOnly = false → s.store.room 1 = true →
         Gives (.repairApply r) s fun t =>
           (t.site site).spares chan bank + 1 = (s.site site).spares chan bank ∧
             (chan, bank, leAt x 4 4) ∈ (t.site site).used ∧ t.mem = s.mem ∧ t.maps = s.maps ∧
             Answered t r b Err.success
               (replyBody (leBytes 1 0 ++ leBytes 1 ((s.site site).spares chan bank - 1)))) ∧
       ((s.site site).spares chan bank = 0 → byteAt x 3 = 0 → Gives (.repairApply r) s fun t =>
         Answered t r b 0x0909 (zeros 240) ∧ t.sites = s.sites ∧ t.store = s.store)) ∧
  (∀ (s : State) (n page : Nat) (p : PendingPage), s.wr = [] → s.phase = .ready → s.begunOf n = [] →
     (s.pageMoves.find? fun x => x.old == page && x.copied) = some p → p.new ≠ p.old →
     Gives (.pageReplace n page) s fun t =>
       (∀ m ∈ t.maps, m.ctx = n → p.old ∉ m.pages) ∧ t.maps.length = s.maps.length ∧
         (∀ (i : Nat) (m : Mapping), s.maps[i]? = some m → t.maps[i]? = some
           (if m.ctx = n then { m with pages := m.pages.map fun a => if a = p.old then p.new else a } else m)) ∧
         t = { s with maps := t.maps, pageMoves := t.pageMoves, jobs := t.jobs })

/-! ### Sequences and their page tables (06) -/

/-- R258 to R263: an accepted create makes a sequence of the next handle whose first version is 1 and current; an accepted
edit against the latest version makes the next version pending, with the edits, LENGTH and scales of the message, and
leaves the current one; an accepted destroy takes the sequence from every later command, whatever its BASE_VERSION; an edit
against another version is refused with PT_VERSION_CONFLICT (0x060A), and one that breaks order 1 of Table 15 of 06 with
SEQ_INVALID (0x0603). Completes PT_COMMIT create, edit and destroy. -/
def Obligations.PageTableCommits : Prop :=
  ∀ (s : State) (r : SlotRef) (b : Bytes), s.wr = [] →
    let x := parsePt (slotBody b)
    (∀ (c : PtChange) (v : State), Taken s r .ptCreate b → x.flags ≤ 7 → x.seq = 0 → x.base = 0 →
      s.ptShapeBad x = false → s.ptChange x (s.newSeq x) = some c → (4 ≤ x.fmt → c.scales.isSome = true) →
      s.fits x.ctx (48 * x.hkv * x.cap) 0 = true →
      let q := { s.newSeq x with current := s.applyChange (s.newSeq x) c emptyVersion }
      ({ s.markTaken r b false with seqs := s.seqs ++ [q], nextSeq := s.nextSeq + 1 } : State).fitFw = some v →
      Gives (.ptCommitCreate r) s fun t =>
        t.seqs = s.seqs ++ [q] ∧ q.handle = s.nextSeq ∧ q.current.version = 1 ∧ q.pending = none ∧
          t.nextSeq = s.nextSeq + 1 ∧
          Answered t r b Err.success (replyBody (leBytes 4 s.nextSeq ++ leBytes 4 1 ++ leBytes 1 q.swapAt))) ∧
    (∀ (q : Sequence) (c : PtChange), Taken s r .ptEdit b → s.ptNamed x = some q → x.base = q.latest.version →
      s.ptChange x q = some c → (q.pending = none → q.hasFree = true) →
      let v := { s.applyChange q c q.latest with version := q.latest.version + 1 }
      Gives (.ptCommitEdit r) s fun t =>
        (∃ y, t.seq? x.seq = some y ∧ y.pending = some v ∧ y.current = q.current) ∧
          (∀ h, h ≠ x.seq → t.seq? h = s.seq? h) ∧
          t = { s with seqs := t.seqs, ports := t.ports, ccx := t.ccx, out := t.out }) ∧
    (∀ q : Sequence, Taken s r .ptDestroy b → s.ptNamed x = some q → x.changes = false → Gives (.ptCommitDestroy r) s fun t =>
        t.seq? x.seq = none ∧ t.mem = s.mem ∧ t.ctxs = s.ctxs ∧ t.maps = s.maps) ∧
    (∀ q : Sequence, Taken s r .ptEdit b → s.ptNamed x = some q → x.base ≠ q.latest.version →
      Gives (.ptCommitEdit r) s fun t => Answered t r b 0x060A (zeros 240) ∧ t.seqs = s.seqs) ∧
    (Taken s r .ptEdit b → s.ptNamed x = none → Gives (.ptCommitEdit r) s fun t =>
      Answered t r b 0x0603 (zeros 240) ∧ t.seqs = s.seqs)

/-! ### The step table (09) -/

/-- R459 to R462: STEP_ADD puts a new active entry at the lowest-numbered free index and replies it; an update waits in
its entry; STEP_RETIRE frees a finished entry at once, leaves an active one to the next STEP_BUILD, and is refused for a
closing one. Completes STEP_ADD with OP 0, STEP_ADD with OP 1 and STEP_RETIRE. -/
def Obligations.StepTableEntries : Prop :=
  ∀ (s : State) (r : SlotRef) (b : Bytes), s.wr = [] →
    let x := parseStep (slotBody b)
    (∀ (i : Nat) (v : State), Taken s r .stepAdd b → x.addBad = false → s.stepOwnerOk x.ctx = true →
      s.stepCtxOk x.stepCtx = true → s.stepMapped x.ctx x.latent x.condAddr x.conds x.adapter = true →
      s.fits x.ctx 128 0 = true → s.freeEntry = some i →
      ((s.markTaken r b false).addEntry (x.newEntry i s.ord)).fitFw = some v →
      Gives (.stepAdd r) s fun t =>
        t.entry? i = some (x.newEntry i s.ord) ∧ (∀ j, j < i → (s.entry? j).isSome = true) ∧
          (∀ j, j ≠ i → t.entry? j = s.entry? j) ∧
          Answered t r b Err.success (replyBody (leBytes 4 i)) ∧ t.ctxs = s.ctxs ∧ t.maps = s.maps) ∧
    (∀ e : Entry, Taken s r .stepUpdate b → x.updateBad = false → s.stepOwnerOk x.ctx = true →
      s.entry? x.entry = some e → e.ctx = x.ctx → e.state = .active → s.adapterMapped x = true →
      Gives (.stepAddUpdate r) s fun t =>
        t.entry? x.entry = some { e with update := some x.update } ∧ (∀ j, j ≠ x.entry → t.entry? j = s.entry? j) ∧
          t = { s with entries := t.entries, ports := t.ports, ccx := t.ccx, out := t.out }) ∧
    ∀ e : Entry, Taken s r .stepRetire b → s.entry? (leAt (slotBody b) 4 4) = some e →
      e.ctx = leAt (slotBody b) 0 4 →
      (e.state = .finished → Gives (.stepRetire r) s fun t =>
        t.entry? e.index = none ∧ Answered t r b Err.success (zeros 240) ∧ ∀ j, j ≠ e.index → t.entry? j = s.entry? j) ∧
      (e.state = .active → Gives (.stepRetire r) s fun t =>
        t.entry? e.index = some { e with retireReq := true } ∧ Answered t r b Err.success (zeros 240) ∧
          ∀ j, j ≠ e.index → t.entry? j = s.entry? j) ∧
      (e.state = .closing → Gives (.stepRetire r) s fun t =>
        Answered t r b 0x0306 (zeros 240) ∧ t.entries = s.entries)

/-- R22, R40, R464, R466, R472: a STEP_BUILD of a step context takes the next BUILD_SEQ of its number and stands begun; every
entry it considers and keeps carries that number as placed or skipped, and its step index has risen by one exactly where its
work list ended without a fault; the items placed are numbered from 0 and are at most LIMIT; and no byte outside the eight
lists and the report changes. R463, R471: in an ordinary context, or outside Table 16, it is invalid with STEP_BUILD_INVALID
(0x0309), and one whose ranges may not be written faults its context with that access's code. Completes STEP_BUILD. -/
def Obligations.StepBuildAccountsForEveryEntry : Prop :=
  ∀ (s : State) (n : Nat) (c : Ctx) (l : CmdList) (d : Bytes), Fetched s n c l d → isOpcode 10 d = true → s.wr = [] →
    let x := parseBuild d
    let seq : Word := if s.lastSeq n = 0xFFFFFFFF then 1 else s.lastSeq n + 1
    ((c.step = false ∨ x.bad d = true) → Gives (.stepBuild n) s fun t =>
      FaultedBy t n c l.next (descOpcode d) (descPolicy d) 0x0309) ∧
    (∀ f, c.step = true → x.bad d = false → s.buildRange n x = some f → Gives (.stepBuild n) s fun t =>
      FaultedBy t n c l.next (descOpcode d) (descPolicy d) f.1) ∧
    (c.step = true → x.bad d = false → s.buildRange n x = none →
    Gives (.stepBuild n) s fun t =>
      t.lastSeq n = seq ∧
        (∀ e ∈ t.entries, e.matches n x = true → e.buildSeq = seq ∧ (e.last = 1 ∨ e.last = 2) ∧
          ∃ o ∈ s.entries, o.index = e.index ∧ e.stepIndex = if o.advances then o.stepIndex + 1 else o.stepIndex) ∧
        (∃ y items, t.ctx? n = some y ∧ y.build = some items ∧ items.length ≤ x.limit ∧
          ∀ (i : Nat) (it : BuildItem), items[i]? = some it → it.item = i) ∧
        (∃ b, StandsBegun t n c l d b ∧ b.waiting = false) ∧ OthersKeep s t n ∧
        ∀ a, (∀ i, i < 8 * 32832 → s.physOf n (x.lists + i) ≠ a) →
          (∀ i, i < 32 + 8 * s.entries.length → s.physOf n (x.report + i) ≠ a) → t.mem.get a = s.mem.get a)

/-! ### Resets, the start and recovery (16, 17) -/

/-- R745, R747: MOD_RESET_N low for 100 us or more on a powered module, and the switch opening at an input below 44.0 V
for 100 us, above 60.0 V, or at a current above 110 A for 50 us, lose every state but the store, the fuses and the
repairs made in the stacks; a shorter pulse is ignored, and an assertion while the switch is open is only noted.
Completes FUNDAMENTAL_RESET, HOTSWAP_OPEN and HOTSWAP_CLOSE. -/
def Obligations.ResetsLoseAllButTheStore : Prop :=
  ∀ s : State, s.wr = [] →
    (s.phase ≠ .unpowered →
      (∀ us, 100 ≤ us → Gives (.fundamentalReset us) s fun t => t.phase = .inReset ∧ t.pins.pwrOk = true ∧ LosesAll s t) ∧
      (∀ us, us < 100 → exec (.fundamentalReset us) s = .next s) ∧
      ∀ cause : HotswapCause,
        ((∃ mv us, cause = .under mv us ∧ mv < 44000 ∧ 100 ≤ us) ∨ (∃ mv, cause = .over mv ∧ 60000 < mv) ∨
          ∃ a us, cause = .current a us ∧ 110 < a ∧ 50 ≤ us) →
        Gives (.hotswapOpen cause) s fun t => t.phase = .unpowered ∧ t.pins.pwrOk = false ∧ LosesAll s t) ∧
    (s.phase = .unpowered →
      (∀ us, exec (.fundamentalReset us) s = .next { s with pins := { s.pins with resetSeen := true } }) ∧
      (∀ mv below, (below = true ∨ s.pins.resetSeen = true) → 46000 ≤ mv → mv ≤ 58000 →
        exec (.hotswapClose mv below) s =
          .next { s with phase := .inReset, pins := { s.pins with pwrOk := true, resetSeen := false } }) ∧
      ∀ mv below, ((below = false ∧ s.pins.resetSeen = false) ∨ mv < 46000 ∨ 58000 < mv) →
        exec (.hotswapClose mv below) s = .next s)

/-- R704, R722 to R726, R742, R747: a start out of reset with no slot to run halts with FW_NONE_BOOTABLE (0x0C0D). A valid
trial slot with a try left runs, with one more try spent; without a trial the preferred slot runs where it is GOOD and
valid, and else the other slot where that is. With a base and nothing of the journal or the stacks found bad, the start
ends ready when the essential units and at least one core and one stack site pass: with no owner, every duty 64, one
partition of every core present, and the ports of its split up where PERST# is released and the link trained; else it
halts with START_FAILED (0x0C0E). Completes MODULE_START. -/
def Obligations.StartReachesReady : Prop :=
  ∀ (s : State) (inp : StartInputs), s.phase = .inReset → s.pins.pwrOk = true → s.wr = [] → inp.recoverLow = false →
    (s.store.fw0.valid = false → s.store.fw1.valid = false → Gives (.moduleStart inp) s fun t =>
      t.phase = .startHalted ∧ t.ccx.halted = true ∧ t.ccx.haltCode = 0x0C0D) ∧
    (∀ k, k < 2 → s.store.preferred < 2 →
      inp.noBase = false → inp.missing = none → inp.badCheck = none → inp.badRows = [] → inp.badPages = [] →
      inp.badSensors = [] → inp.badFieldSensors = [] →
      let f := s.store.slot k
      let o := s.store.slot (1 - k)
      let tried := f.state = .trial ∧ f.tries < 3
      s.store.slotValid k = true → o.state ≠ .trial →
      (tried ∨ f.state = .good ∧ (s.store.preferred = k ∨ o.state ≠ .good ∨ s.store.slotValid (1 - k) = false)) →
      let some1 := (∃ n c, n < s.part.cores ∧ s.cores[n]? = some c ∧ s.coreFails inp n = false ∧
          s.store.find Kind.coreWithdraw [n] = none) ∧
        ∃ i x, i < s.part.sites ∧ i < 8 ∧ s.sites[i]? = some x ∧ i ∉ inp.badSites
      (inp.essential = true → some1 → s.cores.length = 128 → Gives (.moduleStart inp) s fun t =>
        t.phase = .ready ∧ t.ccx.halted = false ∧ t.ccx.service = false ∧ t.store.running = some k ∧
          (tried → t.store.slot k = { f with tries := f.tries + 1 }) ∧ (f.state = .good → t.store.slot k = f) ∧
          t.own.owner = none ∧ t.heat = Heat.reset ∧ t.ctxs = [] ∧ t.maps = [] ∧
          (∃ m, t.partitions = [m] ∧ ∀ (n : Nat) (c : Machine.Core), t.cores[n]? = some c → m.getLsbD n = c.present) ∧
          ∀ p, p < 4 → (t.port p).present = decide (p < splitPorts (splitOf inp.split)) ∧
            ((t.port p).linkUp = true ↔
              (t.port p).present = true ∧ p ∈ inp.perst ∧ ∃ l, (p, l) ∈ inp.links)) ∧
      ((inp.essential = false ∨ (s.cores.length = 128 ∧ ¬some1)) → Gives (.moduleStart inp) s fun t =>
        t.phase = .startHalted ∧ t.ccx.halted = true ∧ t.ccx.haltCode = 0x0C0E))

/-- R753, R754: a start with RECOVER_N low runs no firmware and trains H0 alone; a GO there judges the image in the
buffer under R702 and is served, and one written meanwhile is discarded; RECOVERY_DONE puts a good image into slot 0, or
into slot 1 where slot 0 is GOOD, as TRIAL with no try spent, and shows DONE with the outcome. An image whose blocks fail
with no spare left leaves its slot EMPTY and shows FW_SIGNATURE_INVALID (0x0C08): the model's choice (log entry 55).
Completes RECOVERY_GO, RECOVERY_DONE and the recovery form of MODULE_START. -/
def Obligations.RecoveryLoadsAnImage : Prop :=
  ∀ s : State, s.wr = [] →
    (∀ inp : StartInputs, s.phase = .inReset → s.pins.pwrOk = true → inp.recoverLow = true →
      Gives (.moduleStart inp) s fun t =>
        t.phase = .recovery ∧ t.store.running = none ∧ ∀ p, 0 < p → (t.port p).present = false) ∧
    (∀ (v : Word) (code : Code) (target : Option (Nat × FwSlot)), s.recovers 0 = true → v.getLsbD 31 = true →
      s.recoveryJudge (v.toNat % 2 ^ 17) = (code, target) →
      let image := s.judgeImage (s.loadBytes (stackAddr 0 0) (4096 * (v.toNat % 2 ^ 17)))
      (code ≠ 0 → target = none) ∧
      (code = 0 → 2 ≤ v.toNat % 2 ^ 17 ∧ v.toNat % 2 ^ 17 ≤ 65536 ∧ ∃ f, image = .ok f ∧
        target = some (if s.store.fw0.state = .good then 1 else 0, { f with state := .trial, tries := 0 })) ∧
      (s.rcv.serving = false →
        exec (.recoveryGo v) s = .next { s with rcv :=
          { control := v &&& 0x8001FFFF, status := 0, serving := true, outcome := code, target := target } }) ∧
      (s.rcv.serving = true → exec (.recoveryGo v) s = .next s)) ∧
    (s.phase = .recovery → s.rcv.serving = true →
      Gives .recoveryDone s fun t =>
        ((s.rcv.target = none ∨ s.store.holds = true) → t.rcv.status = 0x80000000 ||| s.rcv.outcome.zeroExtend 32) ∧
          t.rcv.serving = false ∧ t.rcv.control = s.rcv.control ∧
          (s.store.holds = true →
            (∀ f, s.rcv.target = some (0, f) → t.store = { s.store.nand with fw0 := f }) ∧
            ∀ f, s.rcv.target = some (1, f) → t.store = { s.store.nand with fw1 := f }) ∧
          (∀ k f, s.rcv.target = some (k, f) → s.store.holds = false →
            t.store = s.store.setSlot k FwSlot.empty ∧ t.rcv.status = 0x80000C08) ∧
          (s.rcv.target = none → t.store = s.store) ∧ t = { s with rcv := t.rcv, store := t.store })

/-- R731 to R734, R530: service mode is entered when no context exists and no session is up or opening, and refused with
SERVICE_MODE_INVALID (0x0C0C) otherwise; leaving it discards every staged copy, and is refused while a module that
started without a base has committed none. Either replies SUCCESS with no effect when the mode is already so. Completes
SERVICE_MODE enter and leave. -/
def Obligations.ServiceModeIsEnteredAndLeft : Prop :=
  ∀ (s : State) (r : SlotRef) (b : Bytes), s.wr = [] →
    (Taken s r .serviceEnter b →
      (s.ccx.service = false → s.ctxs = [] → (∀ p ∈ s.fab.peers, p.session = none ∧ p.hs = none) →
        Gives (.serviceModeEnter r) s fun t =>
          t.ccx.service = true ∧ Answered t r b Err.success (replyBody (leBytes 1 1)) ∧
            t = { s with ports := t.ports, ccx := t.ccx, out := t.out }) ∧
      (s.ccx.service = false →
        (s.ctxs ≠ [] ∨ ∃ p ∈ s.fab.peers, p.session.isSome = true ∨ p.hs.isSome = true) →
        Gives (.serviceModeEnter r) s fun t =>
          t.ccx.service = false ∧ Answered t r b 0x0C0C (zeros 240) ∧
            t = { s with ports := t.ports, ccx := t.ccx, out := t.out }) ∧
      (s.ccx.service = true → Gives (.serviceModeEnter r) s fun t =>
        t.ccx.service = true ∧ Answered t r b Err.success (replyBody (leBytes 1 1)) ∧
          t = { s with ports := t.ports, ccx := t.ccx, out := t.out })) ∧
    (Taken s r .serviceLeave b →
      (s.ccx.service = true → (s.plt.noBase = false ∨ s.store.committed = true) →
        Gives (.serviceModeLeave r) s fun t =>
          t.ccx.service = false ∧ (∀ f ∈ t.fab.ports, f.staged = none) ∧
            Answered t r b Err.success (replyBody (leBytes 1 0)) ∧ t.store = s.store ∧ t.mem = s.mem) ∧
      (s.ccx.service = true → s.plt.noBase = true → s.store.committed = false →
        Gives (.serviceModeLeave r) s fun t =>
          t.ccx.service = true ∧ t.fab = s.fab ∧ Answered t r b 0x0C0C (zeros 240)) ∧
      (s.ccx.service = false → Gives (.serviceModeLeave r) s fun t =>
        t.ccx.service = false ∧ t.fab = s.fab ∧ Answered t r b Err.success (replyBody (leBytes 1 0))))

/-- R663 to R666, R523: each powered hour is journalled and counted; at a multiple of 1,000 a core whose margin fails at
its maximum has the lower step, or its withdrawal, waiting; the core takes it at its apply point between commands, and
no apply point changes a core at work. Completes POWERED_HOUR_TICK and CONFIG_APPLY. -/
def Obligations.CoresAgeAtTheirApplyPoints : Prop :=
  ∀ s : State, s.wr = [] →
    (∀ margins : List (Nat × Option Nat), s.phase = .ready → s.ccx.halted = false → s.store.room 4 = true → (margins.map fun m => m.1).Nodup →
      Gives (.poweredHourTick margins) s fun t =>
        t.plt.hours = s.plt.hours + 1 ∧ s.store.lastSeq < t.store.lastSeq ∧ t.ctxs = s.ctxs ∧ t.mem = s.mem ∧
          ((s.plt.hours + 1) % 1000 ≠ 0 → t.cores = s.cores) ∧
          ((s.plt.hours + 1) % 1000 = 0 → t.ccx.halted = false →
            ∀ (n : Nat) (c : Machine.Core), s.cores[n]? = some c → c.here = true → c.nextOff = false →
              ((n, none) ∈ margins → t.cores[n]? = some { c with nextOff := true }) ∧
              (∀ k, (n, some k) ∈ margins → k < (c.nextMax.getD c.curMax).toNat →
                t.cores[n]? = some { c with nextMax := some (BitVec.ofNat 4 k) }) ∧
              (n ∉ (margins.map fun m => m.1) → t.cores[n]? = some c))) ∧
    ∀ (n : Nat) (c : Machine.Core), s.phase = .ready → s.cores[n]? = some c →
      Gives (.configApply (.core n)) s fun t =>
        t.cores[n]? = some (if c.busy = true then c else
          { c with curMax := c.nextMax.getD c.curMax, nextMax := none, withdrawn := c.withdrawn || c.nextOff,
                   nextOff := false }) ∧
          (∀ k, k ≠ n → t.cores[k]? = s.cores[k]?) ∧ t = { s with cores := t.cores }

/-! ### Power and heat (14) -/

/-- R667 to R670: a POWER_POLICY within Table 3 waits with its settings for the start of the next window, journalled first
when it persists; any other is refused with POWER_POLICY_INVALID (0x0C02), and one whose record R692 or the journal's
room denies with JOURNAL_FULL (0x0C05). Completes POWER_POLICY. -/
def Obligations.PowerPolicyWaitsForTheWindow : Prop :=
  ∀ (s : State) (r : SlotRef) (b : Bytes), Taken s r .powerPolicy b → s.wr = [] →
    let x := slotBody b
    let set := (byteAt x 0).toNat
    let legal := 1 ≤ set ∧ set ≤ 7 ∧ (byteAt x 1).toNat ≤ 7 ∧
      (if set % 2 = 1 then 1200 ≤ leAt x 2 2 ∧ leAt x 2 2 ≤ 3600 else leAt x 2 2 = 0)
    let cap := if set % 2 = 1 then leAt x 2 2 else s.plt.settings.1
    let cls := if set / 2 % 2 = 1 then (byteAt x 1).toNat else s.plt.settings.2
    (legal → (set / 4 % 2 = 1 → s.store.reserveOnly = false ∧ s.store.room 3 = true) →
      Gives (.powerPolicy r) s fun t =>
        t.plt = { s.plt with policyWait := s.plt.policyWait ++ [(cap, cls, s.ccx.takeSeq)] } ∧ Waits t s r b ∧
          (set / 4 % 2 = 1 → s.store.lastSeq < t.store.lastSeq) ∧ (set / 4 % 2 = 0 → t.store = s.store) ∧
          t = { s with plt := t.plt, store := t.store, ports := t.ports, ccx := t.ccx }) ∧
    (¬legal → Gives (.powerPolicy r) s fun t =>
      Answered t r b 0x0C02 (zeros 240) ∧ t = { s with ports := t.ports, ccx := t.ccx, out := t.out }) ∧
    (legal → set / 4 % 2 = 1 → (s.store.reserveOnly = true ∨ s.store.room 3 = false) → Gives (.powerPolicy r) s fun t =>
      Answered t r b 0x0C05 (zeros 240) ∧ t = { s with ports := t.ports, ccx := t.ccx, out := t.out })

/-- R671: a sample adds its energy to the window's. It moves D_p only before the window's last sample, once the load has
settled and with no thermal stop: to 0, or in proportion, where the draw exceeds what the rest of the window allows; up
by one from 0 with 50 W to spare, or up by one after ten samples where the estimate stays within 98% of the cap.
Completes POWER_SAMPLE. -/
def Obligations.BrakeMovesTheDuty : Prop :=
  ∀ (s : State) (mw : Nat) (settled : Bool), s.platformRuns = true → s.heat.sample < 1000 → s.wr = [] →
    let h := s.heat
    let left : Rat := ((999 - h.sample : Nat) : Rat)
    let allow : Rat := ((s.plt.capInForce : Rat) * 1000000 - ((h.energyNj + mw : Nat) : Rat)) / left
    let idle : Rat := (s.plt.idleW : Rat) * 1000
    let q : Rat := (mw : Rat)
    let est : Rat := idle + (q - idle) * ((h.dp + 1 : Nat) : Rat) / (h.dp : Rat)
    let moves := h.sample < 999 ∧ settled = true ∧ h.stopped = false
    let up := q ≤ allow ∧ ((h.dp = 0 ∧ q + 50000 ≤ allow) ∨ (0 < h.dp ∧ h.dp < 64 ∧ 9 ≤ h.sinceRise ∧
      est ≤ 98 / 100 * min ((s.plt.capInForce : Rat) * 1000) allow))
    Gives (.powerSample mw settled) s fun t =>
      t.heat.sample = h.sample + 1 ∧ t.heat.energyNj = h.energyNj + mw ∧
        (¬moves → t.heat.dp = h.dp) ∧
        (moves → allow < q → (allow ≤ idle ∨ q ≤ idle) → t.heat.dp = 0) ∧
        (moves → allow < q → idle < allow → idle < q →
          (t.heat.dp : Rat) ≤ (h.dp : Rat) * (allow - idle) / (q - idle) ∧
            (h.dp : Rat) * (allow - idle) / (q - idle) < (t.heat.dp : Rat) + 1) ∧
        (moves → up → t.heat.dp = h.dp + 1 ∧ t.heat.sinceRise = 0) ∧
        (moves → q ≤ allow → ¬up → t.heat.dp = h.dp) ∧
        t = { s with heat := t.heat } ∧
        t.heat = { h with dp := t.heat.dp, sinceRise := t.heat.sinceRise, sample := t.heat.sample, energyNj := t.heat.energyNj }

/-- R26, R667, R673, R679 to R682: the end of a window adds its energy to PLT_INPUT_ENERGY and divides what exceeds the idle
power among the contexts by their activity, each share rounded down; what a command of a step context causes is divided
among the owners of its items by the rows of the items, and the rest of that division goes to the step context, which
is the model's choice (log entry 39). PLT_ENERGY_SEQ rises, an excess is counted, and the waiting settings come into
force as min(CAP_W, BOARD_W), their messages then no longer waiting. Completes POWER_WINDOW_END. -/
def Obligations.WindowEndDividesItsEnergy : Prop :=
  ∀ (s : State) (activity : List (ActivityOwner × Nat)), s.platformRuns = true → 1000 ≤ s.heat.sample → s.wr = [] →
    let uj := s.heat.energyNj / 1000
    let rest := uj - min uj (s.plt.idleW * 1000)
    let total := (activity.map fun a => a.2).sum
    let got := fun (c : Nat) (a : ActivityOwner × Nat) =>
      let x := rest * a.2 / total
      match a.1 with
      | .ctx d => if d = c then x else 0
      | .items d i =>
        let rows := s.sharesOf d i
        let all := (rows.map fun r => r.2).sum
        ((rows.filter fun r => r.1 == c).map fun r => x * r.2 / all).sum +
          if d = c then x - (rows.map fun r => x * r.2 / all).sum else 0
    Gives (.powerWindowEnd activity) s fun t =>
      t.plt.inputUj = s.plt.inputUj + uj ∧ t.plt.energySeq = s.plt.energySeq + 1 ∧ t.plt.lastMeanW = uj / 1000 ∧
        t.plt.exceeded = (if 1000000 * s.plt.capInForce < s.heat.energyNj then satInc s.plt.exceeded 1 else s.plt.exceeded) ∧
        t.plt.capW = s.plt.settings.1 ∧ t.plt.classLimit = s.plt.settings.2 ∧ t.plt.policyWait = [] ∧
        t.plt.capInForce = min t.plt.capW s.plt.boardW ∧ t.heat = { s.heat with sample := 0, energyNj := 0 } ∧
        (s.ccx.halted = false → ∀ w ∈ s.plt.policyWait, ∀ m ∈ t.ccx.msgs, m.seq = w.2.2 → m.state ≠ .waiting) ∧
        (total = 0 → t.plt.ctxUj = s.plt.ctxUj) ∧
        (0 < total → ∀ c u, (c, u) ∈ s.plt.ctxUj →
          (c ∈ s.plt.destroyed → (c, u) ∈ t.plt.ctxUj) ∧
          (c ∉ s.plt.destroyed → (c, u + (activity.map (got c)).sum) ∈ t.plt.ctxUj)) ∧
        t = { s with plt := t.plt, heat := t.heat, ports := t.ports, ccx := t.ccx, out := t.out }

/-- R674, R675, R677, R678: a core reading above 105 degrees lowers that core's D_j by 8, to no less than 8, one at or
below 102 raises it, to no more than 64, and a failed sensor fixes it at 32; a failed field sensor fixes D_f at 32. A
reading in the thermal-stop column of Table 5 brings D_p to 0, halts the control complex with THERMAL_STOP (0x0C04)
and asserts THERM_TRIP_N. R393 to R395, R675: a stack reading moves the refresh step at once where it exceeds a higher
step's threshold, and down only 3 degrees below one; the throttle signal of a field begins above 100 degrees on either
of its sites and ends once both read 97 or less; and no site but the one read changes. D_f falls by 8 at a reading
while either site is above 100 degrees, to no less than 8, and rises by 8 while both are at or below 97, to no more than
64; it moves at the readings of the field's first present site, which is the model's choice (log entry 21). Completes
SENSOR_READING, STACK_TEMP_READING and COOLANT_READING. -/
def Obligations.SensorReadingsMoveTheDuties : Prop :=
  (∀ s : State, s.platformRuns = true → s.wr = [] →
     (∀ n d, n < s.part.cores → s.heat.dj[n]? = some d →
       (∀ c, c < 115 → n ∉ s.heat.djFailed → Gives (.sensorReading (.core n) (.celsius c)) s fun t =>
         t.heat.dj[n]? = some (if 105 < c then max 8 (d - 8) else if c ≤ 102 then min 64 (d + 8) else d) ∧
           (∀ k, k ≠ n → t.heat.dj[k]? = s.heat.dj[k]?) ∧ t.heat.dp = s.heat.dp ∧ t = { s with heat := t.heat }) ∧
       Gives (.sensorReading (.core n) .failed) s fun t =>
         t.heat.dj[n]? = some 32 ∧ n ∈ t.heat.djFailed ∧ t = { s with heat := t.heat }) ∧
     (∀ f d, f < s.part.fields → s.heat.df[f]? = some d → Gives (.sensorReading (.field f) .failed) s fun t =>
       t.heat.df[f]? = some 32 ∧ f ∈ t.heat.dfFailed ∧ t = { s with heat := t.heat }) ∧
     (s.heat.stopped = false → ∀ (sn : Sensor) (c : Nat),
       ((∃ n, sn = .core n ∧ n < s.part.cores ∧ 115 ≤ c) ∨ (∃ f, sn = .field f ∧ f < s.part.fields ∧ 115 ≤ c) ∨
         (∃ b, sn = .bulk b ∧ b < s.part.pkgs ∧ 105 < c) ∨ (sn = .coolant ∧ 60 < c)) →
       Gives (.sensorReading sn (.celsius c)) s fun t => Stopped s t) ∧
     (s.heat.stopped = false → ∀ n c, n < s.part.sites → 110 ≤ c → Gives (.stackTempReading n c) s fun t => Stopped s t) ∧
     (s.plt.coolantFresh = true → s.heat.stopped = false → 600 < s.plt.coolantVal →
       Gives .coolantReading s fun t => Stopped s t) ∧
     (s.plt.coolantFresh = true → s.plt.coolantVal ≤ 600 → Gives .coolantReading s fun t =>
       t.heat = { s.heat with coolantFailed := false } ∧ t.plt.coolantFresh = false ∧ t.plt.coolantStale = 0 ∧
         t = { s with heat := t.heat, plt := t.plt })) ∧
  (∀ (s : State) (n c : Nat) (x y : Site), s.platformRuns = true → s.wr = [] → n < s.part.sites → c < 110 →
     s.sites[n]? = some x → s.sites[if n % 2 = 0 then n + 1 else n - 1]? = some y → x.refresh ≤ 3 →
     let was := (n / 2) ∈ s.heat.hotFields
     Gives (.stackTempReading n c) s fun t =>
       (∃ z, t.sites[n]? = some z ∧ z = { x with temp := c, refresh := z.refresh } ∧ z.refresh ≤ 3 ∧
         (100 < c → z.refresh = 3) ∧ (95 < c → 2 ≤ z.refresh) ∧ (85 < c → 1 ≤ z.refresh) ∧
         (x.refresh < z.refresh → refreshAbove z.refresh < c) ∧
         (z.refresh < x.refresh → ∀ k, z.refresh < k → k ≤ x.refresh → c + 3 ≤ refreshAbove k)) ∧
       (∀ k, k ≠ n → t.sites[k]? = s.sites[k]?) ∧
       ((n / 2) ∈ t.heat.hotFields ↔ 100 < c ∨ 100 < y.temp ∨ (was ∧ ¬(c ≤ 97 ∧ y.temp ≤ 97))) ∧
       (n = s.paceSite (n / 2) → n / 2 ∉ s.heat.dfFailed → ∀ d, s.heat.df[n / 2]? = some d →
         t.heat.df[n / 2]? = some (if 100 < c ∨ 100 < y.temp then max 8 (d - 8)
           else if c ≤ 97 ∧ y.temp ≤ 97 then min 64 (d + 8) else d)) ∧
       ((n ≠ s.paceSite (n / 2) ∨ n / 2 ∈ s.heat.dfFailed) → t.heat.df = s.heat.df) ∧ t.heat.dj = s.heat.dj ∧ t.heat.dp = s.heat.dp ∧
       t = { s with sites := t.sites, heat := t.heat })

/-- R748 to R750: a declaration with VALID 1 and its reserved bits 0 sets BOARD_W, at most 3,600 W, and one without is
ignored; a read of PLT_SB_STATUS shows the halt code, THERM_TRIP, halted and ready bits, and what it saw releases
ALERT_N. Completes SB_BOARD_LIMIT_WRITE and SB_STATUS_READ. -/
def Obligations.SidebandDeclaresAndReads : Prop :=
  ∀ s : State, s.platformRuns = true → s.wr = [] →
    (∀ v : Word, v.getLsbD 31 = true → v.toNat / 2 ^ 16 % 2 ^ 15 = 0 →
      exec (.sbBoardLimitWrite v) s =
        .next { s with plt := { s.plt with boardReg := v, boardW := min (v.toNat % 65536) 3600 } }) ∧
    (∀ v : Word, (v.getLsbD 31 = false ∨ v.toNat / 2 ^ 16 % 2 ^ 15 ≠ 0) → exec (.sbBoardLimitWrite v) s = .next s) ∧
    Gives .sbStatusRead s fun t =>
      (∃ w : Word, t.out = s.out ++ [.sideband w] ∧ w.getLsbD 31 = decide (s.phase = .ready) ∧
        w.getLsbD 30 = s.ccx.halted ∧ w.getLsbD 29 = s.pins.thermTrip ∧ w.toNat / 256 % 65536 = s.ccx.haltCode.toNat ∧
        t.plt.sbSeen.toNat = w.toNat / 2 ^ 28) ∧ t.alertN = true ∧ t = { s with plt := t.plt, out := t.out }

/-! ### The store and the root of trust (15) -/

/-- R702, R706 to R708: FW_STAGE judges the image its range holds. One that passes empties the slot that is not running
and waits while it is written; FW_STAGE_DONE puts it there as STAGED and answers. The image then has the signature,
digest, length and SVN R702 asks for. A range outside the rule, an image refused by R708 and a running trial are
refused with no effect on the slots. R709 to R712: TRY makes the slot that is not running, STAGED or GOOD, a trial
with no try spent, while the running one is GOOD; CONFIRM makes the running trial GOOD and preferred; RAISE_SVN raises
MIN_SVN to the running GOOD slot's and marks an older image in the other slot BAD. Outside these each is refused with
FW_STATE_INVALID (0x0C0A). Where NAND blocks fail with no spare left (R688), a stage ends with FW_SIGNATURE_INVALID
(0x0C08) and its slot EMPTY, and an activation halts the control complex with JOURNAL_FAILED (0x0C06): the model's choice
(log entry 55). Completes FW_STAGE, FW_STAGE_DONE and FW_ACTIVATE TRY, CONFIRM and RAISE_SVN. -/
def Obligations.FirmwareSlotsAreStagedAndActivated : Prop :=
  (∀ s : State, s.wr = [] →
     (∀ (r : SlotRef) (b : Bytes), Taken s r .fwStage b →
       let n := leAt (slotBody b) 0 4
       let va := leAt (slotBody b) 8 8
       let len := leAt (slotBody b) 16 4
       let ranged := va % 4096 = 0 ∧ va < 2 ^ 48 ∧ 8192 ≤ len ∧ len ≤ 268435456 ∧ len % 4096 = 0
       (¬ranged → Gives (.fwStage r) s fun t => Answered t r b 0x0C07 (zeros 240) ∧ t.store = s.store) ∧
       (∀ img c, ranged → s.vread n va len = .ok img → s.judgeImage img = .error c → Gives (.fwStage r) s fun t =>
         Answered t r b c (zeros 240) ∧ t.store = s.store ∧ (c = 0x0C07 ∨ c = 0x0C08 ∨ c = 0x0C09)) ∧
       ∀ img f, ranged → s.vread n va len = .ok img → s.judgeImage img = .ok f →
         (s.store.runningSlot.state = .trial → Gives (.fwStage r) s fun t =>
           Answered t r b 0x0C0A (zeros 240) ∧ t.store = s.store) ∧
         (s.store.runningSlot.state ≠ .trial → Gives (.fwStage r) s fun t =>
           (t.store.slot s.store.otherSlot).state = .empty ∧
             t.store.staging = some { seq := s.ccx.takeSeq, slot := s.store.otherSlot, image := f } ∧
             Waits t s r b ∧ t = { s with store := t.store, ports := t.ports, ccx := t.ccx } ∧
             f.state = .staged ∧ f.svn = leAt img 8 4 ∧ s.store.minSvn ≤ f.svn ∧
             img.length = 4096 + leAt img 12 4 ∧ sm3 (img.drop 4096) = sliceBytes img 32 32 ∧
             sm2Verify (sliceBytes img 64 64) (sliceBytes img 0 128) (sliceBytes img 128 64) = true)) ∧
     ∀ g : Staging, s.running = true → s.store.staging = some g → g.slot < 2 → Gives .fwStageDone s fun t =>
       t.store.slot g.slot = (if s.store.holds = true then g.image else s.store.slot g.slot) ∧ t.store.slot (1 - g.slot) = s.store.slot (1 - g.slot) ∧ t.store.staging = none ∧
         (∀ m ∈ t.ccx.msgs, m.seq = g.seq → m.state ≠ .waiting) ∧
         t = { s with store := t.store, ports := t.ports, ccx := t.ccx, out := t.out }) ∧
  (∀ (s : State) (r : SlotRef) (b : Bytes), s.wr = [] →
     let n := (byteAt (slotBody b) 1).toNat
     let f := s.store.slot n
     let o := s.store.slot (1 - n)
     let same := fun t : State => t = { s with store := t.store, ports := t.ports, ccx := t.ccx, out := t.out }
     let turned := fun t : State => Answered t r b 0x0C0A (zeros 240) ∧ t.store = s.store ∧ same t
     let tryOk := n < 2 ∧ n = s.store.otherSlot ∧ (f.state = .staged ∨ f.state = .good) ∧ s.store.runningSlot.state = .good
     let confirmOk := n < 2 ∧ s.store.running = some n ∧ f.state = .trial
     let raiseOk := n < 2 ∧ s.store.running = some n ∧ f.state = .good
     let halts := fun t : State => t.ccx.halted = true ∧ t.ccx.haltCode = 0x0C06 ∧ t.store = s.store
     (Taken s r .fwTry b →
       (tryOk → s.store.holds = false → Gives (.fwActivateTry r) s halts) ∧
       (tryOk → s.store.holds = true → Gives (.fwActivateTry r) s fun t =>
         t.store.slot n = { f with state := .trial, tries := 0 } ∧ t.store.slot (1 - n) = o ∧
           t.store.preferred = s.store.preferred ∧ t.store.minSvn = s.store.minSvn ∧ same t) ∧
       (¬tryOk → Gives (.fwActivateTry r) s turned)) ∧
     (Taken s r .fwConfirm b →
       (confirmOk → s.store.holds = false → Gives (.fwActivateConfirm r) s halts) ∧
       (confirmOk → s.store.holds = true → Gives (.fwActivateConfirm r) s fun t =>
         t.store.slot n = { f with state := .good, tries := 0 } ∧ t.store.slot (1 - n) = o ∧ t.store.preferred = n ∧
           t.store.minSvn = s.store.minSvn ∧ same t) ∧
       (¬confirmOk → Gives (.fwActivateConfirm r) s turned)) ∧
     (Taken s r .fwRaise b →
       (raiseOk → s.store.holds = false → Gives (.fwActivateRaiseSvn r) s halts) ∧
       (raiseOk → s.store.holds = true → Gives (.fwActivateRaiseSvn r) s fun t =>
         t.store.minSvn = f.svn ∧ t.store.slot n = f ∧ t.store.preferred = s.store.preferred ∧
           t.store.slot (1 - n) = (if o.state ≠ .empty ∧ o.svn < f.svn then { o with state := .bad } else o) ∧ same t) ∧
       (¬raiseOk → Gives (.fwActivateRaiseSvn r) s turned)))

/-- R717 to R719: ATTEST writes the signed report, whose first 288 bytes carry the nonce, the versions, the states and the
digests of Table 9 of 15, or the identity chain, to the sender's buffer and to no other byte; a buffer that is not 64-byte
aligned, or may not be written, is refused with ATTEST_INVALID (0x0C0B). Completes ATTEST report and ATTEST identity chain. -/
def Obligations.AttestationWritesItsReport : Prop :=
  ∀ (s : State) (r : SlotRef) (b : Bytes), s.wr = [] → s.mem.wf = true →
    let n := leAt (slotBody b) 4 4
    let va := leAt (slotBody b) 8 8
    let body := s.reportBody r.port (sliceBytes (slotBody b) 16 32)
    let wrote := fun (bs : Bytes) (t : State) =>
      (List.range bs.length).map (fun i => t.mem.get (s.physOf n (va + i))) = bs ∧
        (∀ a, (∀ i, i < bs.length → s.physOf n (va + i) ≠ a) → t.mem.get a = s.mem.get a) ∧
        Answered t r b Err.success (replyBody (leBytes 4 bs.length)) ∧
        t = { s with mem := t.mem, ports := t.ports, ccx := t.ccx, out := t.out }
    let refused := fun t : State => Answered t r b 0x0C0B (zeros 240) ∧ t.mem = s.mem
    let fits := fun k : Nat => va % 64 = 0 ∧ va < 2 ^ 48 ∧ s.accessFault n va k true = none
    let apart := fun k : Nat => ((List.range k).map fun i => s.physOf n (va + i)).Nodup
    (Taken s r .attestReport b →
      (fits 352 → apart 352 → Gives (.attestReport r) s fun t =>
        wrote (body ++ sliceBytes (Config.sm2Sign body) 0 64) t ∧ body.length = 288 ∧ leAt body 4 4 = 352 ∧
          sliceBytes body 8 32 = sliceBytes (slotBody b) 16 32) ∧
      (¬fits 352 → Gives (.attestReport r) s refused)) ∧
    (Taken s r .attestChain b →
      (fits (Config.identityChain.take 4096).length → apart (Config.identityChain.take 4096).length →
        Gives (.attestIdentityChain r) s (wrote (Config.identityChain.take 4096))) ∧
      (¬fits (Config.identityChain.take 4096).length → Gives (.attestIdentityChain r) s refused))

/-- R697 to R700: JOURNAL_COMPACT begins a compaction, or joins the one under way, and waits. The compaction folds the
superseding record of each key up to its S into a base of the next generation in the other area, keeps every later
record, and answers the messages that wait; what the store says is unchanged. Where NAND blocks fail with no spare left
(R688) it halts the control complex with JOURNAL_FAILED (0x0C06) instead: the model's choice (log entry 55). Completes
JOURNAL_COMPACT and COMPACTION. -/
def Obligations.CompactionKeepsWhatTheStoreSays : Prop :=
  ∀ s : State, s.wr = [] →
    (∀ (r : SlotRef) (b : Bytes), Taken s r .journalCompact b → Gives (.journalCompact r) s fun t =>
      t.store.compacting = true ∧ t.store.compactWait = s.store.compactWait ++ [s.ccx.takeSeq] ∧
        t.store.compactS = (if s.store.compacting = true then s.store.compactS else s.store.lastSeq) ∧
        t.store.journal = s.store.journal ∧ t.store.base = s.store.base ∧ Waits t s r b ∧
        t = { s with store := t.store, ports := t.ports, ccx := t.ccx }) ∧
    (s.phase = .ready → s.ccx.halted = false → s.store.compacting = true → s.store.holds = false →
      Gives .compaction s fun t => t = { s with ccx := { s.ccx with halted := true, haltCode := 0x0C06 } }) ∧
    (s.phase = .ready → s.store.compacting = true → s.store.holds = true → Gives .compaction s fun t =>
      t.store.base = some { gen := s.store.baseGen + 1, lastSeq := s.store.compactS,
                            image := s.store.liveTo s.store.compactS } ∧
        t.store.area = 1 - s.store.area ∧ t.store.compacting = false ∧ t.store.compactWait = [] ∧
        (∀ x ∈ s.store.journal, s.store.compactS < x.seq → x ∈ t.store.journal) ∧
        (∀ x ∈ t.store.journal, s.store.compactS < x.seq) ∧
        (s.store.journal.Pairwise (fun x y => x.seq < y.seq) → (∀ x ∈ s.store.journal, x.seq ≤ s.store.lastSeq) →
          s.store.compactS ≤ s.store.lastSeq → t.store.live = s.store.live) ∧
        (s.ccx.halted = false → ∀ q ∈ s.store.compactWait, ∀ m ∈ t.ccx.msgs, m.seq = q → m.state ≠ .waiting) ∧
        t = { s with store := t.store, ports := t.ports, ccx := t.ccx, out := t.out })

/-! ### The commands of a list (09, 10) -/

/-- R450, R515, R517, R519, R661, R662: a list position that is not mapped, and a header outside Table 8 of 10, fault the
context whatever the row; NOP does nothing but pass; PHASE sets the class of the later commands, and one outside its
rule is invalid with PHASE_INVALID (0x0C03). Completes NOP and PHASE. -/
def Obligations.CommandsAreFetchedFromTheList : Prop :=
  ∀ (s : State) (n : Nat) (c : Ctx) (l : CmdList), s.wr = [] →
    (s.running = true → s.ctx? n = some c → c.state = .running → c.resident = true → c.list = some l →
      s.canBegin c = true → ∀ (hw : RunHw) (remote : List RemoteShard) (row : Instr), row ∈ fetchRows n hw remote →
      (∀ e, s.vread n (l.place l.next) 128 = .error e →
        Gives row s fun t => FaultedBy t n c l.next 0 0 0x0902) ∧
      ∀ d, s.vread n (l.place l.next) 128 = .ok d → headerOk d = false →
        Gives row s fun t => FaultedBy t n c l.next (descOpcode d) 0 0x0206) ∧
    ∀ d, Fetched s n c l d →
      (isOpcode 15 d = true →
        (zeroRange d 16 128 = true → Gives (.nop n) s fun t => RanToEnd t n c l ∧ OthersKeep s t n ∧
          t = { s with ctxs := t.ctxs, turns := t.turns, ord := t.ord, ports := t.ports, out := t.out }) ∧
        (zeroRange d 16 128 = false → Gives (.nop n) s fun t =>
          FaultedBy t n c l.next (descOpcode d) (descPolicy d) 0x0206)) ∧
      (isOpcode 13 d = true →
        let legal := (byteAt d 16).toNat ≤ 7 ∧ byteAt d 2 = 0xFF ∧ zeroRange d 17 128 = true
        (legal → Gives (.phase n) s fun t => RanToEnd t n c l ∧ OthersKeep s t n ∧
          (∃ y, t.ctx? n = some y ∧ y.cls = (byteAt d 16).toNat) ∧
          t = { s with ctxs := t.ctxs, turns := t.turns, ord := t.ord, ports := t.ports, out := t.out }) ∧
        (¬legal → Gives (.phase n) s fun t =>
          FaultedBy t n c l.next (descOpcode d) (descPolicy d) 0x0C03))

/-- R473 to R480: SEM_SIGNAL adds to a count, or sets it with INIT, and lets a waiter that the count then meets go on; a
signal past 2^63 - 1 is a fault with SEM_OVERFLOW (0x030B). SEM_WAIT passes where the count meets its value, taking it
unless it only peeks, and otherwise waits; a re-examination lets it go on; and its timeout faults its context with
SEM_TIMEOUT (0x030C). No byte but the count's changes. Completes SEM_SIGNAL, SEM_SIGNAL with INIT, SEM_WAIT,
SEM_WAIT_RECHECK and SEM_TIMEOUT. -/
def Obligations.SemaphoresCountAndWait : Prop :=
  ∀ (s : State) (n : Nat) (c : Ctx) (l : CmdList) (d : Bytes), s.wr = [] → s.mem.wf = true →
    let va := leAt d 16 8
    let v := leAt d 24 8
    let fl := (byteAt d 32).toNat
    let a := s.physOf n va
    let count := fun (u : State) (p : Nat) => leVal ((List.range 8).map fun i => u.mem.get (p + i))
    let reach := fun write : Bool => va % 8 = 0 ∧ va < 2 ^ 48 ∧ s.accessFault n va 8 write = none
    let only := fun (t : State) (p k : Nat) => count t p = k ∧ ∀ x, (x < p ∨ p + 8 ≤ x) → t.mem.get x = s.mem.get x
    let free := ∀ w ∈ s.waiters, w.addr ≠ a
    let named := fl / 2 % 2 = 1 → c.notifyOk (leAt d 36 4) = true
    let goes := fun (t : State) (w : Waiter) (x : Ctx) => w ∉ t.waiters ∧
      ∃ y, t.ctx? w.ctx = some y ∧ y.list = x.list.map (fun z => z.complete w.index) ∧
        y.begun = x.begun.filter fun b => b.index != w.index
    (Fetched s n c l d → isSignal d = true → fl ≤ 3 → semReservedOk d = true → 1 ≤ v → v < 2 ^ 32 → named →
      reach true →
      (free → count s a + v < 2 ^ 63 → Gives (.semSignal n) s fun t =>
        RanToEnd t n c l ∧ OthersKeep s t n ∧ only t a (count s a + v) ∧ t.waiters = s.waiters) ∧
      (2 ^ 63 ≤ count s a + v → Gives (.semSignal n) s fun t =>
        FaultedBy t n c l.next (descOpcode d) (descPolicy d) 0x030B) ∧
      ∀ w x b, (s.waiters.filter fun y => y.addr == a) = [w] → w.ctx ≠ n → s.ctx? w.ctx = some x →
        (x.begun.find? fun y => y.index == w.index) = some b → w.value ≤ count s a + v → count s a + v < 2 ^ 63 →
        Gives (.semSignal n) s fun t =>
          goes t w x ∧ RanToEnd t n c l ∧ only t a (if w.peek = true then count s a + v else count s a + v - w.value)) ∧
    (Fetched s n c l d → isSignalInit d = true → fl ≤ 3 → semReservedOk d = true → v < 2 ^ 63 → named → reach true →
      (free → Gives (.semSignalInit n) s fun t =>
        RanToEnd t n c l ∧ OthersKeep s t n ∧ only t a v ∧ t.waiters = s.waiters) ∧
      ∀ w x b, (s.waiters.filter fun y => y.addr == a) = [w] → w.ctx ≠ n → s.ctx? w.ctx = some x →
        (x.begun.find? fun y => y.index == w.index) = some b → w.value ≤ v → Gives (.semSignalInit n) s fun t =>
          goes t w x ∧ RanToEnd t n c l ∧ only t a (if w.peek = true then v else v - w.value)) ∧
    (Fetched s n c l d → isOpcode 12 d = true → fl ≤ 1 → semReservedOk d = true → 1 ≤ v → v < 2 ^ 32 →
      leAt d 36 4 ≤ 10000000 → reach (fl == 0) →
      (v ≤ count s a → Gives (.semWait n) s fun t => RanToEnd t n c l ∧ OthersKeep s t n ∧
        only t a (if fl = 1 then count s a else count s a - v) ∧ t.waiters = s.waiters) ∧
      (count s a < v → Gives (.semWait n) s fun t =>
        (∃ b, StandsBegun t n c l d b ∧ b.waiting = true) ∧ OthersKeep s t n ∧ t.mem = s.mem ∧
          (∃ y, t.ctx? n = some y ∧ y.state = .blocked) ∧
          t.waiters = s.waiters ++ [{ ctx := n, index := l.next, addr := a, value := v, peek := fl == 1,
                                      timeout := leAt d 36 4 }])) ∧
    (∀ w x b, s.phase = .ready → s.waiters = [w] → s.ctx? w.ctx = some x →
      (x.begun.find? fun y => y.index == w.index) = some b →
      (w.value ≤ count s w.addr → Gives .semWaitRecheck s fun t =>
        goes t w x ∧ only t w.addr (if w.peek = true then count s w.addr else count s w.addr - w.value)) ∧
      (count s w.addr < w.value → exec .semWaitRecheck s = .next s)) ∧
    ∀ w b, s.running = true → s.ctx? n = some c → c.state = .blocked →
      (s.waiters.find? fun y => y.ctx == n && y.timeout != 0) = some w →
      (c.begun.find? fun y => y.index == w.index) = some b →
      Gives (.semTimeout n) s fun t => FaultedBy t n c w.index 12 b.policy 0x030C ∧ ∀ y ∈ t.waiters, y.ctx ≠ n

/-- R454, R455, R427: STATS writes the status record and the kept command records its mask names, and no other byte. R376,
R427, R451, R455: a begun command that runs, with no chunk and no request outstanding, completes: it leaves the begun
ones, CMD_DONE passes it, its record is the newest kept, its counts are added to its context's and its cores are
freed. One that waits, is pre-empted or has something outstanding does not complete. Completes STATS and
COMMAND_COMPLETE. -/
def Obligations.RecordsAreWrittenAndKept : Prop :=
  (∀ (s : State) (n : Nat) (c : Ctx) (l : CmdList) (d : Bytes), Fetched s n c l d → isOpcode 14 d = true → s.wr = [] →
     s.mem.wf = true →
     let out := leAt d 16 8
     let what := (byteAt d 24).toNat
     let k := leAt d 32 2
     let c' : Ctx := { c with list := some { l with next := l.next + 1, begun := l.next }, lastBegan := s.ord }
     let legal := out % 64 = 0 ∧ out < 2 ^ 48 ∧ what ≤ 3 ∧ zeroRange d 25 28 = true ∧ k ≤ 64 ∧ zeroRange d 34 128 = true
     let ws : List (Nat × Bytes) :=
       (if what % 2 = 1 then [(out, s.statusRecord c')] else []) ++
         if what / 2 % 2 = 1 then (List.range k).map fun j =>
           (out + 128 + 128 * j, c'.recordBytes (BitVec.ofNat 32 (leAt d 28 4) + BitVec.ofNat 32 j)) else []
     let places := (ws.map fun w => (List.range w.2.length).map fun i => s.physOf n (w.1 + i)).flatten
     (legal → (∀ w ∈ ws, s.accessFault n w.1 w.2.length true = none) → places.Nodup → Gives (.stats n) s fun t =>
       RanToEnd t n c l ∧ OthersKeep s t n ∧
         (∀ w ∈ ws, ∀ i, i < w.2.length → t.mem.get (s.physOf n (w.1 + i)) = w.2.getD i 0) ∧
         ∀ x, x ∉ places → t.mem.get x = s.mem.get x) ∧
     (¬legal → Gives (.stats n) s fun t => FaultedBy t n c l.next (descOpcode d) (descPolicy d) 0x030D)) ∧
  (∀ (s : State) (n i : Nat) (m : Meas) (c : Ctx) (b : Begun), s.phase = .ready → s.wr = [] → s.tensorWaits = [] →
     s.ctx? n = some c → (c.begun.find? fun x => x.index == BitVec.ofNat 32 i) = some b →
     (b.live = true → s.moveDone n b.index = true → s.fabricDone n b.index = true → s.heat.stopped = false →
       Gives (.commandComplete n i m) s fun t =>
         (∃ y, t.ctx? n = some y ∧ y.begun = (c.begun.filter fun x => x.index != b.index) ∧
           y.list = c.list.map (fun l => l.complete b.index) ∧
           y.records.head? = some (if b.core = true then b.record.measured m else b.record) ∧
           y.busy = c.busy + (if b.core = true then m.core else 0) ∧
           y.interfere = c.interfere + (if b.core = true then m.interfere else 0)) ∧
         (b.cores ≠ [] → ∀ k ∈ t.cores, ¬(k.busy = true ∧ k.ctx = BitVec.ofNat 10 n)) ∧
         (b.cores = [] → t.cores = s.cores) ∧ OthersKeep s t n ∧
         ((∀ j ∈ s.jobs, ¬(j.ctx = n ∧ j.index = b.index)) → t.mem = s.mem ∧ t.jobs = s.jobs)) ∧
     ((b.live = false ∨ s.moveDone n b.index = false ∨ s.fabricDone n b.index = false ∨ s.heat.stopped = true) →
       exec (.commandComplete n i m) s = .next s))

/-- R432, R434 to R437, R441: at a slice's end with another resident context READY the holder gives up the turn, and its
EXPANDs, PACKPASSes and LONG commands are pre-empted; with none nothing changes. A free partition's turn goes to the
next context in order, its debt spent, past one whose debt reaches its slice while another is READY. The cores of a
pre-empted LONG command stay occupied while the movers save them, 164 chunks of 64 KiB a core. A READY context that has
waited for a slot for 100 ms takes that of the resident context that last began a command longest ago, which is the
model's choice where none is to be evicted first (log entry 14). Completes SLICE_END, TURN_TAKE and
EVICTION_WAIT_TIMEOUT. -/
def Obligations.TurnsAreTakenAndGivenUp : Prop :=
  ∀ s : State, s.running = true → s.wr = [] →
    (∀ p n c, (s.turn p).holder = some n → s.ctx? n = some c → c.state = .running →
      (s.readyOf p ≠ [] → Gives (.sliceEnd p) s fun t =>
        (t.turn p).holder = none ∧ (t.turn p).last = n ∧
          (∃ y, t.ctx? n = some y ∧ y.state ≠ .running ∧ y.list = c.list ∧
            y.begun = c.begun.map fun b => if c.yields b = true then { b with preempted := true } else b) ∧
          OthersKeep s t n ∧
          (∀ b, c.coreCmd? = some b → c.yields b = true → t.cores = s.cores ∧
            ∃ j ∈ t.jobs, j.fw = some { work := .save n, total := 164 * b.cores.length, next := 0 }) ∧
          t = { s with ctxs := t.ctxs, turns := t.turns, ord := t.ord, cores := t.cores, exps := t.exps,
                       jobs := t.jobs, nextJob := t.nextJob }) ∧
      (s.readyOf p = [] → exec (.sliceEnd p) s = .next s)) ∧
    (∀ p us n c rest, (s.turn p).holder = none → p < s.turns.length → (s.turn p).overran = false →
      s.partitionFree p = true → s.tensorWaits = [] → s.turnOrder p = n :: rest → s.ctx? n = some c →
      s.canBegin c = true →
      ((c.debtUs < c.sliceUs ∨ rest = []) → Gives (.turnTake p us) s fun t =>
        (t.turn p).holder = some n ∧ ∃ y, t.ctx? n = some y ∧ y.state = .running ∧ y.debtUs = 0) ∧
      ∀ k x, rest = [k] → k ≠ n → s.ctx? k = some x → s.canBegin x = true → c.sliceUs ≤ c.debtUs →
        x.debtUs < x.sliceUs → Gives (.turnTake p us) s fun t =>
          (t.turn p).holder = some k ∧ (∃ y, t.ctx? k = some y ∧ y.state = .running ∧ y.debtUs = 0) ∧
            ∃ y, t.ctx? n = some y ∧ y.debtUs = c.debtUs - c.sliceUs) ∧
    ∀ n c v, s.ctx? n = some c → c.state = .ready → c.resident = false → s.residents.length = 64 →
      (s.ctxs.map fun x => x.num).Nodup →
      (∀ x ∈ s.ctxs, x.state.ordinary = true → s.wish x = x.state ∨ (s.wish x = .ready ∧ x.state = .running)) →
      (∀ x ∈ s.residents, x.state ≠ .blocked ∧ x.state ≠ .paused ∧ x.state ≠ .halted) → v ∈ s.residents →
      (∀ x ∈ s.residents, x ≠ v → v.lastBegan < x.lastBegan) → v.begun = [] →
      Gives (.evictionWaitTimeout n) s fun t =>
        (∃ y, t.ctx? n = some y ∧ y.resident = true) ∧ (∃ y, t.ctx? v.num = some y ∧ y.resident = false) ∧
          OthersKeep s t n ∧ t.mem = s.mem

/-! ### The movers (08) -/

/-- R378 to R385, R410: a MOVE whose descriptor keeps Table 4 of 08 and whose segments all may run stands begun with a job
of those segments, each cut into the chunks R385 gives, and moves nothing yet; a descriptor outside the table is
invalid with MOVE_RANGE (0x0802), and the first segment that may not run faults an ordinary context with its code.
Completes MOVE COPY, MOVE TRANSPOSE and MOVE FILL. -/
def Obligations.MoveWaitsForTheMovers : Prop :=
  ∀ (s : State) (n : Nat) (c : Ctx) (l : CmdList) (d raw : Bytes) (k : JobKind) (row : Instr), Fetched s n c l d →
    s.wr = [] →
    (row, k) ∈ [(Instr.moveCopy n, JobKind.copy), (Instr.moveTranspose n, JobKind.transpose), (Instr.moveFill n, JobKind.fill)] →
    isMove k d = true →
    (moveOk d = false → Gives row s fun t => FaultedBy t n c l.next (descOpcode d) (descPolicy d) 0x0802) ∧
    (moveOk d = true → s.vread n (leAt d 16 8) (64 * leAt d 24 2) = .ok raw →
      let es := (byteAt d 27).toNat
      let js := (List.range (leAt d 24 2)).map fun i => s.judgeSeg c k es i (sliceBytes raw (64 * i) 64)
      (∀ e, (js.findSome? fun j => j.code) = some e → c.step = false → Gives row s fun t =>
        FaultedBy t n c l.next (descOpcode d) (descPolicy d) e) ∧
      ((∀ j ∈ js, j.code = none) → Gives row s fun t =>
        (∃ b, StandsBegun t n c l d b ∧ b.waiting = false) ∧ OthersKeep s t n ∧
          (∃ j : Job, t.jobs = s.jobs ++ [j] ∧ j.ctx = n ∧ j.index = l.next ∧ j.kind = k ∧ j.esize = es ∧
            j.segs = js.map (fun x => x.seg) ∧
            ∀ g ∈ j.segs, g.next = 0 ∧ g.whole = [] ∧
              g.total = (if k = .transpose then g.len2 * (cdiv g.len1 128 * cdiv g.len0 128)
                else if g.len0 * es ≤ 65536 then cdiv (g.len1 * g.len2) (65536 / (g.len0 * es))
                else g.len1 * g.len2 * cdiv (g.len0 * es) 65536)) ∧
          t.mem = s.mem))

/-- R380 to R382, R385 to R388, R402, R361, R552, R672: a free mover at a duty above 0 takes the next chunk. Between device
places it copies, transposes or fills it, element by element, and no other byte changes; toward a port that does not
answer it is held; toward a host window it is sent, and from one the host is asked, in requests of at most the size the
port is configured for. A chunk of a ZERO fill or of a page's copy is dealt in the same way. At duty 0, while the mover
waits for a host, and with nothing to deal, nothing happens; what the codes show to a read that they correct changes
the counts of the sites alone. Completes MOVER_CHUNK. -/
def Obligations.MoversCarryChunks : Prop :=
  ∀ (s : State) (m : Nat), s.phase = .ready → s.wr = [] → s.mem.wf = true →
    ((s.heat.dp = 0 ∨ s.moverBusy m = true ∨ s.nextTask = none) → ∀ reads, exec (.moverChunk ⟨m, reads⟩) s = .next s) ∧
    (∀ reads : List MemHit, (∀ h ∈ reads, h.found ≠ .uncorrectable) →
      ∃ t u, exec (.moverChunk ⟨m, reads⟩) s = .next t ∧ exec (.moverChunk ⟨m, []⟩) s = .next u ∧ t = { u with sites := t.sites }) ∧
    (∀ (j : Job) (w : FwJob), s.heat.dp ≠ 0 → s.moverBusy m = false → s.nextTask = some (j, .fw w) →
      let on := fun t : State => w.next + 1 < w.total →
        ∃ j' ∈ t.jobs, j'.id = j.id ∧ j'.fw = some { w with next := w.next + 1 }
      let only := fun (t : State) (p : Nat) (v : Nat → Byte) => (∀ i, i < 65536 → t.mem.get (p + i) = v i) ∧
        ∀ a, (a < p ∨ p + 65536 ≤ a) → t.mem.get a = s.mem.get a
      (∀ old new, w.work = .copy old new → Gives (.moverChunk ⟨m, []⟩) s fun t => on t ∧
        only t (new + w.next * 65536) fun i => s.mem.get (old + w.next * 65536 + i)) ∧
      ∀ id pages size seq reply, w.work = .fill id pages size seq reply →
        (∃ x ∈ s.maps, x.id = id ∧ pages.getD (w.next * 65536 / size) 0 ∈ x.pages) → Gives (.moverChunk ⟨m, []⟩) s fun t =>
          on t ∧ only t (pages.getD (w.next * 65536 / size) 0 + w.next * 65536 % size) fun _ => 0) ∧
    ∀ (j : Job) (g : MoveSeg) (c : Nat), s.heat.dp ≠ 0 → s.moverBusy m = false →
      s.nextTask = some (j, .chunk g c false) → s.windowClosing j.kind g = none → j.segs[g.index]? = some g →
      let S := fun x => s.physOf j.ctx (g.src + x)
      let D := fun x => s.physOf j.ctx (g.dst + x)
      let es := j.esize
      let moved := fun t : State => ∃ j' ∈ t.jobs, j'.id = j.id ∧ ∃ g', j'.segs[g.index]? = some g' ∧
        g' = { g with whole := c :: g.whole, next := g.next + 1 }
      let places := ((g.writes j.kind es c).map fun r => (List.range r.2).map fun i => D (r.1 + i)).flatten
      let sourced := j.kind = .fill ∨ (maHost g.src = false ∧ s.runsFault j.ctx g.src (g.reads j.kind es c) false = none)
      let open1 := (es = 1 ∨ es = 2 ∨ es = 4) ∧ maHost g.dst = false ∧ sourced ∧
        s.runsFault j.ctx g.dst (g.writes j.kind es c) true = none ∧ places.Nodup
      (j.kind = .copy → open1 → Gives (.moverChunk ⟨m, []⟩) s fun t => moved t ∧
        (∀ p i o k, (p, i, o, k) ∈ g.pieces es c → ∀ x, x < k →
          t.mem.get (D (p * g.dstS2 .copy es + i * g.dstS1 .copy es + o + x)) =
            s.mem.get (S (p * g.srcS2 es + i * g.srcS1 es + o + x))) ∧
        (∀ x, x ∉ places → t.mem.get x = s.mem.get x) ∧ t.ctxs = s.ctxs ∧ t.out = s.out) ∧
      (j.kind = .fill → open1 → Gives (.moverChunk ⟨m, []⟩) s fun t => moved t ∧
        (∀ p i o k, (p, i, o, k) ∈ g.pieces es c → ∀ x, x < k →
          t.mem.get (D (p * g.dstS2 .fill es + i * g.dstS1 .fill es + o + x)) =
            (leBytes es j.fill.toNat).getD ((o + x) % es) 0) ∧
        (∀ x, x ∉ places → t.mem.get x = s.mem.get x) ∧ t.ctxs = s.ctxs ∧ t.out = s.out) ∧
      (j.kind = .transpose → open1 → Gives (.moverChunk ⟨m, []⟩) s fun t => moved t ∧
        (∀ p i0 ni j0 nj, g.block c = (p, i0, ni, j0, nj) → ∀ x y z, x < ni → y < nj → z < es →
          t.mem.get (D (p * g.dstS2 .transpose es + (j0 + y) * g.dstS1 .transpose es + (i0 + x) * es + z)) =
            s.mem.get (S (p * g.srcS2 es + (i0 + x) * g.srcS1 es + (j0 + y) * es + z))) ∧
        (∀ x, x ∉ places → t.mem.get x = s.mem.get x) ∧ t.ctxs = s.ctxs ∧ t.out = s.out) ∧
      (∀ p w, s.holdFor j.kind g = some (p, w) → Gives (.moverChunk ⟨m, []⟩) s fun t =>
        t.held = s.held ++ [{ port := p, win := w, job := j.id, seg := g.index, chunk := c, released := false, mover := m }] ∧
          t.mem = s.mem ∧ t.ctxs = s.ctxs ∧ t.out = s.out) ∧
      (∀ w : Window, s.holdFor j.kind g = none → sourced → maHost g.dst = true →
        s.window? (maPort g.dst) (maWin g.dst) = some w →
        s.windowFault g.dst (g.writes j.kind es c) true = none → Gives (.moverChunk ⟨m, []⟩) s fun t => moved t ∧
          (∃ sent : List (Nat × Bytes),
            t.out = s.out ++ (sent.map fun x => Output.hostWrite (maPort g.dst) x.1 w.noSnoop w.relaxed x.2) ∧
            (sent.map fun x => (x.1, x.2.length)) =
              ((hostRuns (s.port (maPort g.dst)).cfg.payload (g.writes j.kind es c)).map fun q =>
                (w.hostAddr + maOff g.dst + q.1, q.2)) ∧
            (sent.map fun x => x.2).flatten = g.image j c (s.readRuns j.ctx g.src (g.reads j.kind es c))) ∧
          t.mem = s.mem ∧ t.ctxs = s.ctxs) ∧
      ∀ w : Window, s.holdFor j.kind g = none → j.kind ≠ .fill → maHost g.src = true →
        s.window? (maPort g.src) (maWin g.src) = some w →
        s.windowFault g.src (g.reads j.kind es c) false = none → Gives (.moverChunk ⟨m, []⟩) s fun t =>
          t.hostReads = s.hostReads ++ [
            { tag := s.nextTag, port := maPort g.src, win := maWin g.src, epoch := (s.port (maPort g.src)).epoch,
              job := j.id, seg := g.index, chunk := c, mover := m }] ∧
          t.out = s.out ++ (hostRuns (s.port (maPort g.src)).cfg.readReq (g.reads j.kind es c)).map (fun q =>
            Output.hostRead s.nextTag (maPort g.src) (w.hostAddr + maOff g.src + q.1) q.2 w.noSnoop w.relaxed) ∧
          t.nextTag = s.nextTag + 1 ∧ t.mem = s.mem ∧ t.ctxs = s.ctxs

/-- R386 to R388, R456, R457, R556, R573: the host's answer to a read of a command that runs lands the chunk in device memory
and in no other byte, or is held where the port it would go to does not answer; an error, or no answer in time to any of
its requests, faults the segment's item with MOVE_HOST_FAULT (0x0804); an answer of an older epoch is only counted.
Completes HOST_READ_COMPLETION and HOST_COMPLETION_TIMEOUT. -/
def Obligations.HostReadsEnd : Prop :=
  ∀ (s : State) (r : HostRead) (j : Job) (g : MoveSeg) (b : Begun) (c : Ctx) (k : Nat), s.phase = .ready → s.wr = [] →
    s.mem.wf = true → (s.hostReads.find? fun x => x.tag == r.tag) = some r →
    (s.jobs.find? fun x => x.id == r.job) = some j → s.ctx? j.ctx = some c → j.segs[r.seg]? = some g →
    let fails := [Instr.hostCompletionTimeout ⟨r.tag, k⟩, Instr.hostReadCompletion r.tag (.error k)]
    (r.current s = true → j.epoch = s.ctxEpoch j.ctx → s.jobCmd? j = some b → g.stopped = false →
      (∀ bs, bs.length = runBytes (g.reads j.kind j.esize r.chunk) → maHost g.dst = false →
        s.runsFault j.ctx g.dst (g.writes j.kind j.esize r.chunk) true = none →
        let places := ((g.writes j.kind j.esize r.chunk).map fun q =>
          (List.range q.2).map fun i => s.physOf j.ctx (g.dst + q.1 + i)).flatten
        places.Nodup → places.length = (g.image j r.chunk bs).length →
        Gives (.hostReadCompletion r.tag (.data bs)) s fun t =>
          places.map t.mem.get = g.image j r.chunk bs ∧ (∀ x, x ∉ places → t.mem.get x = s.mem.get x) ∧
            (∀ x ∈ t.hostReads, x.tag ≠ r.tag) ∧ t.ctxs = s.ctxs ∧ t.out = s.out) ∧
      (∀ bs, bs.length = runBytes (g.reads j.kind j.esize r.chunk) → maHost g.dst = true →
        (s.port (maPort g.dst)).answers = false → Gives (.hostReadCompletion r.tag (.data bs)) s fun t =>
          t.held = s.held ++ [{ port := maPort g.dst, win := maWin g.dst, job := j.id, seg := g.index, chunk := r.chunk,
                                released := false, mover := r.mover }] ∧
            (∀ x ∈ t.hostReads, x.tag ≠ r.tag) ∧ t.mem = s.mem ∧ t.ctxs = s.ctxs ∧ t.out = s.out) ∧
      (c.step = false → c.live = true → c.state ≠ .halted → ∀ i ∈ fails, Gives i s fun t =>
        FaultedBy t j.ctx c j.index 5 b.policy 0x0804 ∧ ∀ x ∈ t.hostReads, x.tag ≠ r.tag)) ∧
    (r.current s = false → ∀ i, (i ∈ fails ∨ ∃ bs, i = Instr.hostReadCompletion r.tag (.data bs)) →
      exec i s = .next { s with hostReads := s.hostReads.filter (fun x => x.tag != r.tag), stale := satInc s.stale 1 })

/-! ### The cores and the expanders (01 to 07) -/

/-- R24, R84, R92, R93, R129, R309, R333, R519: a descriptor of a core or expander row that fails a check of its opcode is
invalid with that check's code; one whose tensor is in use by another command stands begun and waits;
any other stands begun on its cores, which then read BUSY with its context. Where no item stops, no unit meets an
uncorrectable error and no context that traps owns a NaN event, its results are the bytes its plan gives, the later of
two written to one place, and no other byte changes, apart from the bytes that outputs share with inputs or with other
items' outputs, which are unspecified. Completes MATMUL, MATMUL with an elementwise chain, CONVOLVE, MAX_POOL, AVG_POOL,
UP_NEAREST, UP_BILINEAR, REGROUP, GN_STATS, GN_APPLY, ATTEND, ELTWISE, EXPAND and PACKPASS BUILD, ENCODE and REENCODE. -/
def Obligations.CoreCommandsCarryOutTheirPlan : Prop :=
  ∀ (s : State) (n : Nat) (c : Ctx) (l : CmdList) (d : Bytes) (hw : RunHw) (remote : List RemoteShard)
    (x : Instr × (Bytes → Bool) × (State → Ctx → Cmd → Except Code CoreRun)), Fetched s n c l d → s.wr = [] →
    s.mem.wf = true → x ∈ coreRows n hw remote → x.2.1 d = true →
    (∀ code, x.2.2 s c (s.cmdAt n c l d) = .error code → Gives x.1 s fun t =>
      FaultedBy t n c l.next (descOpcode d) (descPolicy d) code) ∧
    (∀ r, x.2.2 s c (s.cmdAt n c l d) = .ok r → r.wait = true → Gives x.1 s fun t =>
      (∃ b, StandsBegun t n c l d b ∧ b.waiting = true ∧ b.cores = []) ∧ OthersKeep s t n ∧ t.mem = s.mem ∧
        t.cores = s.cores) ∧
    ∀ r, x.2.2 s c (s.cmdAt n c l d) = .ok r → r.wait = false → CleanRun s c r →
      let bytes := ((runWrites r).map fun w => (List.range w.2.length).map fun i =>
        (s.physOf n (w.1 + i), w.2.getD i 0)).flatten
      let spared := fun a : Nat => ∀ q ∈ r.state.overlapsOf n r.items ++ r.extra, ¬(q.1 ≤ a ∧ a < q.1 + q.2)
      Gives x.1 s fun t =>
        (∃ b, StandsBegun t n c l d b ∧ b.waiting = false ∧ ∀ i k, i ∈ b.cores → s.cores[i]? = some k →
          ∃ k', t.cores[i]? = some k' ∧ k'.busy = true ∧ k'.ctx = BitVec.ofNat 10 n) ∧
        OthersKeep s t n ∧
        (∀ a v, (bytes.reverse.find? fun p => p.1 == a) = some (a, v) → spared a → t.mem.get a = v) ∧
        ∀ a, (∀ p ∈ bytes, p.1 ≠ a) → spared a → t.mem.get a = s.mem.get a

/-- R66, R67, R69, R70, R72: a group's result does not depend on the order of its products nor on zero products beside
them; a NaN among them, or infinities of both signs, gives the NaN of R49, infinities of one sign that infinity, and
products that are all zero +0. R48, R50, R74, R75: rounding to any floating-point element format gives a value at most
half a unit in the last place from the exact one, the even one of two equally near, wherever the result is finite; and
a stored value that is not NaN goes back to its own bits. -/
def Obligations.ArithmeticIsExactThenRounded : Prop :=
  (∀ (xs : Int) (ps : List Val),
     (∀ qs, List.Perm ps qs → groupSum xs ps = groupSum xs qs) ∧
     (∀ zs, (∀ z ∈ zs, z.isZero = true) → groupSum xs (ps ++ zs) = groupSum xs ps) ∧
     (Val.nan ∈ ps → groupSum xs ps = 0x7FC00000) ∧
     (Val.inf true ∈ ps → Val.inf false ∈ ps → groupSum xs ps = 0x7FC00000) ∧
     (∀ neg, Val.nan ∉ ps → Val.inf neg ∈ ps → Val.inf (!neg) ∉ ps →
       groupSum xs ps = if neg = true then 0xFF800000 else 0x7F800000) ∧
     ((∀ p ∈ ps, p.isZero = true) → groupSum xs ps = 0)) ∧
  (∀ f ∈ [fp32, bf16, fp16, e4m3, e5m2, e2m3, e3m2, e2m1],
     (∀ (neg : Bool) (m : Nat) (e : Int) (o : Overflow), m ≠ 0 → roundMag f m e false ≤ f.maxFinite →
       let q : Int := max ((Nat.log2 m : Int) + e) (1 - (f.bias : Int)) - f.mbits
       let x : Rat := (m : Rat) * (2 : Rat) ^ e
       ∃ (sig : Nat) (k : Int), decodeVal f (encodeVal f o (.fin neg m e)) = .fin neg sig k ∧
         2 * |(sig : Rat) * (2 : Rat) ^ k - x| ≤ (2 : Rat) ^ q ∧
         (2 * |(sig : Rat) * (2 : Rat) ^ k - x| = (2 : Rat) ^ q →
           ∃ h : Nat, (sig : Rat) * (2 : Rat) ^ k = 2 * (h : Rat) * (2 : Rat) ^ q)) ∧
     ∀ b, b < 2 ^ f.width → decodeVal f b ≠ .nan →
       encodeVal f (if f.spec = .ieee then .infinity else .saturate) (decodeVal f b) = b)

/-- R164 to R167, R179, R181, R182: depth-to-space undoes space-to-depth; a MAX_POOL value is one of its window's and none
of them is larger, or a NaN where the window holds one; UP_NEAREST reads a position of X; the weights of UP_BILINEAR in a
dimension sum to one, on positions of X next to each other. -/
def Obligations.ConvolutionOperatorsKeepTheirRules : Prop :=
  (∀ (r e : Ext) (n : Nat) (x : List (List Nat)), 1 ≤ r.w → 1 ≤ r.h → 1 ≤ r.t → x.length = (e.mul r).count →
    (∀ y ∈ x, y.length = n) → depthToSpace r e n (spaceToDepth r e x) = x) ∧
  (∀ (x : ConvDesc) (free : Word) (w : List (Option Word)), x.kind = 1 → (∃ v, some v ∈ w) →
    ((∃ v, some v ∈ w ∧ fisNan v = true) → fisNan (x.pool free w) = true) ∧
    ((∀ v, some v ∈ w → fisNan v = false) → some (x.pool free w) ∈ w ∧ ∀ v, some v ∈ w → flt (x.pool free w) v = false)) ∧
  (∀ (x : ConvDesc) (t h w : Nat), 1 ≤ x.up.t → 1 ≤ x.up.h → 1 ≤ x.up.w → t < x.inExt.t * x.up.t →
    h < x.inExt.h * x.up.h → w < x.inExt.w * x.up.w → x.nearest (t, h, w) < x.inExt.count) ∧
  ∀ n f o : Nat, 1 ≤ n → 1 ≤ f → o < n * f →
    ∃ i j a b, bilinearDim n f o = [(i, a), (j, b)] ∧ a + b = 2 * f ∧ i < n ∧ j < n ∧ i ≤ j ∧ j ≤ i + 1

/-! ### The fabric's ports, links and peers (12) -/

/-- R587 to R590: a GLOBAL form that keeps Table 4 of 12 is journalled, sets the settings and waits for all six port
groups; one that changes DEVICE while a session is up is refused with FABRIC_BUSY (0x0B03). A PORT form that keeps
Table 5 and enables no port before DEVICE is set, and a SUBPORT form that keeps Table 6, wait for the port's group. A
breach is refused with FABRIC_CONFIG_INVALID (0x0B02). R523, R528, R589, R590, R599, R736, R737: at its apply point a
port group takes the next form it may take. A PORT form that changes MODE, BREAKOUT or MEDIA takes the port's subports
down, clears their settings and starts those of the new mode; one that does not, and a SUBPORT form, takes none down.
The form's message stands until the last group has applied it. An armed test word enters force, taking the port's
subports down and clearing its lanes where it starts a test, before a form of its port that was issued later, which then waits for
the test's end; and a removed peer's entry goes with the last group. Completes FABRIC_CONFIG GLOBAL, PORT and SUBPORT and
the port groups' form of CONFIG_APPLY. -/
def Obligations.FabricFormsAreApplied : Prop :=
  (∀ (s : State) (r : SlotRef) (b : Bytes), s.wr = [] →
     let x := slotBody b
     let waits := fun (gs : List Nat) (t : State) => Waits t s r b ∧
       t.fab = { s.fab with glob := t.fab.glob
                            pending := s.fab.pending ++ [{ body := x, groups := gs, seq := s.ccx.takeSeq, ord := s.ord }] } ∧
       t = { s with fab := t.fab, store := t.store, ports := t.ports, ccx := t.ccx, ord := s.ord + 1 }
     let legal := leAt x 4 2 ≤ 4095 ∧ 0x0600 ≤ leAt x 6 2 ∧ leAt x 6 2 ∉ [0x0800, 0x86DD, 0x8100, 0x8808, 0x88CC] ∧
       1024 ≤ leAt x 8 2 ∧ byteAt x 10 ≠ 0 ∧ (byteAt x 11).toNat < 64 ∧ leAt x 12 2 % 1024 = 0 ∧ 1024 ≤ leAt x 12 2 ∧
       leAt x 12 2 ≤ 8192
     let moves := s.fab.glob.device ≠ some (leAt x 4 2) ∧ ∃ p ∈ s.fab.peers, p.session.isSome = true
     let port := (byteAt x 1).toNat < 24 ∧ (byteAt x 2).toNat ≤ 2 ∧ (byteAt x 3).toNat ≤ 3 ∧ (byteAt x 4).toNat ≤ 2 ∧
       (byteAt x 2 = 2 → byteAt x 3 = 0 ∧ byteAt x 4 = 0) ∧
       ((byteAt x 5 = 0 ∧ leAt x 6 2 = 0 ∧ byteAt x 8 = 0) ∨
         (byteAt x 5 = 1 ∧ byteAt x 2 = 1 ∧ 1 ≤ leAt x 6 2 ∧ leAt x 6 2 ≤ 4094 ∧ (byteAt x 8).toNat ≤ 7)) ∧
       (byteAt x 2 = 0 ∨ s.fab.glob.device ≠ none)
     (Taken s r .fabGlobal b →
       (legal → ¬moves → s.store.reserveOnly = false → s.store.room 10 = true → Gives (.fabricConfigGlobal r) s fun t =>
         waits (List.range 6) t ∧ s.store.lastSeq < t.store.lastSeq ∧
           t.fab.glob = { device := some (leAt x 4 2), etherType := BitVec.ofNat 16 (leAt x 6 2),
                          udpPort := BitVec.ofNat 16 (leAt x 8 2), hopLimit := byteAt x 10, dscp := byteAt x 11,
                          maxPayload := leAt x 12 2 }) ∧
       (legal → moves → Gives (.fabricConfigGlobal r) s fun t => TurnedAway t s r b 0x0B03) ∧
       (legal → ¬moves → (s.store.reserveOnly = true ∨ s.store.room 10 = false) → Gives (.fabricConfigGlobal r) s fun t =>
         TurnedAway t s r b 0x0C05) ∧
       (¬legal → Gives (.fabricConfigGlobal r) s fun t => TurnedAway t s r b 0x0B02)) ∧
     (Taken s r .fabPort b →
       (port → Gives (.fabricConfigPort r) s fun t =>
         waits [(byteAt x 1).toNat / 4] t ∧ t.fab.glob = s.fab.glob ∧ t.store = s.store) ∧
       (¬port → Gives (.fabricConfigPort r) s fun t => TurnedAway t s r b 0x0B02)) ∧
     (Taken s r .fabSubport b →
       (s.fabSubportOk x = true → Gives (.fabricConfigSubport r) s fun t =>
         waits [(byteAt x 1).toNat / 4] t ∧ t.fab.glob = s.fab.glob ∧ t.store = s.store) ∧
       (s.fabSubportOk x = false → Gives (.fabricConfigSubport r) s fun t => TurnedAway t s r b 0x0B02))) ∧
  (∀ (s : State) (g : Nat), s.phase = .ready → s.wr = [] → g < 6 →
     let quiet := s.fab.removing = [] ∧ (∀ i, i < 4 → (s.fport (4 * g + i)).armed = none) ∧ g ∉ s.ccx.dbgWaiting
     let only := fun t : State => t = { s with fab := t.fab, ccx := t.ccx, ports := t.ports, out := t.out }
     (∀ f : FabPending, quiet → (s.fab.pending.find? fun y => y.groups.contains g && s.formReady y.body) = some f →
       Gives (.configApply (.portGroup g)) s fun t => only t ∧
         (∀ y ∈ t.fab.pending, y.seq = f.seq → g ∉ y.groups) ∧
         (∀ y ∈ s.fab.pending, y.seq ≠ f.seq → y ∈ t.fab.pending) ∧
         ((∀ k ∈ f.groups, k = g) → s.ccx.halted = false → ∀ m ∈ t.ccx.msgs, m.seq = f.seq → m.state ≠ .waiting) ∧
         ((∃ k ∈ f.groups, k ≠ g) → t.ccx = s.ccx) ∧
         (byteAt f.body 0 = 0 → t.fab.groups = s.fab.groups.set g (fabGlobalOf f.body) ∧ t.fab.ports = s.fab.ports ∧
           t.fab.subs = s.fab.subs) ∧
         (∀ q, byteAt f.body 0 = 1 → fabPortOk f.body = true → s.fab.ports[(byteAt f.body 1).toNat]? = some q →
           let p := (byteAt f.body 1).toNat
           let q' := { q with mode := (byteAt f.body 2).toNat, breakout := (byteAt f.body 3).toNat,
                              media := (byteAt f.body 4).toNat, vlan := (byteAt f.body 5).getLsbD 0,
                              vid := leAt f.body 6 2, pcp := (byteAt f.body 8).toNat }
           t.fab.ports = s.fab.ports.set p q' ∧
             (∀ k, k / 8 ≠ p → t.fab.subs[k]? = s.fab.subs[k]?) ∧
             ((q.mode, q.breakout, q.media) = (q'.mode, q'.breakout, q'.media) → t.fab.subs = s.fab.subs) ∧
             ((q.mode, q.breakout, q.media) ≠ (q'.mode, q'.breakout, q'.media) → ∀ i, i < 8 →
               t.fab.subs[8 * p + i]? = (s.fab.subs[8 * p + i]?).map fun x =>
                 { up := false, training := decide (i < q'.subports), fecLock := false, encap := false, noLldp := false,
                   ipv6 := 0, nextHop := 0, badRun := 0,
                   counters := if x.up = true then x.counters.modify 26 (· + 1) else x.counters })) ∧
         (∀ x, byteAt f.body 0 = 2 → s.fab.subs[8 * (byteAt f.body 1).toNat + (byteAt f.body 2).toNat]? = some x →
           t.fab.ports = s.fab.ports ∧
             t.fab.subs = s.fab.subs.set (8 * (byteAt f.body 1).toNat + (byteAt f.body 2).toNat)
               { x with encap := byteAt f.body 3 == 1, noLldp := (byteAt f.body 4).getLsbD 0,
                        ipv6 := BitVec.ofNat 128 (beAt f.body 8 16), nextHop := BitVec.ofNat 48 (beAt f.body 24 6) })) ∧
     (∀ (p : Nat) (f : FabPort) (w : Word), s.fab.pending = [] → s.fab.removing = [] → p / 4 = g →
       s.fab.ports[p]? = some f → f.armed = some w → (∀ i, i < 4 → 4 * g + i ≠ p → (s.fport (4 * g + i)).armed = none) →
       Gives (.configApply (.portGroup g)) s fun t => only t ∧
         t.fab.ports = s.fab.ports.set p { f with prbs := w, armed := none } ∧
         (prbsRuns w = true → ∀ i, i < 8 →
           t.fab.subs[8 * p + i]? = (s.fab.subs[8 * p + i]?).map (fun x =>
             { x with up := false, training := false, fecLock := false, badRun := 0,
                      counters := if x.up = true then x.counters.modify 26 (· + 1) else x.counters }) ∧
           t.fab.lanes[8 * p + i]? = (s.fab.lanes[8 * p + i]?).map fun _ => (false, 0)) ∧
         (g ∈ s.ccx.dbgWaiting → g ∉ t.ccx.dbgWaiting ∧ t.ccx.dbgApplied = s.ccx.dbgApplied + 1)) ∧
     (∀ (p : Nat) (f : FabPort) (w : Word) (x : FabPending), s.fab.pending = [x] → s.fab.removing = [] → p / 4 = g →
       s.fab.ports[p]? = some f → f.armed = some w → (∀ i, i < 4 → 4 * g + i ≠ p → (s.fport (4 * g + i)).armed = none) →
       g ∈ x.groups → byteAt x.body 0 = 1 → (byteAt x.body 1).toNat = p → f.testing = false → prbsRuns w = true →
       f.armOrd < x.ord → Gives (.configApply (.portGroup g)) s fun t => only t ∧ t.fab.pending = [x] ∧
         t.fab.ports = s.fab.ports.set p { f with prbs := w, armed := none }) ∧
     ∀ seq d : Nat, s.fab.pending = [] → s.fab.removing = [(seq, d, [g])] →
       (∀ i, i < 4 → (s.fport (4 * g + i)).armed = none) → g ∉ s.ccx.dbgWaiting →
       Gives (.configApply (.portGroup g)) s fun t => only t ∧
         t.fab.removing = [] ∧ t.fab.peers = (s.fab.peers.filter fun p => p.device != d) ∧
           (s.ccx.halted = false → ∀ m ∈ t.ccx.msgs, m.seq = seq → m.state ≠ .waiting))

/-- R583, R584, R611, R738: a subport in training comes up and announces itself; one not up begins again; a loss of FEC
lock, or the eighth window in a row with more than 64 uncorrectable codewords, takes it down, LINK_DOWNS rising by one,
and starts it again. LLDP is sent on a subport that is up unless NO_LLDP is set or a thermal stop has silenced the ports
(R678): a frame to the LLDP address from the subport's, whose first element is FAB_MAC_BASE as chassis ID (its subtype is
log entry 54's). A lane's checker locks on its pattern, and its ERRORS grow, to 0x7FFF_FFFF at most, by what was counted
while it was locked. Completes SUBPORT_UP, SUBPORT_BRINGUP_RETRY, SUBPORT_FEC_LOCK_LOSS, SUBPORT_ERROR_WINDOW, LLDP_TIMER,
PRBS_CHECKER_LOCK and PRBS_CHECKER_LOCK_LOSS. -/
def Obligations.SubportsRiseAndFall : Prop :=
  ∀ s : State, s.wr = [] →
    (∀ (l : Nat) (x : Subport), s.linkExists l = true → s.fab.subs[l]? = some x → x.counters.length = 27 →
      let becomes := fun (i : Instr) (y : Subport) =>
        exec i s = .next { s with fab := { s.fab with subs := s.fab.subs.set l y } }
      let sent := fun (t : State) => Output.frame l (s.lldpFrame l) ∈ t.out ∧ 60 ≤ (s.lldpFrame l).length ∧
        sliceBytes (s.lldpFrame l) 0 23 = beBytes 6 0x0180C200000E ++ beBytes 6 (s.linkMac l).toNat ++ beBytes 2 0x88CC ++
          beBytes 2 0x0207 ++ beBytes 1 4 ++ beBytes 6 s.fab.macBase.toNat
      (x.training = true → x.up = false → s.heat.stopped = false → Gives (.subportUp l) s fun t => OnlySub s t l ∧
        (∃ y, t.fab.subs[l]? = some y ∧
          y = { x with up := true, training := false, fecLock := true, badRun := 0, counters := y.counters } ∧
          y.counters.getD 24 0 = x.counters.getD 24 0 + (if x.noLldp = true then 0 else 1)) ∧
        (x.noLldp = false → sent t) ∧
        (x.encap = true → x.ipv6 ≠ 0 → Output.advertisement l false ∈ t.out)) ∧
      (x.training = false ∨ x.up = true → exec (.subportUp l) s = .next s) ∧
      (x.up = false → becomes (.subportBringupRetry l) { x with training := true, fecLock := false }) ∧
      (x.up = true → exec (.subportBringupRetry l) s = .next s ∧
        becomes (.subportFecLockLoss l)
          { x with up := false, training := true, fecLock := false, badRun := 0,
                   counters := x.counters.set 26 (x.counters.getD 26 0 + 1) } ∧
        (∀ u c y, let n := if 64 < u then x.badRun + 1 else 0
          Gives (.subportErrorWindow l u c y) s fun t => OnlySub s t l ∧ t.out = s.out ∧
            ∃ z, t.fab.subs[l]? = some z ∧ z.up = decide (n < 8) ∧ z.training = (x.training || decide (8 ≤ n)) ∧
              (n < 8 → z.badRun = n) ∧ z.counters.getD 6 0 = x.counters.getD 6 0 + u ∧
              z.counters.getD 4 0 = x.counters.getD 4 0 + c ∧ z.counters.getD 5 0 = x.counters.getD 5 0 + y ∧
              z.counters.getD 26 0 = x.counters.getD 26 0 + (if 8 ≤ n then 1 else 0)) ∧
        (x.noLldp = false → s.heat.stopped = false → Gives (.lldpTimer l) s fun t =>
          OnlySub s t l ∧ sent t ∧ Counts s t l [(0, 1), (1, (s.lldpFrame l).length + 4), (24, 1)]) ∧
        (x.noLldp = true ∨ s.heat.stopped = true → exec (.lldpTimer l) s = .next s)) ∧
      (x.up = false → exec (.lldpTimer l) s = .next s ∧ exec (.subportFecLockLoss l) s = .next s)) ∧
    ∀ (i : Nat) (y : Bool × BitVec 31), s.fab.lanes[i]? = some y →
      (∀ pat : BitVec 1, s.laneChecks i pat.toNat = true →
        exec (.prbsCheckerLock i pat) s = .next { s with fab := { s.fab with lanes := s.fab.lanes.set i (true, y.2) } }) ∧
      (y.1 = true → ∀ n : Nat, Gives (.prbsCheckerLockLoss i n) s fun t =>
        (∃ e : BitVec 31, t.fab.lanes = s.fab.lanes.set i (false, e) ∧ e.toNat = min (y.2.toNat + n) 0x7FFFFFFF) ∧
          t = { s with fab := { s.fab with lanes := t.fab.lanes } }) ∧
      (y.1 = false → ∀ n : Nat, exec (.prbsCheckerLockLoss i n) s = .next s)

/-- R585, R605, R608, R609, R652: a frame received on a subport that is not up is lost; any other is judged step by step,
counted in the counter of the first outcome it meets and nowhere else, and only a frame that reaches accept touches its
session. A protected frame accepted once is counted as a replay when it comes again; its records join those received; a
malformed plaintext freezes the peer with 0x0B0E. A frame in UDP over IPv6 to the subport's address and UDP_PORT is judged
in the same way once its UDP length and checksum hold, and counts as RX_L3L4_BAD where they do not. Completes
FRAME_RECEIVE. -/
def Obligations.FramesAreJudged : Prop :=
  ∀ (s : State) (l : Nat) (f : WireFrame) (x : Subport), s.linkExists l = true → s.fab.subs[l]? = some x →
    x.counters.length = 27 → s.wr = [] →
    let n := f.bytes.length
    let w := f.bytes.take (n - 4)
    let o := if beAt w 12 2 = 0x8100 then 16 else 12
    let h := w.drop (o + 2)
    let ends := fun (cs : List (Nat × Nat)) => Gives (.frameReceive l f) s fun t =>
      Counts s t l cs ∧ OnlySub s t l ∧ t.out = s.out
    let tally := fun c : Nat => [(2, 1), (3, n), (c, 1)]
    let ours := x.up = true ∧ f.fecOk = true ∧ f.fcsOk = true ∧ 64 ≤ n ∧ n ≤ 9216 ∧ beAt w 12 2 ≠ 0x8808 ∧
      s.addressed l (beAt w 0 6) = true ∧ beAt w o 2 = (s.globOf l).etherType.toNat
    let routed := x.up = true ∧ f.fecOk = true ∧ f.fcsOk = true ∧ 64 ≤ n ∧ n ≤ 9216 ∧ beAt w 12 2 ≠ 0x8808 ∧
      s.addressed l (beAt w 0 6) = true ∧ beAt w o 2 = 0x86DD ∧ (s.globOf l).etherType ≠ 0x86DD ∧
      (s.fport (l / 8)).mode ≠ 2 ∧ x.ipv6 ≠ 0 ∧ 44 ≤ h.length ∧ beAt h 4 2 + 40 = h.length ∧ byteAt h 6 = 17 ∧
      sliceBytes h 24 16 = beBytes 16 x.ipv6.toNat ∧ beAt h 42 2 = (s.globOf l).udpPort.toNat
    let sound := 48 ≤ h.length ∧ beAt h 44 2 + 40 = h.length ∧ beAt h 46 2 ≠ 0 ∧
      udpSumOk (sliceBytes h 8 16) (sliceBytes h 24 16) (h.drop 40) = true
    (x.up = false → exec (.frameReceive l f) s = .next s) ∧
    (x.up = true → (f.fecOk = false ∨ f.fcsOk = false) → ends [(7, 1)]) ∧
    (x.up = true → f.fecOk = true → f.fcsOk = true → (n < 64 ∨ 9216 < n) → ends [(8, 1)]) ∧
    (x.up = true → f.fecOk = true → f.fcsOk = true → 64 ≤ n → n ≤ 9216 → beAt w 12 2 = 0x8808 → ends (tally 9)) ∧
    (x.up = true → f.fecOk = true → f.fcsOk = true → 64 ≤ n → n ≤ 9216 → beAt w 12 2 ≠ 0x8808 →
      s.addressed l (beAt w 0 6) = false → ends (tally 10)) ∧
    (routed → ¬sound → ends (tally 12)) ∧
    (routed → sound → parseBeykai (s.globOf l).device (h.drop 48) = none → ends (tally 14)) ∧
    (ours → parseBeykai (s.globOf l).device h = none → ends (tally 14)) ∧
    ∀ b : Beykai, ours → parseBeykai (s.globOf l).device h = some b →
      (byteAt h 0 = 1 ∧ h.length = 32 + beAt h 4 2 ∧ (s.globOf l).device = some (beAt h 8 2) ∧ b.src = beAt h 6 2 ∧
        b.cls = (byteAt h 1).toNat ∧ (b.cls = 1 ∨ b.cls = 2)) ∧
      (s.entryAt l b.src = none → ends (tally 15)) ∧
      ∀ p : Peer, s.entryAt l b.src = some p → p.device = b.src →
        (p.frozen.isSome = true → ends (tally 16)) ∧
        (p.frozen = none → b.cls = 1 →
          (100 ≤ s.admitted1s (linkGroup l) f.at_ms → ends (tally 17)) ∧
          (s.admitted1s (linkGroup l) f.at_ms < 100 → admitOk b.body = true → b.session ≠ 0 →
            Gives (.frameReceive l f) s fun t => Counts s t l (tally 18) ∧ t.out = s.out ∧
              t.peer? b.src = some { p with admitIn := p.admitIn ++
                [{ link := l, session := b.session, epoch := b.epoch, payload := b.body }] } ∧
              t.admitted1s (linkGroup l) f.at_ms = s.admitted1s (linkGroup l) f.at_ms + 1 ∧
              t = { s with fab := { s.fab with subs := t.fab.subs, peers := t.fab.peers, admits := t.fab.admits } })) ∧
        (p.frozen = none → b.cls = 2 → p.session = none → ends (tally 19)) ∧
        ∀ q : Session, p.frozen = none → b.cls = 2 → p.session = some q →
          ((q.id ≠ b.session ∨ q.current b.epoch = false) → ends (tally 19)) ∧
          (q.id = b.session → q.current b.epoch = true →
            ((q.window b.epoch b.link).replay b.pn = true → ends (tally 20)) ∧
            ((q.window b.epoch b.link).replay b.pn = false →
              let opened := sm4GcmOpen (q.rxKey b.epoch) (frameNonce (q.rxSalt b.epoch) b.link b.pn) b.head b.body
              (opened = none → ends (tally 21)) ∧
              ∀ plain : Bytes, opened = some plain → plain.length + 16 = b.body.length →
                (parseRecords (plain.length / 32 + 1) plain = none → Gives (.frameReceive l f) s fun t =>
                  Counts s t l (tally 22) ∧ ∃ y, t.peer? b.src = some y ∧ y.frozen = some 0x0B0E ∧ y.session = none) ∧
                ∀ rs, parseRecords (plain.length / 32 + 1) plain = some rs → (∀ r ∈ rs, isRequest r.kind = false) →
                  Gives (.frameReceive l f) s fun t => Counts s t l (tally 22) ∧ t.out = s.out ∧
                    (∃ q', t.session? b.src = some q' ∧ q'.inbox = q.inbox ++ rs ∧ q'.reqs = q.reqs) ∧
                    t = { s with fab := { s.fab with subs := t.fab.subs, peers := t.fab.peers } } ∧
                    Gives (.frameReceive l f) t fun u =>
                      Counts t u l (tally 20) ∧ OnlySub t u l))

/-- R597 to R601, R606, R607, R654: FABRIC_ADMIT keeps an anchor in its slot, the own chain and the peers' entries, each
journalled first; certificates that fail are refused with CERT_INVALID (0x0B05), a body outside Table 9 and an entry,
anchor or session that is not there with ADMIT_INVALID (0x0B04). An ADD_PEER keeps the session that still meets R595 and
ends any other; a REMOVE_PEER ends it and waits for the six groups; a REKEY opens a rekey. PEER_THAW ends a freeze, and is
refused with PEER_THAW_INVALID (0x0B0C) where there is none. Completes the six FABRIC_ADMIT rows and PEER_THAW. -/
def Obligations.AdmissionChangesTheEntries : Prop :=
  ∀ (s : State) (r : SlotRef) (b : Bytes), s.wr = [] →
    let x := slotBody b
    let n := (byteAt x 1).toNat
    let d := leAt x 4 2
    let may := fun k : Nat => s.store.reserveOnly = false ∧ s.store.room k = true
    let fabOnly := fun (t : State) (f : Fabric) => t.fab = f ∧ s.store.lastSeq < t.store.lastSeq ∧
      Answered t r b Err.success (zeros 240) ∧
      t = { s with fab := t.fab, store := t.store, ports := t.ports, ccx := t.ccx, out := t.out }
    (Taken s r .addAnchor b →
      (∀ der, s.admitBodyOk x true false false true = true → s.admitBuffer x = some der →
        (certsOk der = true → may der.length → Gives (.fabricAdmitAddAnchor r) s fun t =>
          fabOnly t { s.fab with anchors := (n, der) :: s.fab.anchors.filter fun a => a.1 != n }) ∧
        (certsOk der = false → Gives (.fabricAdmitAddAnchor r) s fun t => TurnedAway t s r b 0x0B05)) ∧
      ((s.admitBodyOk x true false false true = false ∨ s.admitBuffer x = none) →
        Gives (.fabricAdmitAddAnchor r) s fun t => TurnedAway t s r b 0x0B04)) ∧
    (Taken s r .removeAnchor b →
      (s.admitBodyOk x true false false false = true → (∃ a ∈ s.fab.anchors, a.1 = n) → may 0 →
        Gives (.fabricAdmitRemoveAnchor r) s fun t =>
          fabOnly t { s.fab with anchors := s.fab.anchors.filter fun a => a.1 != n }) ∧
      ((s.admitBodyOk x true false false false = false ∨ ∀ a ∈ s.fab.anchors, a.1 ≠ n) →
        Gives (.fabricAdmitRemoveAnchor r) s fun t => TurnedAway t s r b 0x0B04)) ∧
    (Taken s r .setOwnChain b →
      (∀ der v, s.admitBodyOk x false false false true = true → s.admitBuffer x = some der → s.fab.glob.device = some v →
        (certsOk der = true → ownChainOk der v = true → may der.length →
          Gives (.fabricAdmitSetOwnChain r) s fun t => fabOnly t { s.fab with ownChain := der }) ∧
        ((certsOk der = false ∨ ownChainOk der v = false) →
          Gives (.fabricAdmitSetOwnChain r) s fun t => TurnedAway t s r b 0x0B05)) ∧
      ((s.admitBodyOk x false false false true = false ∨ s.admitBuffer x = none) →
        Gives (.fabricAdmitSetOwnChain r) s fun t => TurnedAway t s r b 0x0B04)) ∧
    (Taken s r .addPeer b →
      let e := peerOf x
      (s.admitBodyOk x false true true false = true → s.addressMissing e = false → may 110 →
        (s.peer? d = none → (byteAt x 2).getLsbD 1 = false → Gives (.fabricAdmitAddPeer r) s fun t =>
          fabOnly t { s.fab with peers := s.fab.peers ++ [e] }) ∧
        (∀ p, s.peer? d = some p → (∀ q, p.session = some q → s.stillAdmitted e q = true) →
          (byteAt x 2).getLsbD 1 = false → Gives (.fabricAdmitAddPeer r) s fun t =>
            t.peer? d = some { p with pin := e.pin, mac := e.mac, ipv6 := e.ipv6, subports := e.subports } ∧
              ∀ k, k ≠ d → t.peer? k = s.peer? k) ∧
        (∀ p q, s.peer? d = some p → p.session = some q → s.stillAdmitted e q = false →
          (byteAt x 2).getLsbD 1 = false → Gives (.fabricAdmitAddPeer r) s fun t => t.session? d = none) ∧
        ((byteAt x 2).getLsbD 1 = true → s.leaving d = false →
          (∀ p, s.peer? d = some p → p.frozen = none ∧ p.session = none ∧ p.hs = none) →
          Gives (.fabricAdmitAddPeer r) s fun t => ∃ p h, t.peer? d = some p ∧ p.hs = some h ∧ h.initiator = true ∧
            h.rekey = false ∧ h.tries = 1 ∧ h.id ≠ 0)) ∧
      ((s.admitBodyOk x false true true false = false ∨ s.addressMissing e = true) →
        Gives (.fabricAdmitAddPeer r) s fun t => TurnedAway t s r b 0x0B04)) ∧
    (Taken s r .removePeer b →
      (s.admitBodyOk x false true false false = true → s.admitted d = true → may 0 →
        Gives (.fabricAdmitRemovePeer r) s fun t => Waits t s r b ∧
          t.fab.removing = s.fab.removing ++ [(s.ccx.takeSeq, d, List.range 6)] ∧
          ∃ p, t.peer? d = some p ∧ p.session = none ∧ p.hs = none ∧ p.waiting = []) ∧
      ((s.admitBodyOk x false true false false = false ∨ s.admitted d = false) →
        Gives (.fabricAdmitRemovePeer r) s fun t => TurnedAway t s r b 0x0B04)) ∧
    (Taken s r .rekey b →
      (∀ p q, s.admitBodyOk x false true false false = true → s.peer? d = some p → p.session = some q →
        (p.hs = none → Gives (.fabricAdmitRekey r) s fun t => ∃ y h, t.peer? d = some y ∧ y.session = some q ∧
          y.hs = some h ∧ h.rekey = true ∧ h.initiator = true ∧ h.id = q.id ∧ h.tries = 1) ∧
        (p.hs.isSome = true → Gives (.fabricAdmitRekey r) s fun t =>
          t.fab = s.fab ∧ Answered t r b Err.success (zeros 240))) ∧
      ((s.admitBodyOk x false true false false = false ∨ s.session? d = none) →
        Gives (.fabricAdmitRekey r) s fun t => TurnedAway t s r b 0x0B04)) ∧
    (Taken s r .peerThaw b →
      let k := leAt x 0 2
      (∀ p, s.peer? k = some p → p.frozen.isSome = true → Gives (.peerThaw r) s fun t =>
        t.peer? k = some { p with frozen := none } ∧ (∀ j, j ≠ k → t.peer? j = s.peer? j) ∧
          Answered t r b Err.success (zeros 240) ∧
          t = { s with fab := { s.fab with peers := t.fab.peers }, ports := t.ports, ccx := t.ccx, out := t.out }) ∧
      ((∀ p, s.peer? k = some p → p.frozen = none) → Gives (.peerThaw r) s fun t => TurnedAway t s r b 0x0B0C))

/-- R595, R600 to R603, R606 to R608, R646, R653: a HELLO or a REKEY_HELLO whose chain passes R595 is answered with the
confirmation of the REPLY, unless the module's own proceeds, and one heard again with the REPLY it had; a REPLY whose
chain passes under the anchors of the handshake's beginning, with the confirmation value of the exchange, is answered
with CONFIRM, and installs the keys, as a CONFIRM with the value awaited does: a new session at EPOCH 1 with every count
zero and the waiting requests its own, or for a rekey the next epoch of the same session, the previous one still accepted
until its 10 ms end. A frame that fails counts in HANDSHAKE_FAIL, and a failed rekey ends its session. An unanswered HELLO
is sent again, and given up after the tenth try. That a repeated HELLO gets the same REPLY, that a responder gives up too
and that a failed CONFIRM ends the open handshake are the model's choices (log entry 57), as are the key schedule's
functions (log entry 5). Completes HELLO, REPLY, CONFIRM, REKEY_HELLO, HANDSHAKE_RETRY_TIMER and EPOCH_GRACE_EXPIRE. -/
def Obligations.HandshakesOpenSessions : Prop :=
  ∀ (s : State) (d : Nat) (p : Peer), s.running = true → s.peer? d = some p → s.wr = [] →
    let failed := fun (l : Nat) (t : State) => Counts s t l [(25, 1)]
    (∀ (a : AdmitIn) (rest : List AdmitIn), p.admitIn = a :: rest →
      let goes := fun t : State => s.sendPaths p ≠ [] → FrameOn s t (s.sendPaths p)
      let opens := fun (rekey : Bool) (t : State) => ∃ y h, t.peer? d = some y ∧ y.admitIn = rest ∧
        y.session = p.session ∧ y.hs = some h ∧ h.initiator = false ∧ h.rekey = rekey ∧ h.id = a.session ∧
        h.chain = admitChain a.payload ∧
        h.keys = exchangeKeys (peerSide a.payload) (ownSide s.fab.ownChain h.eph h.nonce) ∧
        h.expect = confirmOf 3 (peerSide a.payload) (ownSide s.fab.ownChain h.eph h.nonce) ∧
        h.sent = admitPayload 2 s.fab.ownChain h.nonce h.eph
          (confirmOf 2 (peerSide a.payload) (ownSide s.fab.ownChain h.eph h.nonce)) ∧ goes t
      let again := fun (h : Handshake) (t : State) => goes t ∧ ∃ y k, t.peer? d = some y ∧ y.admitIn = rest ∧
        y.session = p.session ∧ y.hs = some { h with link := k }
      let turned := fun t : State => failed a.link t ∧ t.peer? d = some { p with admitIn := rest }
      let still := fun t : State => t.peer? d = some { p with admitIn := rest } ∧ t.fab.subs = s.fab.subs ∧ t.out = s.out
      let fresh := fun (h : Handshake) (keys chain : Bytes) (t : State) => ∃ y q, t.peer? d = some y ∧
        y.session = some q ∧ y.hs = none ∧ y.waiting = [] ∧ y.admitIn = rest ∧ q.id = h.id ∧ q.epoch = 1 ∧
        q.keys = keys ∧ q.chain = chain ∧ q.initiator = h.initiator ∧ q.nextTsn = 1 ∧ q.consumed = 0 ∧
        q.seen = 0 ∧ q.cum = 0 ∧ q.returned = 0 ∧ q.issued.toNat ≤ 256 ∧ q.rate = (s.line p : Rat) / 4 ∧
        (p.session = none → q.reqs = p.waiting)
      let next := fun (h : Handshake) (q : Session) (keys chain : Bytes) (t : State) => ∃ y q', t.peer? d = some y ∧
        y.session = some q' ∧ y.hs = none ∧ y.waiting = p.waiting ∧
        q' = { q with epoch := q.epoch + 1, keys := keys, chain := chain, initiator := h.initiator, prevOk := true,
                      prevKeys := q.keys, prevInit := q.initiator, pn := [], windows := q'.windows }
      (admitSub a.payload = 1 →
        (p.chainOk s.anchorList a.payload = false → Gives (.hello d a.session) s turned) ∧
        (p.chainOk s.anchorList a.payload = true → s.ownProceeds p false = true → Gives (.hello d a.session) s still) ∧
        (p.chainOk s.anchorList a.payload = true → s.ownProceeds p false = false →
          (p.heardAgain a = none → Gives (.hello d a.session) s (opens false)) ∧
          ∀ h, p.heardAgain a = some h → Gives (.hello d a.session) s (again h))) ∧
      (∀ q, admitSub a.payload = 4 → p.session = some q →
        (q.id ≠ a.session → Gives (.rekeyHello d a.session) s still) ∧
        (q.id = a.session → p.chainOk s.anchorList a.payload = false → Gives (.rekeyHello d a.session) s turned) ∧
        (q.id = a.session → p.chainOk s.anchorList a.payload = true → s.ownProceeds p true = true →
          Gives (.rekeyHello d a.session) s still) ∧
        (q.id = a.session → p.chainOk s.anchorList a.payload = true → s.ownProceeds p true = false →
          (p.heardAgain a = none → Gives (.rekeyHello d a.session) s (opens true)) ∧
          ∀ h, p.heardAgain a = some h → Gives (.rekeyHello d a.session) s (again h))) ∧
      (∀ h, admitSub a.payload = 2 → p.hs = some h → h.initiator = true → h.id = a.session →
        let i := ownSide (admitChain h.sent) h.eph h.nonce
        let r := peerSide a.payload
        let good := p.chainOk h.anchors a.payload = true ∧ admitConfirm a.payload = confirmOf 2 i r
        (good →
          (h.rekey = false → Gives (.reply d a.session) s fun t => fresh h (exchangeKeys i r) (admitChain a.payload) t ∧
            (p.session = none → goes t)) ∧
          (∀ q, h.rekey = true → p.session = some q →
            Gives (.reply d a.session) s fun t => next h q (exchangeKeys i r) (admitChain a.payload) t ∧ goes t)) ∧
        (¬good → Gives (.reply d a.session) s fun t => failed a.link t ∧
          (h.rekey = false → t.peer? d = some { p with admitIn := rest }) ∧
          (h.rekey = true → t.session? d = none))) ∧
      (∀ h, admitSub a.payload = 3 → p.hs = some h → h.initiator = false → h.id = a.session →
        (admitConfirm a.payload = h.expect →
          (h.rekey = false → Gives (.confirm d a.session) s (fresh h h.keys h.chain)) ∧
          (∀ q, h.rekey = true → p.session = some q → Gives (.confirm d a.session) s (next h q h.keys h.chain))) ∧
        (admitConfirm a.payload ≠ h.expect → Gives (.confirm d a.session) s fun t => failed a.link t ∧
          (h.rekey = false → ∃ y, t.peer? d = some y ∧ y.hs = none ∧ y.waiting = [] ∧ y.admitIn = rest) ∧
          (h.rekey = true → t.session? d = none)))) ∧
    (∀ h, p.hs = some h →
      (h.tries < 10 → h.initiator = true → Gives (.handshakeRetryTimer d) s fun t =>
        (∃ k w, t.peer? d = some { p with hs := some { h with tries := h.tries + 1, link := k }, admitOut := w }) ∧
          (s.sendPaths p ≠ [] → FrameOn s t (s.sendPaths p))) ∧
      (h.tries < 10 → h.initiator = false → Gives (.handshakeRetryTimer d) s fun t =>
        t.peer? d = some { p with hs := some { h with tries := h.tries + 1 } } ∧ t.out = s.out) ∧
      (10 ≤ h.tries → Gives (.handshakeRetryTimer d) s fun t =>
        (h.rekey = false → ∃ y, t.peer? d = some y ∧ y.hs = none ∧ y.waiting = [] ∧ y.frozen = p.frozen) ∧
          (h.rekey = true → t.session? d = none) ∧ ∀ l, h.link = some l → failed l t)) ∧
    ∀ q, p.session = some q → Gives (.epochGraceExpire d) s fun t =>
      t.session? d = some { q with prevOk := false, windows := q.windows.filter fun w => w.epoch == q.epoch } ∧
        t = { s with fab := { s.fab with peers := t.fab.peers } }

/-! ### The hall memory space (13) -/

/-- R616, R617, R619, R626 to R630, R636, R637, R642, R652: a request whose turn has come is performed on the window of its
hall address: a WRITE, or the rows of a PUSH, land in that context's memory and in no other byte; a READ is answered with
READ_DATA records that together hold its bytes; a FETCH_ADD adds modulo 2^64 and is answered with the earlier value,
again from the cache when it comes twice; a SEQ_READ is answered with what its sequence holds, and a SEQ_RELEASE ends the
walk. One that may not be performed is answered with a STATUS record, the sixteenth in a row freezing the peer with 0x0B0F,
as is a READ that meets an uncorrectable granule of a stack. Each first copy returns its credits. The values are stated of
a request that no unordered one performed while it waited may overlap. Completes WRITE_RECORD, PUSH_RECORD, READ_RECORD,
FETCH_ADD_RECORD, SEQ_READ_RECORD and SEQ_RELEASE_RECORD. -/
def Obligations.HallRequestsAreServed : Prop :=
  ∀ (s : State) (d : Nat) (q : Session) (tsn : Word) (k : Nat) (r : InRec) (reads : List MemHit), s.phase = .ready →
    s.session? d = some q → s.wr = [] → s.mem.wf = true →
    (q.inbox.find? fun x => x.kind == k && x.tsn == tsn) = some r →
    let after := fun (t : State) (out : List InRec) => ∃ q', t.session? d = some q' ∧ Performed q q' r 0 ∧
      q'.toSend = q.toSend ++ out ∧ q'.reqs = q.reqs
    let turned := fun (i : Instr) (code : Code) => Gives i s fun t =>
      (q.refused < 15 → t.mem = s.mem ∧ ∃ q', t.session? d = some q' ∧ Performed q q' r (q.refused + 1) ∧
        q'.toSend = q.toSend ++ [response 0x13 code tsn 0 []]) ∧
      (15 ≤ q.refused → t.session? d = none ∧ ∃ p, t.peer? d = some p ∧ p.frozen = some 0x0B0F)
    let P := fun (c : Nat) (va n : Nat) => (List.range n).map fun i => s.physOf c (va + i)
    let lands := fun (t : State) (ws : List (Nat × Bytes)) =>
      (∀ w ∈ ws, (P (hallWindow r.addr) (hallOffset r.addr + w.1) w.2.length).map t.mem.get = w.2) ∧
        (∀ a, a ∉ (ws.map fun w => P (hallWindow r.addr) (hallOffset r.addr + w.1) w.2.length).flatten → t.mem.get a = s.mem.get a) ∧
        t.ctxs = s.ctxs ∧ t.out = s.out
    let toUs := fun (a n : Nat) => (s.homeGlob d).device = some (hallDevice a) ∧ hallOffset a + n ≤ 2 ^ 48 ∧
      ∃ c, s.ctx? (hallWindow a) = some c ∧ c.live = true
    let corrected := ∀ h ∈ reads, h.found ≠ .uncorrectable
    let alone := r.mixed = []
    let first := r.dup = false ∧ (r.ordered = true → q.cum + 1 = tsn)
    (k = 0x01 → first →
      (toUs r.addr r.data.length → s.accessFault (hallWindow r.addr) (hallOffset r.addr) r.data.length true = none →
        (P (hallWindow r.addr) (hallOffset r.addr) r.data.length).Nodup → Gives (.writeRecord d tsn) s fun t =>
          (alone → lands t [(0, r.data)]) ∧ after t []) ∧
      (∀ e, s.hallTarget d r.addr r.data.length false = .error e → turned (.writeRecord d tsn) e) ∧
      ∀ e, toUs r.addr r.data.length →
        s.accessFault (hallWindow r.addr) (hallOffset r.addr) r.data.length true = some e →
        turned (.writeRecord d tsn) e.1) ∧
    (k = 0x02 → first →
      let w := r.aux.toNat % 65536
      let rows := (List.range (r.aux.toNat / 65536)).map fun i => (i * r.ld, sliceBytes r.data (i * w) w)
      ((∀ x ∈ rows, toUs r.addr (x.1 + w) ∧
          s.accessFault (hallWindow r.addr) (hallOffset r.addr + x.1) w true = none) →
        ((rows.map fun x => P (hallWindow r.addr) (hallOffset r.addr + x.1) w).flatten).Nodup → Gives (.pushRecord d tsn) s fun t =>
          (alone → lands t rows) ∧ after t []) ∧
      ∀ e, s.pushFault d r.addr rows = some e → turned (.pushRecord d tsn) e) ∧
    (k = 0x03 → first → 1024 ≤ s.payloadTo d →
      (toUs r.addr r.aux.toNat → s.accessFault (hallWindow r.addr) (hallOffset r.addr) r.aux.toNat false = none →
        (corrected → Gives (.readRecord d ⟨tsn, reads⟩) s fun t => t.mem = s.mem ∧ ∃ out, after t out ∧
          (alone → (out.map fun x => x.data).flatten =
            (P (hallWindow r.addr) (hallOffset r.addr) r.aux.toNat).map s.mem.get) ∧
          ∀ (j : Nat) (x : InRec), out[j]? = some x → x.kind = 0x11 ∧ x.tsn = tsn ∧
            x.aux = BitVec.ofNat 32 (j * (s.payloadTo d - 32)) ∧ x.data.length ≤ s.payloadTo d - 32) ∧
        ((∀ h ∈ reads, h.bulk = false) →
          (∃ h ∈ reads, h.found = .uncorrectable ∧ ∃ i, i < r.aux.toNat ∧
            hitAddr h = s.physOf (hallWindow r.addr) (hallOffset r.addr + i)) →
          turned (.readRecord d ⟨tsn, reads⟩) 0x0904)) ∧
      ∀ e, s.hallTarget d r.addr r.aux.toNat false = .error e → turned (.readRecord d ⟨tsn, reads⟩) e) ∧
    (k = 0x04 → first →
      (toUs r.addr 8 → hallOffset r.addr % 8 = 0 → s.accessFault (hallWindow r.addr) (hallOffset r.addr) 8 true = none →
        (∀ w ∈ s.waiters, w.addr ≠ s.physOf (hallWindow r.addr) (hallOffset r.addr)) → corrected → alone →
        let a := s.physOf (hallWindow r.addr) (hallOffset r.addr)
        let word := fun u : State => (List.range 8).map fun i => u.mem.get (a + i)
        Gives (.fetchAddRecord d ⟨tsn, reads⟩) s fun t =>
          leVal (word t) = (leVal (word s) + leVal r.data) % 2 ^ 64 ∧
            (∀ x, (x < a ∨ a + 8 ≤ x) → t.mem.get x = s.mem.get x) ∧ t.ctxs = s.ctxs ∧
            after t [response 0x12 0 tsn 0 (word s)] ∧
            ((∀ x ∈ q.faCache, (x.1 - tsn).toNat < 4096 ∨ 2 ^ 31 + 4096 ≤ (x.1 - tsn).toNat) →
              ∃ q', t.session? d = some q' ∧ q'.cached tsn = some (word s))) ∧
      ∀ e, s.hallTarget d r.addr 8 true = .error e → turned (.fetchAddRecord d ⟨tsn, reads⟩) e) ∧
    (k = 0x04 → r.dup = true → ∀ v, q.cached tsn = some v → Gives (.fetchAddRecord d ⟨tsn, reads⟩) s fun t =>
      t.mem = s.mem ∧ ∃ q', t.session? d = some q' ∧ q'.inbox = q.inbox.erase r ∧
        q'.toSend = q.toSend ++ [response 0x12 0 tsn 0 v] ∧ q'.returned = q.returned ∧ q'.cum = q.cum) ∧
    (k = 0x05 → first →
      let walk : Word := BitVec.ofNat 32 (leAt r.data 0 4)
      (s.servedSeq? d (leAt r.data 4 4) walk = none → turned (.seqReadRecord d ⟨tsn, reads⟩) 0x0607) ∧
      ∀ (z : Sequence) (bs : Bytes), s.servedSeq? d (leAt r.data 4 4) walk = some z → z ∈ s.seqs → corrected →
        (s.seqs.map fun y => y.handle).Nodup → z.pinned? d walk = none → s.seqBytes z z.current r.data = .ok bs →
        1024 ≤ s.payloadTo d → Gives (.seqReadRecord d ⟨tsn, reads⟩) s fun t => t.mem = s.mem ∧
          (∃ out, after t out ∧ (out.map fun x => x.data).flatten = bs) ∧
          t.seqs = s.seqs.map (fun y =>
            if y.handle = z.handle then { y with walks := y.walks ++ [.peer z.current.version d walk] } else y)) ∧
    (k = 0x06 → first → Gives (.seqReleaseRecord d tsn) s fun t => after t [] ∧ t.mem = s.mem ∧
      ∀ z ∈ t.seqs, ∀ v, Walk.peer v d (BitVec.ofNat 32 (leAt r.data 0 4)) ∉ z.walks)

/-- R627, R628, R636, R640, R648, R657: a response reaches the request it names. READ_DATA and FA_RESULT land in the
request's LOCAL range and in no other byte; STATUS faults its item with HALL_REFUSED (0x0B08), the code of the refusal in the
detail, or with RING_INVALID (0x0607) where the request is of a ring step; ACK acknowledges every request at or below CUM
and those its SACK names; CREDIT raises SEEN only. A response whose context has been torn down since is discarded and
counted. Completes READ_DATA_RECORD, FA_RESULT_RECORD, STATUS_RECORD, ACK_RECORD and CREDIT_RECORD. -/
def Obligations.ResponsesReachTheirRequests : Prop :=
  ∀ (s : State) (d : Nat) (q : Session) (x : InRec), s.phase = .ready → s.session? d = some q → s.wr = [] →
    s.mem.wf = true →
    let rest := fun q' : Session => q'.inbox = q.inbox.erase x ∧ q'.toSend = q.toSend ∧ q'.nextTsn = q.nextTsn
    let lands := fun (t : State) (r : Req) (va : Nat) =>
      ((List.range x.data.length).map fun i => t.mem.get (s.physOf r.ctx (va + i))) = x.data ∧
        (∀ a, (∀ i, i < x.data.length → s.physOf r.ctx (va + i) ≠ a) → t.mem.get a = s.mem.get a) ∧ t.ctxs = s.ctxs
    let apart := fun (r : Req) (va : Nat) => ((List.range x.data.length).map fun i => s.physOf r.ctx (va + i)).Nodup
    let got := fun k : Nat => (q.inbox.find? fun y => y.kind == k) = some x
    let passed := fun t : State => t.stale = satInc s.stale 1 ∧ t.mem = s.mem ∧ t.ctxs = s.ctxs ∧
      ∃ q', t.session? d = some q' ∧ rest q' ∧ q'.reqs = q.reqs
    (∀ r : Req, q.req? x.tsn = some r →
      (r.epoch ≠ s.ctxEpoch r.ctx →
        (got 0x11 → Gives (.readDataRecord d) s passed) ∧ (got 0x12 → Gives (.faResultRecord d) s passed) ∧
          (got 0x13 → Gives (.statusRecord d) s passed)) ∧
      (r.epoch = s.ctxEpoch r.ctx → r.dead = false →
        (got 0x11 → r.kind = 3 → x.aux.toNat + x.data.length ≤ r.aux.toNat →
          s.accessFault r.ctx (r.localVa + x.aux.toNat) x.data.length true = none → apart r (r.localVa + x.aux.toNat) →
          Gives (.readDataRecord d) s fun t => lands t r (r.localVa + x.aux.toNat) ∧
            ∃ q', t.session? d = some q' ∧ rest q' ∧
              q'.req? x.tsn = some { r with got := r.got ++ [(x.aux.toNat, x.data.length)] }) ∧
        (got 0x12 → r.kind = 4 → r.localVa ≠ 0 → s.accessFault r.ctx r.localVa x.data.length true = none →
          apart r r.localVa → Gives (.faResultRecord d) s fun t => lands t r r.localVa ∧
            ∃ q', t.session? d = some q' ∧ rest q' ∧ q'.req? x.tsn = some { r with got := [(0, 8)] }) ∧
        ∀ c b, got 0x13 → s.ctx? r.ctx = some c → c.step = false → c.live = true → c.state ≠ .halted →
          (c.begun.find? fun y => y.index == r.index) = some b →
          let ring := r.kind = 5 ∨ r.kind = 6
          let code : Code := if ring then 0x0607 else 0x0B08
          Gives (.statusRecord d) s fun t =>
            FaultedBy t r.ctx c r.index b.opcode b.policy code ∧
              (c.fault.outcome = 0 → ∃ y, t.ctx? r.ctx = some y ∧
                y.fault.detail = fabDetail code x.status d r.item (if ring then 0 else r.addr) (s.ackedBytes r)))) ∧
    (got 0x14 → Gives (.ackRecord d) s fun t => t.mem = s.mem ∧ t.ctxs = s.ctxs ∧ ∃ q', t.session? d = some q' ∧ rest q' ∧
      (∀ y ∈ q'.reqs, y.sent ≠ 0 → ackCovers x y.tsn = true → y.acked = true) ∧
      (∀ y ∈ q.reqs, (y.sent = 0 ∨ ackCovers x y.tsn = false) → y.acked = false → y ∈ q'.reqs) ∧
      ∀ y ∈ q.reqs, y.sent ≠ 0 → y.acked = false → ackCovers x y.tsn = true →
        { y with acked := true, due := false } ∈ q'.reqs) ∧
    (got 0x15 → Gives (.creditRecord d) s fun t =>
      t.session? d = some { q with inbox := q.inbox.erase x, seen := if serialLe x.aux q.seen = true then q.seen else x.aux } ∧
        t = { s with fab := { s.fab with peers := t.fab.peers } })

/-- R594, R605, R606, R622, R635, R636, R638, R639, R641, R643, R647, R650: a session sends what waits for a path, then its
next response, or else its next request that the credits and the window allow, under the next PN of a path; a WRITE longer
than a frame may carry is cut first. The path is the next of a rotation weighted by MAC rate: one with the fewest frames
for its rate. A request without its outcome is sent again under its TSN, on another path where one is up, and r halves, to
no less than 1 Gb/s; with no path up it waits. The acknowledgement interval grants up to 256 credits more and sends ACK and
CREDIT, which wait for a path too; each interval moves r within 1 Gb/s and the line; 100 ms of silence end the session, and
a request without its outcome faults its item with HALL_SESSION_LOST (0x0B0A), or RING_PEER_LOST (0x060D) where it is of a
ring step. One record a frame, the rotation's count and its ties, and the free grant are the model's choices (log entries
23, 4 and 24). Completes FRAME_TRANSMIT, ACK_TIMER, RETRANSMIT_TIMEOUT, SESSION_TIMEOUT and RATE_INTERVAL. -/
def Obligations.SessionsKeepTime : Prop :=
  ∀ (s : State) (d : Nat) (p : Peer) (q : Session), s.phase = .ready → s.peer? d = some p → p.session = some q →
    s.wr = [] →
    let ls := s.sendLinks p q
    let rate := fun l : Nat => (s.fport (l / 8)).macRate
    let sent := fun (t : State) (among : List Nat) (l : Nat) (q' : Session) => t.session? d = some q' ∧ l ∈ among ∧
      (∀ k ∈ among, q.placed ls l * rate k ≤ q.placed ls k * rate l) ∧
      (∃ fr, Output.frame l fr ∈ t.out) ∧ q'.sentOn l = q.sentOn l + 1 ∧ (∀ k, k ≠ l → q'.sentOn k = q.sentOn k) ∧
      (2 ^ 31 ≤ q.sentOn l + 1 → s.running = true → ∃ y, t.peer? d = some y ∧ y.hs.isSome = true)
    let small := fun r : InRec => ∀ l ∈ ls, recBytes (q.lead ++ [r]) ≤ (s.globOf l).maxPayload
    let clear := ls ≠ [] ∧ p.admitOut = [] ∧ q.ackDue = false ∧ ∀ r ∈ q.reqs, r.due = false
    (∀ a more, p.admitOut = a :: more → s.sendPaths p ≠ [] → Gives (.frameTransmit d) s fun t =>
      FrameOn s t (s.sendPaths p) ∧ ∃ y, t.peer? d = some y ∧ y.admitOut = more ∧ y.session = p.session) ∧
    (p.admitOut = [] → ls = [] → exec (.frameTransmit d) s = .next s) ∧
    (p.admitOut = [] → ls ≠ [] → q.ackDue = true → Gives (.frameTransmit d) s fun t => ∃ l q', sent t ls l q' ∧
      q'.ackDue = false ∧ q'.toSend = q.toSend ∧ q'.reqs = q.reqs) ∧
    (∀ r, p.admitOut = [] → ls ≠ [] → q.ackDue = false → (q.reqs.find? fun r => r.due && !r.finished) = some r →
      q.req? r.tsn = some r → small r.record → Gives (.frameTransmit d) s fun t => ∃ l q', sent t (otherPaths r ls) l q' ∧
        q'.req? r.tsn = some { r with sent := r.sent + 1, lastLink := l, due := false } ∧ q'.retx = q.retx + 1 ∧
        q'.toSend = q.toSend ∧ q'.consumed = q.consumed) ∧
    (∀ r rest, clear → q.toSend = r :: rest → small r → Gives (.frameTransmit d) s fun t => ∃ l q', sent t ls l q' ∧
      q'.toSend = rest ∧ q'.reqs = q.reqs ∧ q'.nextTsn = q.nextTsn ∧ q'.consumed = q.consumed) ∧
    (clear → q.toSend = [] →
      (∀ i r, s.nextNew q = some i → q.reqs[i]? = some r → small r.record → q.mayAfford r = true →
        Gives (.frameTransmit d) s fun t => ∃ l q', sent t ls l q' ∧
          q'.reqs = q.reqs.set i { r with tsn := q.nextTsn, sent := 1, lastLink := l } ∧ q'.nextTsn = q.nextTsn + 1 ∧
          q'.consumed = q.consumed + BitVec.ofNat 32 r.cost) ∧
      (∀ i r m, s.nextNew q = some i → q.reqs[i]? = some r → (∀ l ∈ ls, (s.globOf l).maxPayload = m) → q.lead = [] →
        r.kind = 1 → 32 < m → m - 32 < r.data.length → q.mayAfford { r with cost := recCost (m - 32) } = true →
        Gives (.frameTransmit d) s fun t => ∃ l q', sent t ls l q' ∧
          q'.reqs = q.reqs.take i ++ [
            { r with data := r.data.take (m - 32), cost := recCost (m - 32), tsn := q.nextTsn, sent := 1, lastLink := l },
            { r with data := r.data.drop (m - 32), addr := r.addr + (m - 32), localVa := r.localVa + (m - 32),
                     cost := recCost (r.data.length - (m - 32)) }] ++ q.reqs.drop (i + 1)) ∧
      ((∀ i r, s.nextNew q = some i → q.reqs[i]? = some r → small r.record ∧ q.mayAfford r = false) →
        exec (.frameTransmit d) s = .next s)) ∧
    (ls ≠ [] → Gives (.ackTimer d) s fun t => ∃ l q', sent t ls l q' ∧ q'.toSend = q.toSend ∧ q'.reqs = q.reqs ∧
      ∃ k, k ≤ 256 ∧ k ≤ 32768 - (q.issued - q.returned).toNat ∧ q'.issued = q.issued + BitVec.ofNat 32 k) ∧
    (ls = [] → Gives (.ackTimer d) s fun t => ∃ q', t.session? d = some q' ∧ q'.ackDue = true ∧ q'.toSend = q.toSend ∧
      q'.reqs = q.reqs ∧ t.out = s.out) ∧
    (∀ (tsn : Word) (r : Req), q.req? tsn = some r →
      (r.finished = false → Gives (.retransmitTimeout d tsn) s fun t => ∃ q', t.session? d = some q' ∧
        q'.rate = max (q.rate / 2) 1000000000 ∧ q'.nextTsn = q.nextTsn ∧ q'.consumed = q.consumed ∧
        (ls ≠ [] → small r.record → ∃ l, sent t (otherPaths r ls) l q' ∧ ((∃ k ∈ ls, k ≠ r.lastLink) → l ≠ r.lastLink) ∧
          q'.retx = q.retx + 1 ∧ q'.req? tsn = some { r with sent := r.sent + 1, lastLink := l, due := false }) ∧
        (ls = [] → q' = { q with rate := q'.rate, reqs := q'.reqs } ∧ q'.req? tsn = some { r with due := true } ∧
          t.out = s.out)) ∧
      (r.finished = true → exec (.retransmitTimeout d tsn) s = .next s)) ∧
    (Gives (.sessionTimeout d) s fun t => t.session? d = none ∧
      (∀ z ∈ t.seqs, ∀ v w, Walk.peer v d w ∉ z.walks) ∧
      ∀ r c b, (q.reqs.filter fun y => !y.dead && !y.finished) = [r] → r.epoch = s.ctxEpoch r.ctx →
        s.ctx? r.ctx = some c → c.step = false → c.live = true → c.state ≠ .halted →
        (c.begun.find? fun y => y.index == r.index) = some b →
        FaultedBy t r.ctx c r.index b.opcode b.policy (if r.kind = 5 ∨ r.kind = 6 then 0x060D else 0x0B0A)) ∧
    (1000000000 ≤ s.line p → Gives (.rateInterval d) s fun t =>
      let clamp := fun v : Rat => min (max v 1000000000) (s.line p : Rat)
      ∃ q', t.session? d = some q' ∧ 1000000000 ≤ q'.rate ∧ q'.rate ≤ (s.line p : Rat) ∧ q'.eceIn = false ∧
        (q.eceIn = true → q'.alpha = 15 / 16 * q.alpha + 1 / 16 ∧ q'.rate = clamp (q.rate * (1 - q'.alpha / 2)) ∧
          q'.quiet = 0) ∧
        (q.eceIn = false → q'.alpha = 15 / 16 * q.alpha ∧
          (q.srtt ≤ q.rttBase + 25000 → q'.quiet = q.quiet + 1 ∧
            (q.quiet < 4 → q'.rate = clamp (q.rate + (s.line p : Rat) / 100)) ∧
            (4 ≤ q.quiet → q'.rate = clamp (5 / 4 * q.rate))) ∧
          (q.rttBase + 25000 < q.srtt → q'.quiet = 0 ∧
            q'.rate = clamp (q.rate * max (1 / 2) (1 - ((q.srtt : Rat) - q.rttBase - 25000) / q.srtt)))) ∧
        t = { s with fab := { s.fab with peers := t.fab.peers } })

/-- R225, R617, R631 to R634: a fabric command that keeps Table 5 of 13, whose items all may run and go to one peer with a
session, stands begun and hands the session its requests: for a WRITE pieces of at most MAX_PAYLOAD - 32 bytes that
together are the item's LOCAL bytes, for a FETCH_ADD one request of its addend, for a GET reads of at most 64 KiB that
together are its length, at consecutive hall addresses, and after them the fetch-and-add of one to DONE_ADDR where one is
given. No memory changes yet. A descriptor outside Table 5 is invalid with FABRIC_RANGE (0x0B06). Completes FABRIC_PUT
WRITE, FABRIC_PUT FETCH_ADD and FABRIC_GET. -/
def Obligations.FabricCommandsIssue : Prop :=
  ∀ (s : State) (n : Nat) (c : Ctx) (l : CmdList) (d raw : Bytes) (row : Instr) (k : Nat) (get : Bool), Fetched s n c l d →
    s.wr = [] → s.hasFabric = true →
    ((row, k, get) = (Instr.fabricPutWrite n, 1, false) ∧ isPut false d = true ∨
      (row, k, get) = (Instr.fabricPutFetchAdd n, 4, false) ∧ isPut true d = true ∨
      (row, k, get) = (Instr.fabricGet n, 3, true) ∧ isOpcode 9 d = true) →
    (s.fabricOk d get = false → Gives row s fun t => FaultedBy t n c l.next (descOpcode d) (descPolicy d) 0x0B06) ∧
    ∀ (dev : Nat) (p : Peer) (q : Session), s.fabricOk d get = true →
      s.vread n (leAt d 16 8) (32 * leAt d 24 2) = .ok raw → c.step = false → 1024 ≤ s.payloadTo dev →
      s.payloadTo dev ≤ 8192 → s.peer? dev = some p → p.frozen = none → p.session = some q →
      let done := leAt d 32 8
      (done = 0 ∨ hallDevice done = dev) →
      let items := (List.range (leAt d 24 2)).map fun i => s.judgeFab c k i (sliceBytes raw (32 * i) 32)
      (∀ f ∈ items, f.code = none ∧ hallDevice f.remote = dev) → Gives row s fun t =>
        (∃ b, StandsBegun t n c l d b ∧ b.waiting = false) ∧ OthersKeep s t n ∧ t.mem = s.mem ∧
        ∃ q' rs, t.session? dev = some q' ∧ q' = { q with reqs := q.reqs ++ rs } ∧
          (∀ r ∈ rs, r.sent = 0 ∧ r.ctx = n ∧ r.index = l.next ∧ r.ordered = (byteAt d 27).getLsbD 0 ∧
            (r.after = false → r.kind = k)) ∧
          (done = 0 → ∀ r ∈ rs, r.after = false) ∧
          (done ≠ 0 → ∃ r ∈ rs, r.after = true ∧ r.kind = 4 ∧ r.addr = done ∧ r.data = leBytes 8 1 ∧ r.part = 65536) ∧
          ∀ f ∈ items,
            let mine := rs.filter fun r => r.part == f.part
            (∀ (j : Nat) (r : Req), mine[j]? = some r →
              (k = 1 → r.addr = f.remote + j * (s.payloadTo dev - 32) ∧ r.data.length ≤ s.payloadTo dev - 32) ∧
              (k = 3 → r.addr = f.remote + j * 65536 ∧ r.localVa = f.va + j * 65536 ∧ r.aux.toNat ≤ 65536)) ∧
            (k = 1 → (mine.map fun r => r.data).flatten =
              (List.range f.len).map fun i => s.mem.get (s.physOf n (f.va + i))) ∧
            (k = 3 → (mine.map fun r => r.aux.toNat).sum = f.len) ∧
            (k = 4 → ∃ r, mine = [r] ∧ r.addr = f.remote ∧ r.data = leBytes 8 f.len ∧ r.localVa = f.va)
end

