-- ==== Sys2Proof/Laws/State.lean ====
section
/-! SUPPORT. What each named update of the state leaves as it was: one lemma for each update and field. -/
namespace Sys2Proof.Machine

open Sys2Proof

/-! ### `State.updPort` changes `ports` alone -/

@[simp] theorem State.updPort_pending (s : State) (p : Nat) (f : Port → Port) : (s.updPort p f).pending = s.pending := rfl
@[simp] theorem State.updPort_mem (s : State) (p : Nat) (f : Port → Port) : (s.updPort p f).mem = s.mem := rfl
@[simp] theorem State.updPort_heat (s : State) (p : Nat) (f : Port → Port) : (s.updPort p f).heat = s.heat := rfl
@[simp] theorem State.updPort_wr (s : State) (p : Nat) (f : Port → Port) : (s.updPort p f).wr = s.wr := rfl
@[simp] theorem State.updPort_part (s : State) (p : Nat) (f : Port → Port) : (s.updPort p f).part = s.part := rfl
@[simp] theorem State.updPort_phase (s : State) (p : Nat) (f : Port → Port) : (s.updPort p f).phase = s.phase := rfl
@[simp] theorem State.updPort_pins (s : State) (p : Nat) (f : Port → Port) : (s.updPort p f).pins = s.pins := rfl
@[simp] theorem State.updPort_split (s : State) (p : Nat) (f : Port → Port) : (s.updPort p f).split = s.split := rfl
@[simp] theorem State.updPort_cores (s : State) (p : Nat) (f : Port → Port) : (s.updPort p f).cores = s.cores := rfl
@[simp] theorem State.updPort_exps (s : State) (p : Nat) (f : Port → Port) : (s.updPort p f).exps = s.exps := rfl
@[simp] theorem State.updPort_sites (s : State) (p : Nat) (f : Port → Port) : (s.updPort p f).sites = s.sites := rfl
@[simp] theorem State.updPort_pkgs (s : State) (p : Nat) (f : Port → Port) : (s.updPort p f).pkgs = s.pkgs := rfl
@[simp] theorem State.updPort_retired (s : State) (p : Nat) (f : Port → Port) : (s.updPort p f).retired = s.retired := rfl
@[simp] theorem State.updPort_maps (s : State) (p : Nat) (f : Port → Port) : (s.updPort p f).maps = s.maps := rfl
@[simp] theorem State.updPort_nextMap (s : State) (p : Nat) (f : Port → Port) : (s.updPort p f).nextMap = s.nextMap := rfl
@[simp] theorem State.updPort_unmaps (s : State) (p : Nat) (f : Port → Port) : (s.updPort p f).unmaps = s.unmaps := rfl
@[simp] theorem State.updPort_pageMoves (s : State) (p : Nat) (f : Port → Port) : (s.updPort p f).pageMoves = s.pageMoves := rfl
@[simp] theorem State.updPort_fwPages (s : State) (p : Nat) (f : Port → Port) : (s.updPort p f).fwPages = s.fwPages := rfl
@[simp] theorem State.updPort_partitions (s : State) (p : Nat) (f : Port → Port) : (s.updPort p f).partitions = s.partitions := rfl
@[simp] theorem State.updPort_partWait (s : State) (p : Nat) (f : Port → Port) : (s.updPort p f).partWait = s.partWait := rfl
@[simp] theorem State.updPort_turns (s : State) (p : Nat) (f : Port → Port) : (s.updPort p f).turns = s.turns := rfl
@[simp] theorem State.updPort_ctxs (s : State) (p : Nat) (f : Port → Port) : (s.updPort p f).ctxs = s.ctxs := rfl
@[simp] theorem State.updPort_ctxEpochs (s : State) (p : Nat) (f : Port → Port) : (s.updPort p f).ctxEpochs = s.ctxEpochs := rfl
@[simp] theorem State.updPort_waiters (s : State) (p : Nat) (f : Port → Port) : (s.updPort p f).waiters = s.waiters := rfl
@[simp] theorem State.updPort_stale (s : State) (p : Nat) (f : Port → Port) : (s.updPort p f).stale = s.stale := rfl
@[simp] theorem State.updPort_entries (s : State) (p : Nat) (f : Port → Port) : (s.updPort p f).entries = s.entries := rfl
@[simp] theorem State.updPort_buildSeqs (s : State) (p : Nat) (f : Port → Port) : (s.updPort p f).buildSeqs = s.buildSeqs := rfl
@[simp] theorem State.updPort_seqs (s : State) (p : Nat) (f : Port → Port) : (s.updPort p f).seqs = s.seqs := rfl
@[simp] theorem State.updPort_nextSeq (s : State) (p : Nat) (f : Port → Port) : (s.updPort p f).nextSeq = s.nextSeq := rfl
@[simp] theorem State.updPort_jobs (s : State) (p : Nat) (f : Port → Port) : (s.updPort p f).jobs = s.jobs := rfl
@[simp] theorem State.updPort_nextJob (s : State) (p : Nat) (f : Port → Port) : (s.updPort p f).nextJob = s.nextJob := rfl
@[simp] theorem State.updPort_held (s : State) (p : Nat) (f : Port → Port) : (s.updPort p f).held = s.held := rfl
@[simp] theorem State.updPort_hostReads (s : State) (p : Nat) (f : Port → Port) : (s.updPort p f).hostReads = s.hostReads := rfl
@[simp] theorem State.updPort_nextTag (s : State) (p : Nat) (f : Port → Port) : (s.updPort p f).nextTag = s.nextTag := rfl
@[simp] theorem State.updPort_own (s : State) (p : Nat) (f : Port → Port) : (s.updPort p f).own = s.own := rfl
@[simp] theorem State.updPort_ccx (s : State) (p : Nat) (f : Port → Port) : (s.updPort p f).ccx = s.ccx := rfl
@[simp] theorem State.updPort_fab (s : State) (p : Nat) (f : Port → Port) : (s.updPort p f).fab = s.fab := rfl
@[simp] theorem State.updPort_plt (s : State) (p : Nat) (f : Port → Port) : (s.updPort p f).plt = s.plt := rfl
@[simp] theorem State.updPort_store (s : State) (p : Nat) (f : Port → Port) : (s.updPort p f).store = s.store := rfl
@[simp] theorem State.updPort_rcv (s : State) (p : Nat) (f : Port → Port) : (s.updPort p f).rcv = s.rcv := rfl
@[simp] theorem State.updPort_loop (s : State) (p : Nat) (f : Port → Port) : (s.updPort p f).loop = s.loop := rfl
@[simp] theorem State.updPort_out (s : State) (p : Nat) (f : Port → Port) : (s.updPort p f).out = s.out := rfl
@[simp] theorem State.updPort_free (s : State) (p : Nat) (f : Port → Port) : (s.updPort p f).free = s.free := rfl
@[simp] theorem State.updPort_ord (s : State) (p : Nat) (f : Port → Port) : (s.updPort p f).ord = s.ord := rfl

/-! ### `State.updCtx` changes `ctxs` alone -/

@[simp] theorem State.updCtx_pending (s : State) (n : Nat) (f : Ctx → Ctx) : (s.updCtx n f).pending = s.pending := rfl
@[simp] theorem State.updCtx_mem (s : State) (n : Nat) (f : Ctx → Ctx) : (s.updCtx n f).mem = s.mem := rfl
@[simp] theorem State.updCtx_heat (s : State) (n : Nat) (f : Ctx → Ctx) : (s.updCtx n f).heat = s.heat := rfl
@[simp] theorem State.updCtx_wr (s : State) (n : Nat) (f : Ctx → Ctx) : (s.updCtx n f).wr = s.wr := rfl
@[simp] theorem State.updCtx_part (s : State) (n : Nat) (f : Ctx → Ctx) : (s.updCtx n f).part = s.part := rfl
@[simp] theorem State.updCtx_phase (s : State) (n : Nat) (f : Ctx → Ctx) : (s.updCtx n f).phase = s.phase := rfl
@[simp] theorem State.updCtx_pins (s : State) (n : Nat) (f : Ctx → Ctx) : (s.updCtx n f).pins = s.pins := rfl
@[simp] theorem State.updCtx_split (s : State) (n : Nat) (f : Ctx → Ctx) : (s.updCtx n f).split = s.split := rfl
@[simp] theorem State.updCtx_cores (s : State) (n : Nat) (f : Ctx → Ctx) : (s.updCtx n f).cores = s.cores := rfl
@[simp] theorem State.updCtx_exps (s : State) (n : Nat) (f : Ctx → Ctx) : (s.updCtx n f).exps = s.exps := rfl
@[simp] theorem State.updCtx_sites (s : State) (n : Nat) (f : Ctx → Ctx) : (s.updCtx n f).sites = s.sites := rfl
@[simp] theorem State.updCtx_pkgs (s : State) (n : Nat) (f : Ctx → Ctx) : (s.updCtx n f).pkgs = s.pkgs := rfl
@[simp] theorem State.updCtx_retired (s : State) (n : Nat) (f : Ctx → Ctx) : (s.updCtx n f).retired = s.retired := rfl
@[simp] theorem State.updCtx_maps (s : State) (n : Nat) (f : Ctx → Ctx) : (s.updCtx n f).maps = s.maps := rfl
@[simp] theorem State.updCtx_nextMap (s : State) (n : Nat) (f : Ctx → Ctx) : (s.updCtx n f).nextMap = s.nextMap := rfl
@[simp] theorem State.updCtx_unmaps (s : State) (n : Nat) (f : Ctx → Ctx) : (s.updCtx n f).unmaps = s.unmaps := rfl
@[simp] theorem State.updCtx_pageMoves (s : State) (n : Nat) (f : Ctx → Ctx) : (s.updCtx n f).pageMoves = s.pageMoves := rfl
@[simp] theorem State.updCtx_fwPages (s : State) (n : Nat) (f : Ctx → Ctx) : (s.updCtx n f).fwPages = s.fwPages := rfl
@[simp] theorem State.updCtx_partitions (s : State) (n : Nat) (f : Ctx → Ctx) : (s.updCtx n f).partitions = s.partitions := rfl
@[simp] theorem State.updCtx_partWait (s : State) (n : Nat) (f : Ctx → Ctx) : (s.updCtx n f).partWait = s.partWait := rfl
@[simp] theorem State.updCtx_turns (s : State) (n : Nat) (f : Ctx → Ctx) : (s.updCtx n f).turns = s.turns := rfl
@[simp] theorem State.updCtx_ctxEpochs (s : State) (n : Nat) (f : Ctx → Ctx) : (s.updCtx n f).ctxEpochs = s.ctxEpochs := rfl
@[simp] theorem State.updCtx_waiters (s : State) (n : Nat) (f : Ctx → Ctx) : (s.updCtx n f).waiters = s.waiters := rfl
@[simp] theorem State.updCtx_stale (s : State) (n : Nat) (f : Ctx → Ctx) : (s.updCtx n f).stale = s.stale := rfl
@[simp] theorem State.updCtx_entries (s : State) (n : Nat) (f : Ctx → Ctx) : (s.updCtx n f).entries = s.entries := rfl
@[simp] theorem State.updCtx_buildSeqs (s : State) (n : Nat) (f : Ctx → Ctx) : (s.updCtx n f).buildSeqs = s.buildSeqs := rfl
@[simp] theorem State.updCtx_seqs (s : State) (n : Nat) (f : Ctx → Ctx) : (s.updCtx n f).seqs = s.seqs := rfl
@[simp] theorem State.updCtx_nextSeq (s : State) (n : Nat) (f : Ctx → Ctx) : (s.updCtx n f).nextSeq = s.nextSeq := rfl
@[simp] theorem State.updCtx_jobs (s : State) (n : Nat) (f : Ctx → Ctx) : (s.updCtx n f).jobs = s.jobs := rfl
@[simp] theorem State.updCtx_nextJob (s : State) (n : Nat) (f : Ctx → Ctx) : (s.updCtx n f).nextJob = s.nextJob := rfl
@[simp] theorem State.updCtx_held (s : State) (n : Nat) (f : Ctx → Ctx) : (s.updCtx n f).held = s.held := rfl
@[simp] theorem State.updCtx_hostReads (s : State) (n : Nat) (f : Ctx → Ctx) : (s.updCtx n f).hostReads = s.hostReads := rfl
@[simp] theorem State.updCtx_nextTag (s : State) (n : Nat) (f : Ctx → Ctx) : (s.updCtx n f).nextTag = s.nextTag := rfl
@[simp] theorem State.updCtx_ports (s : State) (n : Nat) (f : Ctx → Ctx) : (s.updCtx n f).ports = s.ports := rfl
@[simp] theorem State.updCtx_own (s : State) (n : Nat) (f : Ctx → Ctx) : (s.updCtx n f).own = s.own := rfl
@[simp] theorem State.updCtx_ccx (s : State) (n : Nat) (f : Ctx → Ctx) : (s.updCtx n f).ccx = s.ccx := rfl
@[simp] theorem State.updCtx_fab (s : State) (n : Nat) (f : Ctx → Ctx) : (s.updCtx n f).fab = s.fab := rfl
@[simp] theorem State.updCtx_plt (s : State) (n : Nat) (f : Ctx → Ctx) : (s.updCtx n f).plt = s.plt := rfl
@[simp] theorem State.updCtx_store (s : State) (n : Nat) (f : Ctx → Ctx) : (s.updCtx n f).store = s.store := rfl
@[simp] theorem State.updCtx_rcv (s : State) (n : Nat) (f : Ctx → Ctx) : (s.updCtx n f).rcv = s.rcv := rfl
@[simp] theorem State.updCtx_loop (s : State) (n : Nat) (f : Ctx → Ctx) : (s.updCtx n f).loop = s.loop := rfl
@[simp] theorem State.updCtx_out (s : State) (n : Nat) (f : Ctx → Ctx) : (s.updCtx n f).out = s.out := rfl
@[simp] theorem State.updCtx_free (s : State) (n : Nat) (f : Ctx → Ctx) : (s.updCtx n f).free = s.free := rfl
@[simp] theorem State.updCtx_ord (s : State) (n : Nat) (f : Ctx → Ctx) : (s.updCtx n f).ord = s.ord := rfl

/-! ### `State.emit` changes `out` alone -/

@[simp] theorem State.emit_pending (s : State) (o : Output) : (s.emit o).pending = s.pending := rfl
@[simp] theorem State.emit_mem (s : State) (o : Output) : (s.emit o).mem = s.mem := rfl
@[simp] theorem State.emit_heat (s : State) (o : Output) : (s.emit o).heat = s.heat := rfl
@[simp] theorem State.emit_wr (s : State) (o : Output) : (s.emit o).wr = s.wr := rfl
@[simp] theorem State.emit_part (s : State) (o : Output) : (s.emit o).part = s.part := rfl
@[simp] theorem State.emit_phase (s : State) (o : Output) : (s.emit o).phase = s.phase := rfl
@[simp] theorem State.emit_pins (s : State) (o : Output) : (s.emit o).pins = s.pins := rfl
@[simp] theorem State.emit_split (s : State) (o : Output) : (s.emit o).split = s.split := rfl
@[simp] theorem State.emit_cores (s : State) (o : Output) : (s.emit o).cores = s.cores := rfl
@[simp] theorem State.emit_exps (s : State) (o : Output) : (s.emit o).exps = s.exps := rfl
@[simp] theorem State.emit_sites (s : State) (o : Output) : (s.emit o).sites = s.sites := rfl
@[simp] theorem State.emit_pkgs (s : State) (o : Output) : (s.emit o).pkgs = s.pkgs := rfl
@[simp] theorem State.emit_retired (s : State) (o : Output) : (s.emit o).retired = s.retired := rfl
@[simp] theorem State.emit_maps (s : State) (o : Output) : (s.emit o).maps = s.maps := rfl
@[simp] theorem State.emit_nextMap (s : State) (o : Output) : (s.emit o).nextMap = s.nextMap := rfl
@[simp] theorem State.emit_unmaps (s : State) (o : Output) : (s.emit o).unmaps = s.unmaps := rfl
@[simp] theorem State.emit_pageMoves (s : State) (o : Output) : (s.emit o).pageMoves = s.pageMoves := rfl
@[simp] theorem State.emit_fwPages (s : State) (o : Output) : (s.emit o).fwPages = s.fwPages := rfl
@[simp] theorem State.emit_partitions (s : State) (o : Output) : (s.emit o).partitions = s.partitions := rfl
@[simp] theorem State.emit_partWait (s : State) (o : Output) : (s.emit o).partWait = s.partWait := rfl
@[simp] theorem State.emit_turns (s : State) (o : Output) : (s.emit o).turns = s.turns := rfl
@[simp] theorem State.emit_ctxs (s : State) (o : Output) : (s.emit o).ctxs = s.ctxs := rfl
@[simp] theorem State.emit_ctxEpochs (s : State) (o : Output) : (s.emit o).ctxEpochs = s.ctxEpochs := rfl
@[simp] theorem State.emit_waiters (s : State) (o : Output) : (s.emit o).waiters = s.waiters := rfl
@[simp] theorem State.emit_stale (s : State) (o : Output) : (s.emit o).stale = s.stale := rfl
@[simp] theorem State.emit_entries (s : State) (o : Output) : (s.emit o).entries = s.entries := rfl
@[simp] theorem State.emit_buildSeqs (s : State) (o : Output) : (s.emit o).buildSeqs = s.buildSeqs := rfl
@[simp] theorem State.emit_seqs (s : State) (o : Output) : (s.emit o).seqs = s.seqs := rfl
@[simp] theorem State.emit_nextSeq (s : State) (o : Output) : (s.emit o).nextSeq = s.nextSeq := rfl
@[simp] theorem State.emit_jobs (s : State) (o : Output) : (s.emit o).jobs = s.jobs := rfl
@[simp] theorem State.emit_nextJob (s : State) (o : Output) : (s.emit o).nextJob = s.nextJob := rfl
@[simp] theorem State.emit_held (s : State) (o : Output) : (s.emit o).held = s.held := rfl
@[simp] theorem State.emit_hostReads (s : State) (o : Output) : (s.emit o).hostReads = s.hostReads := rfl
@[simp] theorem State.emit_nextTag (s : State) (o : Output) : (s.emit o).nextTag = s.nextTag := rfl
@[simp] theorem State.emit_ports (s : State) (o : Output) : (s.emit o).ports = s.ports := rfl
@[simp] theorem State.emit_own (s : State) (o : Output) : (s.emit o).own = s.own := rfl
@[simp] theorem State.emit_ccx (s : State) (o : Output) : (s.emit o).ccx = s.ccx := rfl
@[simp] theorem State.emit_fab (s : State) (o : Output) : (s.emit o).fab = s.fab := rfl
@[simp] theorem State.emit_plt (s : State) (o : Output) : (s.emit o).plt = s.plt := rfl
@[simp] theorem State.emit_store (s : State) (o : Output) : (s.emit o).store = s.store := rfl
@[simp] theorem State.emit_rcv (s : State) (o : Output) : (s.emit o).rcv = s.rcv := rfl
@[simp] theorem State.emit_loop (s : State) (o : Output) : (s.emit o).loop = s.loop := rfl
@[simp] theorem State.emit_free (s : State) (o : Output) : (s.emit o).free = s.free := rfl
@[simp] theorem State.emit_ord (s : State) (o : Output) : (s.emit o).ord = s.ord := rfl

/-! ### `State.tick` changes `ord` alone -/

@[simp] theorem State.tick_pending (s : State) : (s.tick).pending = s.pending := rfl
@[simp] theorem State.tick_mem (s : State) : (s.tick).mem = s.mem := rfl
@[simp] theorem State.tick_heat (s : State) : (s.tick).heat = s.heat := rfl
@[simp] theorem State.tick_wr (s : State) : (s.tick).wr = s.wr := rfl
@[simp] theorem State.tick_part (s : State) : (s.tick).part = s.part := rfl
@[simp] theorem State.tick_phase (s : State) : (s.tick).phase = s.phase := rfl
@[simp] theorem State.tick_pins (s : State) : (s.tick).pins = s.pins := rfl
@[simp] theorem State.tick_split (s : State) : (s.tick).split = s.split := rfl
@[simp] theorem State.tick_cores (s : State) : (s.tick).cores = s.cores := rfl
@[simp] theorem State.tick_exps (s : State) : (s.tick).exps = s.exps := rfl
@[simp] theorem State.tick_sites (s : State) : (s.tick).sites = s.sites := rfl
@[simp] theorem State.tick_pkgs (s : State) : (s.tick).pkgs = s.pkgs := rfl
@[simp] theorem State.tick_retired (s : State) : (s.tick).retired = s.retired := rfl
@[simp] theorem State.tick_maps (s : State) : (s.tick).maps = s.maps := rfl
@[simp] theorem State.tick_nextMap (s : State) : (s.tick).nextMap = s.nextMap := rfl
@[simp] theorem State.tick_unmaps (s : State) : (s.tick).unmaps = s.unmaps := rfl
@[simp] theorem State.tick_pageMoves (s : State) : (s.tick).pageMoves = s.pageMoves := rfl
@[simp] theorem State.tick_fwPages (s : State) : (s.tick).fwPages = s.fwPages := rfl
@[simp] theorem State.tick_partitions (s : State) : (s.tick).partitions = s.partitions := rfl
@[simp] theorem State.tick_partWait (s : State) : (s.tick).partWait = s.partWait := rfl
@[simp] theorem State.tick_turns (s : State) : (s.tick).turns = s.turns := rfl
@[simp] theorem State.tick_ctxs (s : State) : (s.tick).ctxs = s.ctxs := rfl
@[simp] theorem State.tick_ctxEpochs (s : State) : (s.tick).ctxEpochs = s.ctxEpochs := rfl
@[simp] theorem State.tick_waiters (s : State) : (s.tick).waiters = s.waiters := rfl
@[simp] theorem State.tick_stale (s : State) : (s.tick).stale = s.stale := rfl
@[simp] theorem State.tick_entries (s : State) : (s.tick).entries = s.entries := rfl
@[simp] theorem State.tick_buildSeqs (s : State) : (s.tick).buildSeqs = s.buildSeqs := rfl
@[simp] theorem State.tick_seqs (s : State) : (s.tick).seqs = s.seqs := rfl
@[simp] theorem State.tick_nextSeq (s : State) : (s.tick).nextSeq = s.nextSeq := rfl
@[simp] theorem State.tick_jobs (s : State) : (s.tick).jobs = s.jobs := rfl
@[simp] theorem State.tick_nextJob (s : State) : (s.tick).nextJob = s.nextJob := rfl
@[simp] theorem State.tick_held (s : State) : (s.tick).held = s.held := rfl
@[simp] theorem State.tick_hostReads (s : State) : (s.tick).hostReads = s.hostReads := rfl
@[simp] theorem State.tick_nextTag (s : State) : (s.tick).nextTag = s.nextTag := rfl
@[simp] theorem State.tick_ports (s : State) : (s.tick).ports = s.ports := rfl
@[simp] theorem State.tick_own (s : State) : (s.tick).own = s.own := rfl
@[simp] theorem State.tick_ccx (s : State) : (s.tick).ccx = s.ccx := rfl
@[simp] theorem State.tick_fab (s : State) : (s.tick).fab = s.fab := rfl
@[simp] theorem State.tick_plt (s : State) : (s.tick).plt = s.plt := rfl
@[simp] theorem State.tick_store (s : State) : (s.tick).store = s.store := rfl
@[simp] theorem State.tick_rcv (s : State) : (s.tick).rcv = s.rcv := rfl
@[simp] theorem State.tick_loop (s : State) : (s.tick).loop = s.loop := rfl
@[simp] theorem State.tick_out (s : State) : (s.tick).out = s.out := rfl
@[simp] theorem State.tick_free (s : State) : (s.tick).free = s.free := rfl

/-! ### `State.storeByte` changes `wr` alone -/

@[simp] theorem State.storeByte_pending (s : State) (a : Nat) (b : Byte) : (s.storeByte a b).pending = s.pending := rfl
@[simp] theorem State.storeByte_mem (s : State) (a : Nat) (b : Byte) : (s.storeByte a b).mem = s.mem := rfl
@[simp] theorem State.storeByte_heat (s : State) (a : Nat) (b : Byte) : (s.storeByte a b).heat = s.heat := rfl
@[simp] theorem State.storeByte_part (s : State) (a : Nat) (b : Byte) : (s.storeByte a b).part = s.part := rfl
@[simp] theorem State.storeByte_phase (s : State) (a : Nat) (b : Byte) : (s.storeByte a b).phase = s.phase := rfl
@[simp] theorem State.storeByte_pins (s : State) (a : Nat) (b : Byte) : (s.storeByte a b).pins = s.pins := rfl
@[simp] theorem State.storeByte_split (s : State) (a : Nat) (b : Byte) : (s.storeByte a b).split = s.split := rfl
@[simp] theorem State.storeByte_cores (s : State) (a : Nat) (b : Byte) : (s.storeByte a b).cores = s.cores := rfl
@[simp] theorem State.storeByte_exps (s : State) (a : Nat) (b : Byte) : (s.storeByte a b).exps = s.exps := rfl
@[simp] theorem State.storeByte_sites (s : State) (a : Nat) (b : Byte) : (s.storeByte a b).sites = s.sites := rfl
@[simp] theorem State.storeByte_pkgs (s : State) (a : Nat) (b : Byte) : (s.storeByte a b).pkgs = s.pkgs := rfl
@[simp] theorem State.storeByte_retired (s : State) (a : Nat) (b : Byte) : (s.storeByte a b).retired = s.retired := rfl
@[simp] theorem State.storeByte_maps (s : State) (a : Nat) (b : Byte) : (s.storeByte a b).maps = s.maps := rfl
@[simp] theorem State.storeByte_nextMap (s : State) (a : Nat) (b : Byte) : (s.storeByte a b).nextMap = s.nextMap := rfl
@[simp] theorem State.storeByte_unmaps (s : State) (a : Nat) (b : Byte) : (s.storeByte a b).unmaps = s.unmaps := rfl
@[simp] theorem State.storeByte_pageMoves (s : State) (a : Nat) (b : Byte) : (s.storeByte a b).pageMoves = s.pageMoves := rfl
@[simp] theorem State.storeByte_fwPages (s : State) (a : Nat) (b : Byte) : (s.storeByte a b).fwPages = s.fwPages := rfl
@[simp] theorem State.storeByte_partitions (s : State) (a : Nat) (b : Byte) : (s.storeByte a b).partitions = s.partitions := rfl
@[simp] theorem State.storeByte_partWait (s : State) (a : Nat) (b : Byte) : (s.storeByte a b).partWait = s.partWait := rfl
@[simp] theorem State.storeByte_turns (s : State) (a : Nat) (b : Byte) : (s.storeByte a b).turns = s.turns := rfl
@[simp] theorem State.storeByte_ctxs (s : State) (a : Nat) (b : Byte) : (s.storeByte a b).ctxs = s.ctxs := rfl
@[simp] theorem State.storeByte_ctxEpochs (s : State) (a : Nat) (b : Byte) : (s.storeByte a b).ctxEpochs = s.ctxEpochs := rfl
@[simp] theorem State.storeByte_waiters (s : State) (a : Nat) (b : Byte) : (s.storeByte a b).waiters = s.waiters := rfl
@[simp] theorem State.storeByte_stale (s : State) (a : Nat) (b : Byte) : (s.storeByte a b).stale = s.stale := rfl
@[simp] theorem State.storeByte_entries (s : State) (a : Nat) (b : Byte) : (s.storeByte a b).entries = s.entries := rfl
@[simp] theorem State.storeByte_buildSeqs (s : State) (a : Nat) (b : Byte) : (s.storeByte a b).buildSeqs = s.buildSeqs := rfl
@[simp] theorem State.storeByte_seqs (s : State) (a : Nat) (b : Byte) : (s.storeByte a b).seqs = s.seqs := rfl
@[simp] theorem State.storeByte_nextSeq (s : State) (a : Nat) (b : Byte) : (s.storeByte a b).nextSeq = s.nextSeq := rfl
@[simp] theorem State.storeByte_jobs (s : State) (a : Nat) (b : Byte) : (s.storeByte a b).jobs = s.jobs := rfl
@[simp] theorem State.storeByte_nextJob (s : State) (a : Nat) (b : Byte) : (s.storeByte a b).nextJob = s.nextJob := rfl
@[simp] theorem State.storeByte_held (s : State) (a : Nat) (b : Byte) : (s.storeByte a b).held = s.held := rfl
@[simp] theorem State.storeByte_hostReads (s : State) (a : Nat) (b : Byte) : (s.storeByte a b).hostReads = s.hostReads := rfl
@[simp] theorem State.storeByte_nextTag (s : State) (a : Nat) (b : Byte) : (s.storeByte a b).nextTag = s.nextTag := rfl
@[simp] theorem State.storeByte_ports (s : State) (a : Nat) (b : Byte) : (s.storeByte a b).ports = s.ports := rfl
@[simp] theorem State.storeByte_own (s : State) (a : Nat) (b : Byte) : (s.storeByte a b).own = s.own := rfl
@[simp] theorem State.storeByte_ccx (s : State) (a : Nat) (b : Byte) : (s.storeByte a b).ccx = s.ccx := rfl
@[simp] theorem State.storeByte_fab (s : State) (a : Nat) (b : Byte) : (s.storeByte a b).fab = s.fab := rfl
@[simp] theorem State.storeByte_plt (s : State) (a : Nat) (b : Byte) : (s.storeByte a b).plt = s.plt := rfl
@[simp] theorem State.storeByte_store (s : State) (a : Nat) (b : Byte) : (s.storeByte a b).store = s.store := rfl
@[simp] theorem State.storeByte_rcv (s : State) (a : Nat) (b : Byte) : (s.storeByte a b).rcv = s.rcv := rfl
@[simp] theorem State.storeByte_loop (s : State) (a : Nat) (b : Byte) : (s.storeByte a b).loop = s.loop := rfl
@[simp] theorem State.storeByte_out (s : State) (a : Nat) (b : Byte) : (s.storeByte a b).out = s.out := rfl
@[simp] theorem State.storeByte_free (s : State) (a : Nat) (b : Byte) : (s.storeByte a b).free = s.free := rfl
@[simp] theorem State.storeByte_ord (s : State) (a : Nat) (b : Byte) : (s.storeByte a b).ord = s.ord := rfl

/-! ### `State.raiseCtxEpoch` changes `ctxEpochs` alone -/

@[simp] theorem State.raiseCtxEpoch_pending (s : State) (n : Nat) : (s.raiseCtxEpoch n).pending = s.pending := rfl
@[simp] theorem State.raiseCtxEpoch_mem (s : State) (n : Nat) : (s.raiseCtxEpoch n).mem = s.mem := rfl
@[simp] theorem State.raiseCtxEpoch_heat (s : State) (n : Nat) : (s.raiseCtxEpoch n).heat = s.heat := rfl
@[simp] theorem State.raiseCtxEpoch_wr (s : State) (n : Nat) : (s.raiseCtxEpoch n).wr = s.wr := rfl
@[simp] theorem State.raiseCtxEpoch_part (s : State) (n : Nat) : (s.raiseCtxEpoch n).part = s.part := rfl
@[simp] theorem State.raiseCtxEpoch_phase (s : State) (n : Nat) : (s.raiseCtxEpoch n).phase = s.phase := rfl
@[simp] theorem State.raiseCtxEpoch_pins (s : State) (n : Nat) : (s.raiseCtxEpoch n).pins = s.pins := rfl
@[simp] theorem State.raiseCtxEpoch_split (s : State) (n : Nat) : (s.raiseCtxEpoch n).split = s.split := rfl
@[simp] theorem State.raiseCtxEpoch_cores (s : State) (n : Nat) : (s.raiseCtxEpoch n).cores = s.cores := rfl
@[simp] theorem State.raiseCtxEpoch_exps (s : State) (n : Nat) : (s.raiseCtxEpoch n).exps = s.exps := rfl
@[simp] theorem State.raiseCtxEpoch_sites (s : State) (n : Nat) : (s.raiseCtxEpoch n).sites = s.sites := rfl
@[simp] theorem State.raiseCtxEpoch_pkgs (s : State) (n : Nat) : (s.raiseCtxEpoch n).pkgs = s.pkgs := rfl
@[simp] theorem State.raiseCtxEpoch_retired (s : State) (n : Nat) : (s.raiseCtxEpoch n).retired = s.retired := rfl
@[simp] theorem State.raiseCtxEpoch_maps (s : State) (n : Nat) : (s.raiseCtxEpoch n).maps = s.maps := rfl
@[simp] theorem State.raiseCtxEpoch_nextMap (s : State) (n : Nat) : (s.raiseCtxEpoch n).nextMap = s.nextMap := rfl
@[simp] theorem State.raiseCtxEpoch_unmaps (s : State) (n : Nat) : (s.raiseCtxEpoch n).unmaps = s.unmaps := rfl
@[simp] theorem State.raiseCtxEpoch_pageMoves (s : State) (n : Nat) : (s.raiseCtxEpoch n).pageMoves = s.pageMoves := rfl
@[simp] theorem State.raiseCtxEpoch_fwPages (s : State) (n : Nat) : (s.raiseCtxEpoch n).fwPages = s.fwPages := rfl
@[simp] theorem State.raiseCtxEpoch_partitions (s : State) (n : Nat) : (s.raiseCtxEpoch n).partitions = s.partitions := rfl
@[simp] theorem State.raiseCtxEpoch_partWait (s : State) (n : Nat) : (s.raiseCtxEpoch n).partWait = s.partWait := rfl
@[simp] theorem State.raiseCtxEpoch_turns (s : State) (n : Nat) : (s.raiseCtxEpoch n).turns = s.turns := rfl
@[simp] theorem State.raiseCtxEpoch_ctxs (s : State) (n : Nat) : (s.raiseCtxEpoch n).ctxs = s.ctxs := rfl
@[simp] theorem State.raiseCtxEpoch_waiters (s : State) (n : Nat) : (s.raiseCtxEpoch n).waiters = s.waiters := rfl
@[simp] theorem State.raiseCtxEpoch_stale (s : State) (n : Nat) : (s.raiseCtxEpoch n).stale = s.stale := rfl
@[simp] theorem State.raiseCtxEpoch_entries (s : State) (n : Nat) : (s.raiseCtxEpoch n).entries = s.entries := rfl
@[simp] theorem State.raiseCtxEpoch_buildSeqs (s : State) (n : Nat) : (s.raiseCtxEpoch n).buildSeqs = s.buildSeqs := rfl
@[simp] theorem State.raiseCtxEpoch_seqs (s : State) (n : Nat) : (s.raiseCtxEpoch n).seqs = s.seqs := rfl
@[simp] theorem State.raiseCtxEpoch_nextSeq (s : State) (n : Nat) : (s.raiseCtxEpoch n).nextSeq = s.nextSeq := rfl
@[simp] theorem State.raiseCtxEpoch_jobs (s : State) (n : Nat) : (s.raiseCtxEpoch n).jobs = s.jobs := rfl
@[simp] theorem State.raiseCtxEpoch_nextJob (s : State) (n : Nat) : (s.raiseCtxEpoch n).nextJob = s.nextJob := rfl
@[simp] theorem State.raiseCtxEpoch_held (s : State) (n : Nat) : (s.raiseCtxEpoch n).held = s.held := rfl
@[simp] theorem State.raiseCtxEpoch_hostReads (s : State) (n : Nat) : (s.raiseCtxEpoch n).hostReads = s.hostReads := rfl
@[simp] theorem State.raiseCtxEpoch_nextTag (s : State) (n : Nat) : (s.raiseCtxEpoch n).nextTag = s.nextTag := rfl
@[simp] theorem State.raiseCtxEpoch_ports (s : State) (n : Nat) : (s.raiseCtxEpoch n).ports = s.ports := rfl
@[simp] theorem State.raiseCtxEpoch_own (s : State) (n : Nat) : (s.raiseCtxEpoch n).own = s.own := rfl
@[simp] theorem State.raiseCtxEpoch_ccx (s : State) (n : Nat) : (s.raiseCtxEpoch n).ccx = s.ccx := rfl
@[simp] theorem State.raiseCtxEpoch_fab (s : State) (n : Nat) : (s.raiseCtxEpoch n).fab = s.fab := rfl
@[simp] theorem State.raiseCtxEpoch_plt (s : State) (n : Nat) : (s.raiseCtxEpoch n).plt = s.plt := rfl
@[simp] theorem State.raiseCtxEpoch_store (s : State) (n : Nat) : (s.raiseCtxEpoch n).store = s.store := rfl
@[simp] theorem State.raiseCtxEpoch_rcv (s : State) (n : Nat) : (s.raiseCtxEpoch n).rcv = s.rcv := rfl
@[simp] theorem State.raiseCtxEpoch_loop (s : State) (n : Nat) : (s.raiseCtxEpoch n).loop = s.loop := rfl
@[simp] theorem State.raiseCtxEpoch_out (s : State) (n : Nat) : (s.raiseCtxEpoch n).out = s.out := rfl
@[simp] theorem State.raiseCtxEpoch_free (s : State) (n : Nat) : (s.raiseCtxEpoch n).free = s.free := rfl
@[simp] theorem State.raiseCtxEpoch_ord (s : State) (n : Nat) : (s.raiseCtxEpoch n).ord = s.ord := rfl

/-! ### `State.discard` changes `ports` alone -/

@[simp] theorem State.discard_pending (s : State) (p : Nat) : (s.discard p).pending = s.pending := rfl
@[simp] theorem State.discard_mem (s : State) (p : Nat) : (s.discard p).mem = s.mem := rfl
@[simp] theorem State.discard_heat (s : State) (p : Nat) : (s.discard p).heat = s.heat := rfl
@[simp] theorem State.discard_wr (s : State) (p : Nat) : (s.discard p).wr = s.wr := rfl
@[simp] theorem State.discard_part (s : State) (p : Nat) : (s.discard p).part = s.part := rfl
@[simp] theorem State.discard_phase (s : State) (p : Nat) : (s.discard p).phase = s.phase := rfl
@[simp] theorem State.discard_pins (s : State) (p : Nat) : (s.discard p).pins = s.pins := rfl
@[simp] theorem State.discard_split (s : State) (p : Nat) : (s.discard p).split = s.split := rfl
@[simp] theorem State.discard_cores (s : State) (p : Nat) : (s.discard p).cores = s.cores := rfl
@[simp] theorem State.discard_exps (s : State) (p : Nat) : (s.discard p).exps = s.exps := rfl
@[simp] theorem State.discard_sites (s : State) (p : Nat) : (s.discard p).sites = s.sites := rfl
@[simp] theorem State.discard_pkgs (s : State) (p : Nat) : (s.discard p).pkgs = s.pkgs := rfl
@[simp] theorem State.discard_retired (s : State) (p : Nat) : (s.discard p).retired = s.retired := rfl
@[simp] theorem State.discard_maps (s : State) (p : Nat) : (s.discard p).maps = s.maps := rfl
@[simp] theorem State.discard_nextMap (s : State) (p : Nat) : (s.discard p).nextMap = s.nextMap := rfl
@[simp] theorem State.discard_unmaps (s : State) (p : Nat) : (s.discard p).unmaps = s.unmaps := rfl
@[simp] theorem State.discard_pageMoves (s : State) (p : Nat) : (s.discard p).pageMoves = s.pageMoves := rfl
@[simp] theorem State.discard_fwPages (s : State) (p : Nat) : (s.discard p).fwPages = s.fwPages := rfl
@[simp] theorem State.discard_partitions (s : State) (p : Nat) : (s.discard p).partitions = s.partitions := rfl
@[simp] theorem State.discard_partWait (s : State) (p : Nat) : (s.discard p).partWait = s.partWait := rfl
@[simp] theorem State.discard_turns (s : State) (p : Nat) : (s.discard p).turns = s.turns := rfl
@[simp] theorem State.discard_ctxs (s : State) (p : Nat) : (s.discard p).ctxs = s.ctxs := rfl
@[simp] theorem State.discard_ctxEpochs (s : State) (p : Nat) : (s.discard p).ctxEpochs = s.ctxEpochs := rfl
@[simp] theorem State.discard_waiters (s : State) (p : Nat) : (s.discard p).waiters = s.waiters := rfl
@[simp] theorem State.discard_stale (s : State) (p : Nat) : (s.discard p).stale = s.stale := rfl
@[simp] theorem State.discard_entries (s : State) (p : Nat) : (s.discard p).entries = s.entries := rfl
@[simp] theorem State.discard_buildSeqs (s : State) (p : Nat) : (s.discard p).buildSeqs = s.buildSeqs := rfl
@[simp] theorem State.discard_seqs (s : State) (p : Nat) : (s.discard p).seqs = s.seqs := rfl
@[simp] theorem State.discard_nextSeq (s : State) (p : Nat) : (s.discard p).nextSeq = s.nextSeq := rfl
@[simp] theorem State.discard_jobs (s : State) (p : Nat) : (s.discard p).jobs = s.jobs := rfl
@[simp] theorem State.discard_nextJob (s : State) (p : Nat) : (s.discard p).nextJob = s.nextJob := rfl
@[simp] theorem State.discard_held (s : State) (p : Nat) : (s.discard p).held = s.held := rfl
@[simp] theorem State.discard_hostReads (s : State) (p : Nat) : (s.discard p).hostReads = s.hostReads := rfl
@[simp] theorem State.discard_nextTag (s : State) (p : Nat) : (s.discard p).nextTag = s.nextTag := rfl
@[simp] theorem State.discard_own (s : State) (p : Nat) : (s.discard p).own = s.own := rfl
@[simp] theorem State.discard_ccx (s : State) (p : Nat) : (s.discard p).ccx = s.ccx := rfl
@[simp] theorem State.discard_fab (s : State) (p : Nat) : (s.discard p).fab = s.fab := rfl
@[simp] theorem State.discard_plt (s : State) (p : Nat) : (s.discard p).plt = s.plt := rfl
@[simp] theorem State.discard_store (s : State) (p : Nat) : (s.discard p).store = s.store := rfl
@[simp] theorem State.discard_rcv (s : State) (p : Nat) : (s.discard p).rcv = s.rcv := rfl
@[simp] theorem State.discard_loop (s : State) (p : Nat) : (s.discard p).loop = s.loop := rfl
@[simp] theorem State.discard_out (s : State) (p : Nat) : (s.discard p).out = s.out := rfl
@[simp] theorem State.discard_free (s : State) (p : Nat) : (s.discard p).free = s.free := rfl
@[simp] theorem State.discard_ord (s : State) (p : Nat) : (s.discard p).ord = s.ord := rfl

/-! ### `State.updTurn` changes `turns` alone -/

@[simp] theorem State.updTurn_pending (s : State) (p : Nat) (f : Turn → Turn) : (s.updTurn p f).pending = s.pending := rfl
@[simp] theorem State.updTurn_mem (s : State) (p : Nat) (f : Turn → Turn) : (s.updTurn p f).mem = s.mem := rfl
@[simp] theorem State.updTurn_heat (s : State) (p : Nat) (f : Turn → Turn) : (s.updTurn p f).heat = s.heat := rfl
@[simp] theorem State.updTurn_wr (s : State) (p : Nat) (f : Turn → Turn) : (s.updTurn p f).wr = s.wr := rfl
@[simp] theorem State.updTurn_part (s : State) (p : Nat) (f : Turn → Turn) : (s.updTurn p f).part = s.part := rfl
@[simp] theorem State.updTurn_phase (s : State) (p : Nat) (f : Turn → Turn) : (s.updTurn p f).phase = s.phase := rfl
@[simp] theorem State.updTurn_pins (s : State) (p : Nat) (f : Turn → Turn) : (s.updTurn p f).pins = s.pins := rfl
@[simp] theorem State.updTurn_split (s : State) (p : Nat) (f : Turn → Turn) : (s.updTurn p f).split = s.split := rfl
@[simp] theorem State.updTurn_cores (s : State) (p : Nat) (f : Turn → Turn) : (s.updTurn p f).cores = s.cores := rfl
@[simp] theorem State.updTurn_exps (s : State) (p : Nat) (f : Turn → Turn) : (s.updTurn p f).exps = s.exps := rfl
@[simp] theorem State.updTurn_sites (s : State) (p : Nat) (f : Turn → Turn) : (s.updTurn p f).sites = s.sites := rfl
@[simp] theorem State.updTurn_pkgs (s : State) (p : Nat) (f : Turn → Turn) : (s.updTurn p f).pkgs = s.pkgs := rfl
@[simp] theorem State.updTurn_retired (s : State) (p : Nat) (f : Turn → Turn) : (s.updTurn p f).retired = s.retired := rfl
@[simp] theorem State.updTurn_maps (s : State) (p : Nat) (f : Turn → Turn) : (s.updTurn p f).maps = s.maps := rfl
@[simp] theorem State.updTurn_nextMap (s : State) (p : Nat) (f : Turn → Turn) : (s.updTurn p f).nextMap = s.nextMap := rfl
@[simp] theorem State.updTurn_unmaps (s : State) (p : Nat) (f : Turn → Turn) : (s.updTurn p f).unmaps = s.unmaps := rfl
@[simp] theorem State.updTurn_pageMoves (s : State) (p : Nat) (f : Turn → Turn) : (s.updTurn p f).pageMoves = s.pageMoves := rfl
@[simp] theorem State.updTurn_fwPages (s : State) (p : Nat) (f : Turn → Turn) : (s.updTurn p f).fwPages = s.fwPages := rfl
@[simp] theorem State.updTurn_partitions (s : State) (p : Nat) (f : Turn → Turn) : (s.updTurn p f).partitions = s.partitions := rfl
@[simp] theorem State.updTurn_partWait (s : State) (p : Nat) (f : Turn → Turn) : (s.updTurn p f).partWait = s.partWait := rfl
@[simp] theorem State.updTurn_ctxs (s : State) (p : Nat) (f : Turn → Turn) : (s.updTurn p f).ctxs = s.ctxs := rfl
@[simp] theorem State.updTurn_ctxEpochs (s : State) (p : Nat) (f : Turn → Turn) : (s.updTurn p f).ctxEpochs = s.ctxEpochs := rfl
@[simp] theorem State.updTurn_waiters (s : State) (p : Nat) (f : Turn → Turn) : (s.updTurn p f).waiters = s.waiters := rfl
@[simp] theorem State.updTurn_stale (s : State) (p : Nat) (f : Turn → Turn) : (s.updTurn p f).stale = s.stale := rfl
@[simp] theorem State.updTurn_entries (s : State) (p : Nat) (f : Turn → Turn) : (s.updTurn p f).entries = s.entries := rfl
@[simp] theorem State.updTurn_buildSeqs (s : State) (p : Nat) (f : Turn → Turn) : (s.updTurn p f).buildSeqs = s.buildSeqs := rfl
@[simp] theorem State.updTurn_seqs (s : State) (p : Nat) (f : Turn → Turn) : (s.updTurn p f).seqs = s.seqs := rfl
@[simp] theorem State.updTurn_nextSeq (s : State) (p : Nat) (f : Turn → Turn) : (s.updTurn p f).nextSeq = s.nextSeq := rfl
@[simp] theorem State.updTurn_jobs (s : State) (p : Nat) (f : Turn → Turn) : (s.updTurn p f).jobs = s.jobs := rfl
@[simp] theorem State.updTurn_nextJob (s : State) (p : Nat) (f : Turn → Turn) : (s.updTurn p f).nextJob = s.nextJob := rfl
@[simp] theorem State.updTurn_held (s : State) (p : Nat) (f : Turn → Turn) : (s.updTurn p f).held = s.held := rfl
@[simp] theorem State.updTurn_hostReads (s : State) (p : Nat) (f : Turn → Turn) : (s.updTurn p f).hostReads = s.hostReads := rfl
@[simp] theorem State.updTurn_nextTag (s : State) (p : Nat) (f : Turn → Turn) : (s.updTurn p f).nextTag = s.nextTag := rfl
@[simp] theorem State.updTurn_ports (s : State) (p : Nat) (f : Turn → Turn) : (s.updTurn p f).ports = s.ports := rfl
@[simp] theorem State.updTurn_own (s : State) (p : Nat) (f : Turn → Turn) : (s.updTurn p f).own = s.own := rfl
@[simp] theorem State.updTurn_ccx (s : State) (p : Nat) (f : Turn → Turn) : (s.updTurn p f).ccx = s.ccx := rfl
@[simp] theorem State.updTurn_fab (s : State) (p : Nat) (f : Turn → Turn) : (s.updTurn p f).fab = s.fab := rfl
@[simp] theorem State.updTurn_plt (s : State) (p : Nat) (f : Turn → Turn) : (s.updTurn p f).plt = s.plt := rfl
@[simp] theorem State.updTurn_store (s : State) (p : Nat) (f : Turn → Turn) : (s.updTurn p f).store = s.store := rfl
@[simp] theorem State.updTurn_rcv (s : State) (p : Nat) (f : Turn → Turn) : (s.updTurn p f).rcv = s.rcv := rfl
@[simp] theorem State.updTurn_loop (s : State) (p : Nat) (f : Turn → Turn) : (s.updTurn p f).loop = s.loop := rfl
@[simp] theorem State.updTurn_out (s : State) (p : Nat) (f : Turn → Turn) : (s.updTurn p f).out = s.out := rfl
@[simp] theorem State.updTurn_free (s : State) (p : Nat) (f : Turn → Turn) : (s.updTurn p f).free = s.free := rfl
@[simp] theorem State.updTurn_ord (s : State) (p : Nat) (f : Turn → Turn) : (s.updTurn p f).ord = s.ord := rfl

/-! ### `State.updSeg` changes `jobs` alone -/

@[simp] theorem State.updSeg_pending (s : State) (j i : Nat) (f : MoveSeg → MoveSeg) : (s.updSeg j i f).pending = s.pending := rfl
@[simp] theorem State.updSeg_mem (s : State) (j i : Nat) (f : MoveSeg → MoveSeg) : (s.updSeg j i f).mem = s.mem := rfl
@[simp] theorem State.updSeg_heat (s : State) (j i : Nat) (f : MoveSeg → MoveSeg) : (s.updSeg j i f).heat = s.heat := rfl
@[simp] theorem State.updSeg_wr (s : State) (j i : Nat) (f : MoveSeg → MoveSeg) : (s.updSeg j i f).wr = s.wr := rfl
@[simp] theorem State.updSeg_part (s : State) (j i : Nat) (f : MoveSeg → MoveSeg) : (s.updSeg j i f).part = s.part := rfl
@[simp] theorem State.updSeg_phase (s : State) (j i : Nat) (f : MoveSeg → MoveSeg) : (s.updSeg j i f).phase = s.phase := rfl
@[simp] theorem State.updSeg_pins (s : State) (j i : Nat) (f : MoveSeg → MoveSeg) : (s.updSeg j i f).pins = s.pins := rfl
@[simp] theorem State.updSeg_split (s : State) (j i : Nat) (f : MoveSeg → MoveSeg) : (s.updSeg j i f).split = s.split := rfl
@[simp] theorem State.updSeg_cores (s : State) (j i : Nat) (f : MoveSeg → MoveSeg) : (s.updSeg j i f).cores = s.cores := rfl
@[simp] theorem State.updSeg_exps (s : State) (j i : Nat) (f : MoveSeg → MoveSeg) : (s.updSeg j i f).exps = s.exps := rfl
@[simp] theorem State.updSeg_sites (s : State) (j i : Nat) (f : MoveSeg → MoveSeg) : (s.updSeg j i f).sites = s.sites := rfl
@[simp] theorem State.updSeg_pkgs (s : State) (j i : Nat) (f : MoveSeg → MoveSeg) : (s.updSeg j i f).pkgs = s.pkgs := rfl
@[simp] theorem State.updSeg_retired (s : State) (j i : Nat) (f : MoveSeg → MoveSeg) : (s.updSeg j i f).retired = s.retired := rfl
@[simp] theorem State.updSeg_maps (s : State) (j i : Nat) (f : MoveSeg → MoveSeg) : (s.updSeg j i f).maps = s.maps := rfl
@[simp] theorem State.updSeg_nextMap (s : State) (j i : Nat) (f : MoveSeg → MoveSeg) : (s.updSeg j i f).nextMap = s.nextMap := rfl
@[simp] theorem State.updSeg_unmaps (s : State) (j i : Nat) (f : MoveSeg → MoveSeg) : (s.updSeg j i f).unmaps = s.unmaps := rfl
@[simp] theorem State.updSeg_pageMoves (s : State) (j i : Nat) (f : MoveSeg → MoveSeg) : (s.updSeg j i f).pageMoves = s.pageMoves := rfl
@[simp] theorem State.updSeg_fwPages (s : State) (j i : Nat) (f : MoveSeg → MoveSeg) : (s.updSeg j i f).fwPages = s.fwPages := rfl
@[simp] theorem State.updSeg_partitions (s : State) (j i : Nat) (f : MoveSeg → MoveSeg) : (s.updSeg j i f).partitions = s.partitions := rfl
@[simp] theorem State.updSeg_partWait (s : State) (j i : Nat) (f : MoveSeg → MoveSeg) : (s.updSeg j i f).partWait = s.partWait := rfl
@[simp] theorem State.updSeg_turns (s : State) (j i : Nat) (f : MoveSeg → MoveSeg) : (s.updSeg j i f).turns = s.turns := rfl
@[simp] theorem State.updSeg_ctxs (s : State) (j i : Nat) (f : MoveSeg → MoveSeg) : (s.updSeg j i f).ctxs = s.ctxs := rfl
@[simp] theorem State.updSeg_ctxEpochs (s : State) (j i : Nat) (f : MoveSeg → MoveSeg) : (s.updSeg j i f).ctxEpochs = s.ctxEpochs := rfl
@[simp] theorem State.updSeg_waiters (s : State) (j i : Nat) (f : MoveSeg → MoveSeg) : (s.updSeg j i f).waiters = s.waiters := rfl
@[simp] theorem State.updSeg_stale (s : State) (j i : Nat) (f : MoveSeg → MoveSeg) : (s.updSeg j i f).stale = s.stale := rfl
@[simp] theorem State.updSeg_entries (s : State) (j i : Nat) (f : MoveSeg → MoveSeg) : (s.updSeg j i f).entries = s.entries := rfl
@[simp] theorem State.updSeg_buildSeqs (s : State) (j i : Nat) (f : MoveSeg → MoveSeg) : (s.updSeg j i f).buildSeqs = s.buildSeqs := rfl
@[simp] theorem State.updSeg_seqs (s : State) (j i : Nat) (f : MoveSeg → MoveSeg) : (s.updSeg j i f).seqs = s.seqs := rfl
@[simp] theorem State.updSeg_nextSeq (s : State) (j i : Nat) (f : MoveSeg → MoveSeg) : (s.updSeg j i f).nextSeq = s.nextSeq := rfl
@[simp] theorem State.updSeg_nextJob (s : State) (j i : Nat) (f : MoveSeg → MoveSeg) : (s.updSeg j i f).nextJob = s.nextJob := rfl
@[simp] theorem State.updSeg_held (s : State) (j i : Nat) (f : MoveSeg → MoveSeg) : (s.updSeg j i f).held = s.held := rfl
@[simp] theorem State.updSeg_hostReads (s : State) (j i : Nat) (f : MoveSeg → MoveSeg) : (s.updSeg j i f).hostReads = s.hostReads := rfl
@[simp] theorem State.updSeg_nextTag (s : State) (j i : Nat) (f : MoveSeg → MoveSeg) : (s.updSeg j i f).nextTag = s.nextTag := rfl
@[simp] theorem State.updSeg_ports (s : State) (j i : Nat) (f : MoveSeg → MoveSeg) : (s.updSeg j i f).ports = s.ports := rfl
@[simp] theorem State.updSeg_own (s : State) (j i : Nat) (f : MoveSeg → MoveSeg) : (s.updSeg j i f).own = s.own := rfl
@[simp] theorem State.updSeg_ccx (s : State) (j i : Nat) (f : MoveSeg → MoveSeg) : (s.updSeg j i f).ccx = s.ccx := rfl
@[simp] theorem State.updSeg_fab (s : State) (j i : Nat) (f : MoveSeg → MoveSeg) : (s.updSeg j i f).fab = s.fab := rfl
@[simp] theorem State.updSeg_plt (s : State) (j i : Nat) (f : MoveSeg → MoveSeg) : (s.updSeg j i f).plt = s.plt := rfl
@[simp] theorem State.updSeg_store (s : State) (j i : Nat) (f : MoveSeg → MoveSeg) : (s.updSeg j i f).store = s.store := rfl
@[simp] theorem State.updSeg_rcv (s : State) (j i : Nat) (f : MoveSeg → MoveSeg) : (s.updSeg j i f).rcv = s.rcv := rfl
@[simp] theorem State.updSeg_loop (s : State) (j i : Nat) (f : MoveSeg → MoveSeg) : (s.updSeg j i f).loop = s.loop := rfl
@[simp] theorem State.updSeg_out (s : State) (j i : Nat) (f : MoveSeg → MoveSeg) : (s.updSeg j i f).out = s.out := rfl
@[simp] theorem State.updSeg_free (s : State) (j i : Nat) (f : MoveSeg → MoveSeg) : (s.updSeg j i f).free = s.free := rfl
@[simp] theorem State.updSeg_ord (s : State) (j i : Nat) (f : MoveSeg → MoveSeg) : (s.updSeg j i f).ord = s.ord := rfl

/-! ### `State.countStale` changes `stale` alone -/

@[simp] theorem State.countStale_pending (s : State) : (s.countStale).pending = s.pending := rfl
@[simp] theorem State.countStale_mem (s : State) : (s.countStale).mem = s.mem := rfl
@[simp] theorem State.countStale_heat (s : State) : (s.countStale).heat = s.heat := rfl
@[simp] theorem State.countStale_wr (s : State) : (s.countStale).wr = s.wr := rfl
@[simp] theorem State.countStale_part (s : State) : (s.countStale).part = s.part := rfl
@[simp] theorem State.countStale_phase (s : State) : (s.countStale).phase = s.phase := rfl
@[simp] theorem State.countStale_pins (s : State) : (s.countStale).pins = s.pins := rfl
@[simp] theorem State.countStale_split (s : State) : (s.countStale).split = s.split := rfl
@[simp] theorem State.countStale_cores (s : State) : (s.countStale).cores = s.cores := rfl
@[simp] theorem State.countStale_exps (s : State) : (s.countStale).exps = s.exps := rfl
@[simp] theorem State.countStale_sites (s : State) : (s.countStale).sites = s.sites := rfl
@[simp] theorem State.countStale_pkgs (s : State) : (s.countStale).pkgs = s.pkgs := rfl
@[simp] theorem State.countStale_retired (s : State) : (s.countStale).retired = s.retired := rfl
@[simp] theorem State.countStale_maps (s : State) : (s.countStale).maps = s.maps := rfl
@[simp] theorem State.countStale_nextMap (s : State) : (s.countStale).nextMap = s.nextMap := rfl
@[simp] theorem State.countStale_unmaps (s : State) : (s.countStale).unmaps = s.unmaps := rfl
@[simp] theorem State.countStale_pageMoves (s : State) : (s.countStale).pageMoves = s.pageMoves := rfl
@[simp] theorem State.countStale_fwPages (s : State) : (s.countStale).fwPages = s.fwPages := rfl
@[simp] theorem State.countStale_partitions (s : State) : (s.countStale).partitions = s.partitions := rfl
@[simp] theorem State.countStale_partWait (s : State) : (s.countStale).partWait = s.partWait := rfl
@[simp] theorem State.countStale_turns (s : State) : (s.countStale).turns = s.turns := rfl
@[simp] theorem State.countStale_ctxs (s : State) : (s.countStale).ctxs = s.ctxs := rfl
@[simp] theorem State.countStale_ctxEpochs (s : State) : (s.countStale).ctxEpochs = s.ctxEpochs := rfl
@[simp] theorem State.countStale_waiters (s : State) : (s.countStale).waiters = s.waiters := rfl
@[simp] theorem State.countStale_entries (s : State) : (s.countStale).entries = s.entries := rfl
@[simp] theorem State.countStale_buildSeqs (s : State) : (s.countStale).buildSeqs = s.buildSeqs := rfl
@[simp] theorem State.countStale_seqs (s : State) : (s.countStale).seqs = s.seqs := rfl
@[simp] theorem State.countStale_nextSeq (s : State) : (s.countStale).nextSeq = s.nextSeq := rfl
@[simp] theorem State.countStale_jobs (s : State) : (s.countStale).jobs = s.jobs := rfl
@[simp] theorem State.countStale_nextJob (s : State) : (s.countStale).nextJob = s.nextJob := rfl
@[simp] theorem State.countStale_held (s : State) : (s.countStale).held = s.held := rfl
@[simp] theorem State.countStale_hostReads (s : State) : (s.countStale).hostReads = s.hostReads := rfl
@[simp] theorem State.countStale_nextTag (s : State) : (s.countStale).nextTag = s.nextTag := rfl
@[simp] theorem State.countStale_ports (s : State) : (s.countStale).ports = s.ports := rfl
@[simp] theorem State.countStale_own (s : State) : (s.countStale).own = s.own := rfl
@[simp] theorem State.countStale_ccx (s : State) : (s.countStale).ccx = s.ccx := rfl
@[simp] theorem State.countStale_fab (s : State) : (s.countStale).fab = s.fab := rfl
@[simp] theorem State.countStale_plt (s : State) : (s.countStale).plt = s.plt := rfl
@[simp] theorem State.countStale_store (s : State) : (s.countStale).store = s.store := rfl
@[simp] theorem State.countStale_rcv (s : State) : (s.countStale).rcv = s.rcv := rfl
@[simp] theorem State.countStale_loop (s : State) : (s.countStale).loop = s.loop := rfl
@[simp] theorem State.countStale_out (s : State) : (s.countStale).out = s.out := rfl
@[simp] theorem State.countStale_free (s : State) : (s.countStale).free = s.free := rfl
@[simp] theorem State.countStale_ord (s : State) : (s.countStale).ord = s.ord := rfl

/-! ### `State.setSlot` changes `ports` alone -/

@[simp] theorem State.setSlot_pending (s : State) (r : SlotRef) (b : Bytes) : (s.setSlot r b).pending = s.pending := rfl
@[simp] theorem State.setSlot_mem (s : State) (r : SlotRef) (b : Bytes) : (s.setSlot r b).mem = s.mem := rfl
@[simp] theorem State.setSlot_heat (s : State) (r : SlotRef) (b : Bytes) : (s.setSlot r b).heat = s.heat := rfl
@[simp] theorem State.setSlot_wr (s : State) (r : SlotRef) (b : Bytes) : (s.setSlot r b).wr = s.wr := rfl
@[simp] theorem State.setSlot_part (s : State) (r : SlotRef) (b : Bytes) : (s.setSlot r b).part = s.part := rfl
@[simp] theorem State.setSlot_phase (s : State) (r : SlotRef) (b : Bytes) : (s.setSlot r b).phase = s.phase := rfl
@[simp] theorem State.setSlot_pins (s : State) (r : SlotRef) (b : Bytes) : (s.setSlot r b).pins = s.pins := rfl
@[simp] theorem State.setSlot_split (s : State) (r : SlotRef) (b : Bytes) : (s.setSlot r b).split = s.split := rfl
@[simp] theorem State.setSlot_cores (s : State) (r : SlotRef) (b : Bytes) : (s.setSlot r b).cores = s.cores := rfl
@[simp] theorem State.setSlot_exps (s : State) (r : SlotRef) (b : Bytes) : (s.setSlot r b).exps = s.exps := rfl
@[simp] theorem State.setSlot_sites (s : State) (r : SlotRef) (b : Bytes) : (s.setSlot r b).sites = s.sites := rfl
@[simp] theorem State.setSlot_pkgs (s : State) (r : SlotRef) (b : Bytes) : (s.setSlot r b).pkgs = s.pkgs := rfl
@[simp] theorem State.setSlot_retired (s : State) (r : SlotRef) (b : Bytes) : (s.setSlot r b).retired = s.retired := rfl
@[simp] theorem State.setSlot_maps (s : State) (r : SlotRef) (b : Bytes) : (s.setSlot r b).maps = s.maps := rfl
@[simp] theorem State.setSlot_nextMap (s : State) (r : SlotRef) (b : Bytes) : (s.setSlot r b).nextMap = s.nextMap := rfl
@[simp] theorem State.setSlot_unmaps (s : State) (r : SlotRef) (b : Bytes) : (s.setSlot r b).unmaps = s.unmaps := rfl
@[simp] theorem State.setSlot_pageMoves (s : State) (r : SlotRef) (b : Bytes) : (s.setSlot r b).pageMoves = s.pageMoves := rfl
@[simp] theorem State.setSlot_fwPages (s : State) (r : SlotRef) (b : Bytes) : (s.setSlot r b).fwPages = s.fwPages := rfl
@[simp] theorem State.setSlot_partitions (s : State) (r : SlotRef) (b : Bytes) : (s.setSlot r b).partitions = s.partitions := rfl
@[simp] theorem State.setSlot_partWait (s : State) (r : SlotRef) (b : Bytes) : (s.setSlot r b).partWait = s.partWait := rfl
@[simp] theorem State.setSlot_turns (s : State) (r : SlotRef) (b : Bytes) : (s.setSlot r b).turns = s.turns := rfl
@[simp] theorem State.setSlot_ctxs (s : State) (r : SlotRef) (b : Bytes) : (s.setSlot r b).ctxs = s.ctxs := rfl
@[simp] theorem State.setSlot_ctxEpochs (s : State) (r : SlotRef) (b : Bytes) : (s.setSlot r b).ctxEpochs = s.ctxEpochs := rfl
@[simp] theorem State.setSlot_waiters (s : State) (r : SlotRef) (b : Bytes) : (s.setSlot r b).waiters = s.waiters := rfl
@[simp] theorem State.setSlot_stale (s : State) (r : SlotRef) (b : Bytes) : (s.setSlot r b).stale = s.stale := rfl
@[simp] theorem State.setSlot_entries (s : State) (r : SlotRef) (b : Bytes) : (s.setSlot r b).entries = s.entries := rfl
@[simp] theorem State.setSlot_buildSeqs (s : State) (r : SlotRef) (b : Bytes) : (s.setSlot r b).buildSeqs = s.buildSeqs := rfl
@[simp] theorem State.setSlot_seqs (s : State) (r : SlotRef) (b : Bytes) : (s.setSlot r b).seqs = s.seqs := rfl
@[simp] theorem State.setSlot_nextSeq (s : State) (r : SlotRef) (b : Bytes) : (s.setSlot r b).nextSeq = s.nextSeq := rfl
@[simp] theorem State.setSlot_jobs (s : State) (r : SlotRef) (b : Bytes) : (s.setSlot r b).jobs = s.jobs := rfl
@[simp] theorem State.setSlot_nextJob (s : State) (r : SlotRef) (b : Bytes) : (s.setSlot r b).nextJob = s.nextJob := rfl
@[simp] theorem State.setSlot_held (s : State) (r : SlotRef) (b : Bytes) : (s.setSlot r b).held = s.held := rfl
@[simp] theorem State.setSlot_hostReads (s : State) (r : SlotRef) (b : Bytes) : (s.setSlot r b).hostReads = s.hostReads := rfl
@[simp] theorem State.setSlot_nextTag (s : State) (r : SlotRef) (b : Bytes) : (s.setSlot r b).nextTag = s.nextTag := rfl
@[simp] theorem State.setSlot_own (s : State) (r : SlotRef) (b : Bytes) : (s.setSlot r b).own = s.own := rfl
@[simp] theorem State.setSlot_ccx (s : State) (r : SlotRef) (b : Bytes) : (s.setSlot r b).ccx = s.ccx := rfl
@[simp] theorem State.setSlot_fab (s : State) (r : SlotRef) (b : Bytes) : (s.setSlot r b).fab = s.fab := rfl
@[simp] theorem State.setSlot_plt (s : State) (r : SlotRef) (b : Bytes) : (s.setSlot r b).plt = s.plt := rfl
@[simp] theorem State.setSlot_store (s : State) (r : SlotRef) (b : Bytes) : (s.setSlot r b).store = s.store := rfl
@[simp] theorem State.setSlot_rcv (s : State) (r : SlotRef) (b : Bytes) : (s.setSlot r b).rcv = s.rcv := rfl
@[simp] theorem State.setSlot_loop (s : State) (r : SlotRef) (b : Bytes) : (s.setSlot r b).loop = s.loop := rfl
@[simp] theorem State.setSlot_out (s : State) (r : SlotRef) (b : Bytes) : (s.setSlot r b).out = s.out := rfl
@[simp] theorem State.setSlot_free (s : State) (r : SlotRef) (b : Bytes) : (s.setSlot r b).free = s.free := rfl
@[simp] theorem State.setSlot_ord (s : State) (r : SlotRef) (b : Bytes) : (s.setSlot r b).ord = s.ord := rfl

/-! ### `State.markTaken` changes `ports`, `ccx` alone -/

@[simp] theorem State.markTaken_pending (s : State) (r : SlotRef) (b : Bytes) (bad : Bool) : (s.markTaken r b bad).pending = s.pending := by
  simp only [State.markTaken, State.updPort_pending, State.setSlot_pending]
@[simp] theorem State.markTaken_mem (s : State) (r : SlotRef) (b : Bytes) (bad : Bool) : (s.markTaken r b bad).mem = s.mem := by
  simp only [State.markTaken, State.updPort_mem, State.setSlot_mem]
@[simp] theorem State.markTaken_heat (s : State) (r : SlotRef) (b : Bytes) (bad : Bool) : (s.markTaken r b bad).heat = s.heat := by
  simp only [State.markTaken, State.updPort_heat, State.setSlot_heat]
@[simp] theorem State.markTaken_wr (s : State) (r : SlotRef) (b : Bytes) (bad : Bool) : (s.markTaken r b bad).wr = s.wr := by
  simp only [State.markTaken, State.updPort_wr, State.setSlot_wr]
@[simp] theorem State.markTaken_part (s : State) (r : SlotRef) (b : Bytes) (bad : Bool) : (s.markTaken r b bad).part = s.part := by
  simp only [State.markTaken, State.updPort_part, State.setSlot_part]
@[simp] theorem State.markTaken_phase (s : State) (r : SlotRef) (b : Bytes) (bad : Bool) : (s.markTaken r b bad).phase = s.phase := by
  simp only [State.markTaken, State.updPort_phase, State.setSlot_phase]
@[simp] theorem State.markTaken_pins (s : State) (r : SlotRef) (b : Bytes) (bad : Bool) : (s.markTaken r b bad).pins = s.pins := by
  simp only [State.markTaken, State.updPort_pins, State.setSlot_pins]
@[simp] theorem State.markTaken_split (s : State) (r : SlotRef) (b : Bytes) (bad : Bool) : (s.markTaken r b bad).split = s.split := by
  simp only [State.markTaken, State.updPort_split, State.setSlot_split]
@[simp] theorem State.markTaken_cores (s : State) (r : SlotRef) (b : Bytes) (bad : Bool) : (s.markTaken r b bad).cores = s.cores := by
  simp only [State.markTaken, State.updPort_cores, State.setSlot_cores]
@[simp] theorem State.markTaken_exps (s : State) (r : SlotRef) (b : Bytes) (bad : Bool) : (s.markTaken r b bad).exps = s.exps := by
  simp only [State.markTaken, State.updPort_exps, State.setSlot_exps]
@[simp] theorem State.markTaken_sites (s : State) (r : SlotRef) (b : Bytes) (bad : Bool) : (s.markTaken r b bad).sites = s.sites := by
  simp only [State.markTaken, State.updPort_sites, State.setSlot_sites]
@[simp] theorem State.markTaken_pkgs (s : State) (r : SlotRef) (b : Bytes) (bad : Bool) : (s.markTaken r b bad).pkgs = s.pkgs := by
  simp only [State.markTaken, State.updPort_pkgs, State.setSlot_pkgs]
@[simp] theorem State.markTaken_retired (s : State) (r : SlotRef) (b : Bytes) (bad : Bool) : (s.markTaken r b bad).retired = s.retired := by
  simp only [State.markTaken, State.updPort_retired, State.setSlot_retired]
@[simp] theorem State.markTaken_maps (s : State) (r : SlotRef) (b : Bytes) (bad : Bool) : (s.markTaken r b bad).maps = s.maps := by
  simp only [State.markTaken, State.updPort_maps, State.setSlot_maps]
@[simp] theorem State.markTaken_nextMap (s : State) (r : SlotRef) (b : Bytes) (bad : Bool) : (s.markTaken r b bad).nextMap = s.nextMap := by
  simp only [State.markTaken, State.updPort_nextMap, State.setSlot_nextMap]
@[simp] theorem State.markTaken_unmaps (s : State) (r : SlotRef) (b : Bytes) (bad : Bool) : (s.markTaken r b bad).unmaps = s.unmaps := by
  simp only [State.markTaken, State.updPort_unmaps, State.setSlot_unmaps]
@[simp] theorem State.markTaken_pageMoves (s : State) (r : SlotRef) (b : Bytes) (bad : Bool) : (s.markTaken r b bad).pageMoves = s.pageMoves := by
  simp only [State.markTaken, State.updPort_pageMoves, State.setSlot_pageMoves]
@[simp] theorem State.markTaken_fwPages (s : State) (r : SlotRef) (b : Bytes) (bad : Bool) : (s.markTaken r b bad).fwPages = s.fwPages := by
  simp only [State.markTaken, State.updPort_fwPages, State.setSlot_fwPages]
@[simp] theorem State.markTaken_partitions (s : State) (r : SlotRef) (b : Bytes) (bad : Bool) : (s.markTaken r b bad).partitions = s.partitions := by
  simp only [State.markTaken, State.updPort_partitions, State.setSlot_partitions]
@[simp] theorem State.markTaken_partWait (s : State) (r : SlotRef) (b : Bytes) (bad : Bool) : (s.markTaken r b bad).partWait = s.partWait := by
  simp only [State.markTaken, State.updPort_partWait, State.setSlot_partWait]
@[simp] theorem State.markTaken_turns (s : State) (r : SlotRef) (b : Bytes) (bad : Bool) : (s.markTaken r b bad).turns = s.turns := by
  simp only [State.markTaken, State.updPort_turns, State.setSlot_turns]
@[simp] theorem State.markTaken_ctxs (s : State) (r : SlotRef) (b : Bytes) (bad : Bool) : (s.markTaken r b bad).ctxs = s.ctxs := by
  simp only [State.markTaken, State.updPort_ctxs, State.setSlot_ctxs]
@[simp] theorem State.markTaken_ctxEpochs (s : State) (r : SlotRef) (b : Bytes) (bad : Bool) : (s.markTaken r b bad).ctxEpochs = s.ctxEpochs := by
  simp only [State.markTaken, State.updPort_ctxEpochs, State.setSlot_ctxEpochs]
@[simp] theorem State.markTaken_waiters (s : State) (r : SlotRef) (b : Bytes) (bad : Bool) : (s.markTaken r b bad).waiters = s.waiters := by
  simp only [State.markTaken, State.updPort_waiters, State.setSlot_waiters]
@[simp] theorem State.markTaken_stale (s : State) (r : SlotRef) (b : Bytes) (bad : Bool) : (s.markTaken r b bad).stale = s.stale := by
  simp only [State.markTaken, State.updPort_stale, State.setSlot_stale]
@[simp] theorem State.markTaken_entries (s : State) (r : SlotRef) (b : Bytes) (bad : Bool) : (s.markTaken r b bad).entries = s.entries := by
  simp only [State.markTaken, State.updPort_entries, State.setSlot_entries]
@[simp] theorem State.markTaken_buildSeqs (s : State) (r : SlotRef) (b : Bytes) (bad : Bool) : (s.markTaken r b bad).buildSeqs = s.buildSeqs := by
  simp only [State.markTaken, State.updPort_buildSeqs, State.setSlot_buildSeqs]
@[simp] theorem State.markTaken_seqs (s : State) (r : SlotRef) (b : Bytes) (bad : Bool) : (s.markTaken r b bad).seqs = s.seqs := by
  simp only [State.markTaken, State.updPort_seqs, State.setSlot_seqs]
@[simp] theorem State.markTaken_nextSeq (s : State) (r : SlotRef) (b : Bytes) (bad : Bool) : (s.markTaken r b bad).nextSeq = s.nextSeq := by
  simp only [State.markTaken, State.updPort_nextSeq, State.setSlot_nextSeq]
@[simp] theorem State.markTaken_jobs (s : State) (r : SlotRef) (b : Bytes) (bad : Bool) : (s.markTaken r b bad).jobs = s.jobs := by
  simp only [State.markTaken, State.updPort_jobs, State.setSlot_jobs]
@[simp] theorem State.markTaken_nextJob (s : State) (r : SlotRef) (b : Bytes) (bad : Bool) : (s.markTaken r b bad).nextJob = s.nextJob := by
  simp only [State.markTaken, State.updPort_nextJob, State.setSlot_nextJob]
@[simp] theorem State.markTaken_held (s : State) (r : SlotRef) (b : Bytes) (bad : Bool) : (s.markTaken r b bad).held = s.held := by
  simp only [State.markTaken, State.updPort_held, State.setSlot_held]
@[simp] theorem State.markTaken_hostReads (s : State) (r : SlotRef) (b : Bytes) (bad : Bool) : (s.markTaken r b bad).hostReads = s.hostReads := by
  simp only [State.markTaken, State.updPort_hostReads, State.setSlot_hostReads]
@[simp] theorem State.markTaken_nextTag (s : State) (r : SlotRef) (b : Bytes) (bad : Bool) : (s.markTaken r b bad).nextTag = s.nextTag := by
  simp only [State.markTaken, State.updPort_nextTag, State.setSlot_nextTag]
@[simp] theorem State.markTaken_own (s : State) (r : SlotRef) (b : Bytes) (bad : Bool) : (s.markTaken r b bad).own = s.own := by
  simp only [State.markTaken, State.updPort_own, State.setSlot_own]
@[simp] theorem State.markTaken_fab (s : State) (r : SlotRef) (b : Bytes) (bad : Bool) : (s.markTaken r b bad).fab = s.fab := by
  simp only [State.markTaken, State.updPort_fab, State.setSlot_fab]
@[simp] theorem State.markTaken_plt (s : State) (r : SlotRef) (b : Bytes) (bad : Bool) : (s.markTaken r b bad).plt = s.plt := by
  simp only [State.markTaken, State.updPort_plt, State.setSlot_plt]
@[simp] theorem State.markTaken_store (s : State) (r : SlotRef) (b : Bytes) (bad : Bool) : (s.markTaken r b bad).store = s.store := by
  simp only [State.markTaken, State.updPort_store, State.setSlot_store]
@[simp] theorem State.markTaken_rcv (s : State) (r : SlotRef) (b : Bytes) (bad : Bool) : (s.markTaken r b bad).rcv = s.rcv := by
  simp only [State.markTaken, State.updPort_rcv, State.setSlot_rcv]
@[simp] theorem State.markTaken_loop (s : State) (r : SlotRef) (b : Bytes) (bad : Bool) : (s.markTaken r b bad).loop = s.loop := by
  simp only [State.markTaken, State.updPort_loop, State.setSlot_loop]
@[simp] theorem State.markTaken_out (s : State) (r : SlotRef) (b : Bytes) (bad : Bool) : (s.markTaken r b bad).out = s.out := by
  simp only [State.markTaken, State.updPort_out, State.setSlot_out]
@[simp] theorem State.markTaken_free (s : State) (r : SlotRef) (b : Bytes) (bad : Bool) : (s.markTaken r b bad).free = s.free := by
  simp only [State.markTaken, State.updPort_free, State.setSlot_free]
@[simp] theorem State.markTaken_ord (s : State) (r : SlotRef) (b : Bytes) (bad : Bool) : (s.markTaken r b bad).ord = s.ord := by
  simp only [State.markTaken, State.updPort_ord, State.setSlot_ord]

/-! ### `State.openBox` changes `ports` alone -/

@[simp] theorem State.openBox_pending (s : State) (p n : Nat) : (s.openBox p n).pending = s.pending := rfl
@[simp] theorem State.openBox_mem (s : State) (p n : Nat) : (s.openBox p n).mem = s.mem := rfl
@[simp] theorem State.openBox_heat (s : State) (p n : Nat) : (s.openBox p n).heat = s.heat := rfl
@[simp] theorem State.openBox_wr (s : State) (p n : Nat) : (s.openBox p n).wr = s.wr := rfl
@[simp] theorem State.openBox_part (s : State) (p n : Nat) : (s.openBox p n).part = s.part := rfl
@[simp] theorem State.openBox_phase (s : State) (p n : Nat) : (s.openBox p n).phase = s.phase := rfl
@[simp] theorem State.openBox_pins (s : State) (p n : Nat) : (s.openBox p n).pins = s.pins := rfl
@[simp] theorem State.openBox_split (s : State) (p n : Nat) : (s.openBox p n).split = s.split := rfl
@[simp] theorem State.openBox_cores (s : State) (p n : Nat) : (s.openBox p n).cores = s.cores := rfl
@[simp] theorem State.openBox_exps (s : State) (p n : Nat) : (s.openBox p n).exps = s.exps := rfl
@[simp] theorem State.openBox_sites (s : State) (p n : Nat) : (s.openBox p n).sites = s.sites := rfl
@[simp] theorem State.openBox_pkgs (s : State) (p n : Nat) : (s.openBox p n).pkgs = s.pkgs := rfl
@[simp] theorem State.openBox_retired (s : State) (p n : Nat) : (s.openBox p n).retired = s.retired := rfl
@[simp] theorem State.openBox_maps (s : State) (p n : Nat) : (s.openBox p n).maps = s.maps := rfl
@[simp] theorem State.openBox_nextMap (s : State) (p n : Nat) : (s.openBox p n).nextMap = s.nextMap := rfl
@[simp] theorem State.openBox_unmaps (s : State) (p n : Nat) : (s.openBox p n).unmaps = s.unmaps := rfl
@[simp] theorem State.openBox_pageMoves (s : State) (p n : Nat) : (s.openBox p n).pageMoves = s.pageMoves := rfl
@[simp] theorem State.openBox_fwPages (s : State) (p n : Nat) : (s.openBox p n).fwPages = s.fwPages := rfl
@[simp] theorem State.openBox_partitions (s : State) (p n : Nat) : (s.openBox p n).partitions = s.partitions := rfl
@[simp] theorem State.openBox_partWait (s : State) (p n : Nat) : (s.openBox p n).partWait = s.partWait := rfl
@[simp] theorem State.openBox_turns (s : State) (p n : Nat) : (s.openBox p n).turns = s.turns := rfl
@[simp] theorem State.openBox_ctxs (s : State) (p n : Nat) : (s.openBox p n).ctxs = s.ctxs := rfl
@[simp] theorem State.openBox_ctxEpochs (s : State) (p n : Nat) : (s.openBox p n).ctxEpochs = s.ctxEpochs := rfl
@[simp] theorem State.openBox_waiters (s : State) (p n : Nat) : (s.openBox p n).waiters = s.waiters := rfl
@[simp] theorem State.openBox_stale (s : State) (p n : Nat) : (s.openBox p n).stale = s.stale := rfl
@[simp] theorem State.openBox_entries (s : State) (p n : Nat) : (s.openBox p n).entries = s.entries := rfl
@[simp] theorem State.openBox_buildSeqs (s : State) (p n : Nat) : (s.openBox p n).buildSeqs = s.buildSeqs := rfl
@[simp] theorem State.openBox_seqs (s : State) (p n : Nat) : (s.openBox p n).seqs = s.seqs := rfl
@[simp] theorem State.openBox_nextSeq (s : State) (p n : Nat) : (s.openBox p n).nextSeq = s.nextSeq := rfl
@[simp] theorem State.openBox_jobs (s : State) (p n : Nat) : (s.openBox p n).jobs = s.jobs := rfl
@[simp] theorem State.openBox_nextJob (s : State) (p n : Nat) : (s.openBox p n).nextJob = s.nextJob := rfl
@[simp] theorem State.openBox_held (s : State) (p n : Nat) : (s.openBox p n).held = s.held := rfl
@[simp] theorem State.openBox_hostReads (s : State) (p n : Nat) : (s.openBox p n).hostReads = s.hostReads := rfl
@[simp] theorem State.openBox_nextTag (s : State) (p n : Nat) : (s.openBox p n).nextTag = s.nextTag := rfl
@[simp] theorem State.openBox_own (s : State) (p n : Nat) : (s.openBox p n).own = s.own := rfl
@[simp] theorem State.openBox_ccx (s : State) (p n : Nat) : (s.openBox p n).ccx = s.ccx := rfl
@[simp] theorem State.openBox_fab (s : State) (p n : Nat) : (s.openBox p n).fab = s.fab := rfl
@[simp] theorem State.openBox_plt (s : State) (p n : Nat) : (s.openBox p n).plt = s.plt := rfl
@[simp] theorem State.openBox_store (s : State) (p n : Nat) : (s.openBox p n).store = s.store := rfl
@[simp] theorem State.openBox_rcv (s : State) (p n : Nat) : (s.openBox p n).rcv = s.rcv := rfl
@[simp] theorem State.openBox_loop (s : State) (p n : Nat) : (s.openBox p n).loop = s.loop := rfl
@[simp] theorem State.openBox_out (s : State) (p n : Nat) : (s.openBox p n).out = s.out := rfl
@[simp] theorem State.openBox_free (s : State) (p n : Nat) : (s.openBox p n).free = s.free := rfl
@[simp] theorem State.openBox_ord (s : State) (p n : Nat) : (s.openBox p n).ord = s.ord := rfl

/-! ### `State.closeBox` changes `ports`, `ccx` alone -/

@[simp] theorem State.closeBox_pending (s : State) (p n : Nat) : (s.closeBox p n).pending = s.pending := rfl
@[simp] theorem State.closeBox_mem (s : State) (p n : Nat) : (s.closeBox p n).mem = s.mem := rfl
@[simp] theorem State.closeBox_heat (s : State) (p n : Nat) : (s.closeBox p n).heat = s.heat := rfl
@[simp] theorem State.closeBox_wr (s : State) (p n : Nat) : (s.closeBox p n).wr = s.wr := rfl
@[simp] theorem State.closeBox_part (s : State) (p n : Nat) : (s.closeBox p n).part = s.part := rfl
@[simp] theorem State.closeBox_phase (s : State) (p n : Nat) : (s.closeBox p n).phase = s.phase := rfl
@[simp] theorem State.closeBox_pins (s : State) (p n : Nat) : (s.closeBox p n).pins = s.pins := rfl
@[simp] theorem State.closeBox_split (s : State) (p n : Nat) : (s.closeBox p n).split = s.split := rfl
@[simp] theorem State.closeBox_cores (s : State) (p n : Nat) : (s.closeBox p n).cores = s.cores := rfl
@[simp] theorem State.closeBox_exps (s : State) (p n : Nat) : (s.closeBox p n).exps = s.exps := rfl
@[simp] theorem State.closeBox_sites (s : State) (p n : Nat) : (s.closeBox p n).sites = s.sites := rfl
@[simp] theorem State.closeBox_pkgs (s : State) (p n : Nat) : (s.closeBox p n).pkgs = s.pkgs := rfl
@[simp] theorem State.closeBox_retired (s : State) (p n : Nat) : (s.closeBox p n).retired = s.retired := rfl
@[simp] theorem State.closeBox_maps (s : State) (p n : Nat) : (s.closeBox p n).maps = s.maps := rfl
@[simp] theorem State.closeBox_nextMap (s : State) (p n : Nat) : (s.closeBox p n).nextMap = s.nextMap := rfl
@[simp] theorem State.closeBox_unmaps (s : State) (p n : Nat) : (s.closeBox p n).unmaps = s.unmaps := rfl
@[simp] theorem State.closeBox_pageMoves (s : State) (p n : Nat) : (s.closeBox p n).pageMoves = s.pageMoves := rfl
@[simp] theorem State.closeBox_fwPages (s : State) (p n : Nat) : (s.closeBox p n).fwPages = s.fwPages := rfl
@[simp] theorem State.closeBox_partitions (s : State) (p n : Nat) : (s.closeBox p n).partitions = s.partitions := rfl
@[simp] theorem State.closeBox_partWait (s : State) (p n : Nat) : (s.closeBox p n).partWait = s.partWait := rfl
@[simp] theorem State.closeBox_turns (s : State) (p n : Nat) : (s.closeBox p n).turns = s.turns := rfl
@[simp] theorem State.closeBox_ctxs (s : State) (p n : Nat) : (s.closeBox p n).ctxs = s.ctxs := rfl
@[simp] theorem State.closeBox_ctxEpochs (s : State) (p n : Nat) : (s.closeBox p n).ctxEpochs = s.ctxEpochs := rfl
@[simp] theorem State.closeBox_waiters (s : State) (p n : Nat) : (s.closeBox p n).waiters = s.waiters := rfl
@[simp] theorem State.closeBox_stale (s : State) (p n : Nat) : (s.closeBox p n).stale = s.stale := rfl
@[simp] theorem State.closeBox_entries (s : State) (p n : Nat) : (s.closeBox p n).entries = s.entries := rfl
@[simp] theorem State.closeBox_buildSeqs (s : State) (p n : Nat) : (s.closeBox p n).buildSeqs = s.buildSeqs := rfl
@[simp] theorem State.closeBox_seqs (s : State) (p n : Nat) : (s.closeBox p n).seqs = s.seqs := rfl
@[simp] theorem State.closeBox_nextSeq (s : State) (p n : Nat) : (s.closeBox p n).nextSeq = s.nextSeq := rfl
@[simp] theorem State.closeBox_jobs (s : State) (p n : Nat) : (s.closeBox p n).jobs = s.jobs := rfl
@[simp] theorem State.closeBox_nextJob (s : State) (p n : Nat) : (s.closeBox p n).nextJob = s.nextJob := rfl
@[simp] theorem State.closeBox_held (s : State) (p n : Nat) : (s.closeBox p n).held = s.held := rfl
@[simp] theorem State.closeBox_hostReads (s : State) (p n : Nat) : (s.closeBox p n).hostReads = s.hostReads := rfl
@[simp] theorem State.closeBox_nextTag (s : State) (p n : Nat) : (s.closeBox p n).nextTag = s.nextTag := rfl
@[simp] theorem State.closeBox_own (s : State) (p n : Nat) : (s.closeBox p n).own = s.own := rfl
@[simp] theorem State.closeBox_fab (s : State) (p n : Nat) : (s.closeBox p n).fab = s.fab := rfl
@[simp] theorem State.closeBox_plt (s : State) (p n : Nat) : (s.closeBox p n).plt = s.plt := rfl
@[simp] theorem State.closeBox_store (s : State) (p n : Nat) : (s.closeBox p n).store = s.store := rfl
@[simp] theorem State.closeBox_rcv (s : State) (p n : Nat) : (s.closeBox p n).rcv = s.rcv := rfl
@[simp] theorem State.closeBox_loop (s : State) (p n : Nat) : (s.closeBox p n).loop = s.loop := rfl
@[simp] theorem State.closeBox_out (s : State) (p n : Nat) : (s.closeBox p n).out = s.out := rfl
@[simp] theorem State.closeBox_free (s : State) (p n : Nat) : (s.closeBox p n).free = s.free := rfl
@[simp] theorem State.closeBox_ord (s : State) (p n : Nat) : (s.closeBox p n).ord = s.ord := rfl

/-! ### `State.disarmSegs` changes `ports` alone -/

@[simp] theorem State.disarmSegs_pending (s : State) (n : Nat) (p : Option Nat) : (s.disarmSegs n p).pending = s.pending := rfl
@[simp] theorem State.disarmSegs_mem (s : State) (n : Nat) (p : Option Nat) : (s.disarmSegs n p).mem = s.mem := rfl
@[simp] theorem State.disarmSegs_heat (s : State) (n : Nat) (p : Option Nat) : (s.disarmSegs n p).heat = s.heat := rfl
@[simp] theorem State.disarmSegs_wr (s : State) (n : Nat) (p : Option Nat) : (s.disarmSegs n p).wr = s.wr := rfl
@[simp] theorem State.disarmSegs_part (s : State) (n : Nat) (p : Option Nat) : (s.disarmSegs n p).part = s.part := rfl
@[simp] theorem State.disarmSegs_phase (s : State) (n : Nat) (p : Option Nat) : (s.disarmSegs n p).phase = s.phase := rfl
@[simp] theorem State.disarmSegs_pins (s : State) (n : Nat) (p : Option Nat) : (s.disarmSegs n p).pins = s.pins := rfl
@[simp] theorem State.disarmSegs_split (s : State) (n : Nat) (p : Option Nat) : (s.disarmSegs n p).split = s.split := rfl
@[simp] theorem State.disarmSegs_cores (s : State) (n : Nat) (p : Option Nat) : (s.disarmSegs n p).cores = s.cores := rfl
@[simp] theorem State.disarmSegs_exps (s : State) (n : Nat) (p : Option Nat) : (s.disarmSegs n p).exps = s.exps := rfl
@[simp] theorem State.disarmSegs_sites (s : State) (n : Nat) (p : Option Nat) : (s.disarmSegs n p).sites = s.sites := rfl
@[simp] theorem State.disarmSegs_pkgs (s : State) (n : Nat) (p : Option Nat) : (s.disarmSegs n p).pkgs = s.pkgs := rfl
@[simp] theorem State.disarmSegs_retired (s : State) (n : Nat) (p : Option Nat) : (s.disarmSegs n p).retired = s.retired := rfl
@[simp] theorem State.disarmSegs_maps (s : State) (n : Nat) (p : Option Nat) : (s.disarmSegs n p).maps = s.maps := rfl
@[simp] theorem State.disarmSegs_nextMap (s : State) (n : Nat) (p : Option Nat) : (s.disarmSegs n p).nextMap = s.nextMap := rfl
@[simp] theorem State.disarmSegs_unmaps (s : State) (n : Nat) (p : Option Nat) : (s.disarmSegs n p).unmaps = s.unmaps := rfl
@[simp] theorem State.disarmSegs_pageMoves (s : State) (n : Nat) (p : Option Nat) : (s.disarmSegs n p).pageMoves = s.pageMoves := rfl
@[simp] theorem State.disarmSegs_fwPages (s : State) (n : Nat) (p : Option Nat) : (s.disarmSegs n p).fwPages = s.fwPages := rfl
@[simp] theorem State.disarmSegs_partitions (s : State) (n : Nat) (p : Option Nat) : (s.disarmSegs n p).partitions = s.partitions := rfl
@[simp] theorem State.disarmSegs_partWait (s : State) (n : Nat) (p : Option Nat) : (s.disarmSegs n p).partWait = s.partWait := rfl
@[simp] theorem State.disarmSegs_turns (s : State) (n : Nat) (p : Option Nat) : (s.disarmSegs n p).turns = s.turns := rfl
@[simp] theorem State.disarmSegs_ctxs (s : State) (n : Nat) (p : Option Nat) : (s.disarmSegs n p).ctxs = s.ctxs := rfl
@[simp] theorem State.disarmSegs_ctxEpochs (s : State) (n : Nat) (p : Option Nat) : (s.disarmSegs n p).ctxEpochs = s.ctxEpochs := rfl
@[simp] theorem State.disarmSegs_waiters (s : State) (n : Nat) (p : Option Nat) : (s.disarmSegs n p).waiters = s.waiters := rfl
@[simp] theorem State.disarmSegs_stale (s : State) (n : Nat) (p : Option Nat) : (s.disarmSegs n p).stale = s.stale := rfl
@[simp] theorem State.disarmSegs_entries (s : State) (n : Nat) (p : Option Nat) : (s.disarmSegs n p).entries = s.entries := rfl
@[simp] theorem State.disarmSegs_buildSeqs (s : State) (n : Nat) (p : Option Nat) : (s.disarmSegs n p).buildSeqs = s.buildSeqs := rfl
@[simp] theorem State.disarmSegs_seqs (s : State) (n : Nat) (p : Option Nat) : (s.disarmSegs n p).seqs = s.seqs := rfl
@[simp] theorem State.disarmSegs_nextSeq (s : State) (n : Nat) (p : Option Nat) : (s.disarmSegs n p).nextSeq = s.nextSeq := rfl
@[simp] theorem State.disarmSegs_jobs (s : State) (n : Nat) (p : Option Nat) : (s.disarmSegs n p).jobs = s.jobs := rfl
@[simp] theorem State.disarmSegs_nextJob (s : State) (n : Nat) (p : Option Nat) : (s.disarmSegs n p).nextJob = s.nextJob := rfl
@[simp] theorem State.disarmSegs_held (s : State) (n : Nat) (p : Option Nat) : (s.disarmSegs n p).held = s.held := rfl
@[simp] theorem State.disarmSegs_hostReads (s : State) (n : Nat) (p : Option Nat) : (s.disarmSegs n p).hostReads = s.hostReads := rfl
@[simp] theorem State.disarmSegs_nextTag (s : State) (n : Nat) (p : Option Nat) : (s.disarmSegs n p).nextTag = s.nextTag := rfl
@[simp] theorem State.disarmSegs_own (s : State) (n : Nat) (p : Option Nat) : (s.disarmSegs n p).own = s.own := rfl
@[simp] theorem State.disarmSegs_ccx (s : State) (n : Nat) (p : Option Nat) : (s.disarmSegs n p).ccx = s.ccx := rfl
@[simp] theorem State.disarmSegs_fab (s : State) (n : Nat) (p : Option Nat) : (s.disarmSegs n p).fab = s.fab := rfl
@[simp] theorem State.disarmSegs_plt (s : State) (n : Nat) (p : Option Nat) : (s.disarmSegs n p).plt = s.plt := rfl
@[simp] theorem State.disarmSegs_store (s : State) (n : Nat) (p : Option Nat) : (s.disarmSegs n p).store = s.store := rfl
@[simp] theorem State.disarmSegs_rcv (s : State) (n : Nat) (p : Option Nat) : (s.disarmSegs n p).rcv = s.rcv := rfl
@[simp] theorem State.disarmSegs_loop (s : State) (n : Nat) (p : Option Nat) : (s.disarmSegs n p).loop = s.loop := rfl
@[simp] theorem State.disarmSegs_out (s : State) (n : Nat) (p : Option Nat) : (s.disarmSegs n p).out = s.out := rfl
@[simp] theorem State.disarmSegs_free (s : State) (n : Nat) (p : Option Nat) : (s.disarmSegs n p).free = s.free := rfl
@[simp] theorem State.disarmSegs_ord (s : State) (n : Nat) (p : Option Nat) : (s.disarmSegs n p).ord = s.ord := rfl

/-! ### `State.updGroups` changes `fab` alone -/

@[simp] theorem State.updGroups_pending (s : State) (g : List Nat) (f : FabPort → FabPort) : (s.updGroups g f).pending = s.pending := rfl
@[simp] theorem State.updGroups_mem (s : State) (g : List Nat) (f : FabPort → FabPort) : (s.updGroups g f).mem = s.mem := rfl
@[simp] theorem State.updGroups_heat (s : State) (g : List Nat) (f : FabPort → FabPort) : (s.updGroups g f).heat = s.heat := rfl
@[simp] theorem State.updGroups_wr (s : State) (g : List Nat) (f : FabPort → FabPort) : (s.updGroups g f).wr = s.wr := rfl
@[simp] theorem State.updGroups_part (s : State) (g : List Nat) (f : FabPort → FabPort) : (s.updGroups g f).part = s.part := rfl
@[simp] theorem State.updGroups_phase (s : State) (g : List Nat) (f : FabPort → FabPort) : (s.updGroups g f).phase = s.phase := rfl
@[simp] theorem State.updGroups_pins (s : State) (g : List Nat) (f : FabPort → FabPort) : (s.updGroups g f).pins = s.pins := rfl
@[simp] theorem State.updGroups_split (s : State) (g : List Nat) (f : FabPort → FabPort) : (s.updGroups g f).split = s.split := rfl
@[simp] theorem State.updGroups_cores (s : State) (g : List Nat) (f : FabPort → FabPort) : (s.updGroups g f).cores = s.cores := rfl
@[simp] theorem State.updGroups_exps (s : State) (g : List Nat) (f : FabPort → FabPort) : (s.updGroups g f).exps = s.exps := rfl
@[simp] theorem State.updGroups_sites (s : State) (g : List Nat) (f : FabPort → FabPort) : (s.updGroups g f).sites = s.sites := rfl
@[simp] theorem State.updGroups_pkgs (s : State) (g : List Nat) (f : FabPort → FabPort) : (s.updGroups g f).pkgs = s.pkgs := rfl
@[simp] theorem State.updGroups_retired (s : State) (g : List Nat) (f : FabPort → FabPort) : (s.updGroups g f).retired = s.retired := rfl
@[simp] theorem State.updGroups_maps (s : State) (g : List Nat) (f : FabPort → FabPort) : (s.updGroups g f).maps = s.maps := rfl
@[simp] theorem State.updGroups_nextMap (s : State) (g : List Nat) (f : FabPort → FabPort) : (s.updGroups g f).nextMap = s.nextMap := rfl
@[simp] theorem State.updGroups_unmaps (s : State) (g : List Nat) (f : FabPort → FabPort) : (s.updGroups g f).unmaps = s.unmaps := rfl
@[simp] theorem State.updGroups_pageMoves (s : State) (g : List Nat) (f : FabPort → FabPort) : (s.updGroups g f).pageMoves = s.pageMoves := rfl
@[simp] theorem State.updGroups_fwPages (s : State) (g : List Nat) (f : FabPort → FabPort) : (s.updGroups g f).fwPages = s.fwPages := rfl
@[simp] theorem State.updGroups_partitions (s : State) (g : List Nat) (f : FabPort → FabPort) : (s.updGroups g f).partitions = s.partitions := rfl
@[simp] theorem State.updGroups_partWait (s : State) (g : List Nat) (f : FabPort → FabPort) : (s.updGroups g f).partWait = s.partWait := rfl
@[simp] theorem State.updGroups_turns (s : State) (g : List Nat) (f : FabPort → FabPort) : (s.updGroups g f).turns = s.turns := rfl
@[simp] theorem State.updGroups_ctxs (s : State) (g : List Nat) (f : FabPort → FabPort) : (s.updGroups g f).ctxs = s.ctxs := rfl
@[simp] theorem State.updGroups_ctxEpochs (s : State) (g : List Nat) (f : FabPort → FabPort) : (s.updGroups g f).ctxEpochs = s.ctxEpochs := rfl
@[simp] theorem State.updGroups_waiters (s : State) (g : List Nat) (f : FabPort → FabPort) : (s.updGroups g f).waiters = s.waiters := rfl
@[simp] theorem State.updGroups_stale (s : State) (g : List Nat) (f : FabPort → FabPort) : (s.updGroups g f).stale = s.stale := rfl
@[simp] theorem State.updGroups_entries (s : State) (g : List Nat) (f : FabPort → FabPort) : (s.updGroups g f).entries = s.entries := rfl
@[simp] theorem State.updGroups_buildSeqs (s : State) (g : List Nat) (f : FabPort → FabPort) : (s.updGroups g f).buildSeqs = s.buildSeqs := rfl
@[simp] theorem State.updGroups_seqs (s : State) (g : List Nat) (f : FabPort → FabPort) : (s.updGroups g f).seqs = s.seqs := rfl
@[simp] theorem State.updGroups_nextSeq (s : State) (g : List Nat) (f : FabPort → FabPort) : (s.updGroups g f).nextSeq = s.nextSeq := rfl
@[simp] theorem State.updGroups_jobs (s : State) (g : List Nat) (f : FabPort → FabPort) : (s.updGroups g f).jobs = s.jobs := rfl
@[simp] theorem State.updGroups_nextJob (s : State) (g : List Nat) (f : FabPort → FabPort) : (s.updGroups g f).nextJob = s.nextJob := rfl
@[simp] theorem State.updGroups_held (s : State) (g : List Nat) (f : FabPort → FabPort) : (s.updGroups g f).held = s.held := rfl
@[simp] theorem State.updGroups_hostReads (s : State) (g : List Nat) (f : FabPort → FabPort) : (s.updGroups g f).hostReads = s.hostReads := rfl
@[simp] theorem State.updGroups_nextTag (s : State) (g : List Nat) (f : FabPort → FabPort) : (s.updGroups g f).nextTag = s.nextTag := rfl
@[simp] theorem State.updGroups_ports (s : State) (g : List Nat) (f : FabPort → FabPort) : (s.updGroups g f).ports = s.ports := rfl
@[simp] theorem State.updGroups_own (s : State) (g : List Nat) (f : FabPort → FabPort) : (s.updGroups g f).own = s.own := rfl
@[simp] theorem State.updGroups_ccx (s : State) (g : List Nat) (f : FabPort → FabPort) : (s.updGroups g f).ccx = s.ccx := rfl
@[simp] theorem State.updGroups_plt (s : State) (g : List Nat) (f : FabPort → FabPort) : (s.updGroups g f).plt = s.plt := rfl
@[simp] theorem State.updGroups_store (s : State) (g : List Nat) (f : FabPort → FabPort) : (s.updGroups g f).store = s.store := rfl
@[simp] theorem State.updGroups_rcv (s : State) (g : List Nat) (f : FabPort → FabPort) : (s.updGroups g f).rcv = s.rcv := rfl
@[simp] theorem State.updGroups_loop (s : State) (g : List Nat) (f : FabPort → FabPort) : (s.updGroups g f).loop = s.loop := rfl
@[simp] theorem State.updGroups_out (s : State) (g : List Nat) (f : FabPort → FabPort) : (s.updGroups g f).out = s.out := rfl
@[simp] theorem State.updGroups_free (s : State) (g : List Nat) (f : FabPort → FabPort) : (s.updGroups g f).free = s.free := rfl
@[simp] theorem State.updGroups_ord (s : State) (g : List Nat) (f : FabPort → FabPort) : (s.updGroups g f).ord = s.ord := rfl

/-! ### `State.debugLocked` changes `ports`, `ccx` alone -/

@[simp] theorem State.debugLocked_pending (s : State) (p : Nat) : (s.debugLocked p).pending = s.pending := rfl
@[simp] theorem State.debugLocked_mem (s : State) (p : Nat) : (s.debugLocked p).mem = s.mem := rfl
@[simp] theorem State.debugLocked_heat (s : State) (p : Nat) : (s.debugLocked p).heat = s.heat := rfl
@[simp] theorem State.debugLocked_wr (s : State) (p : Nat) : (s.debugLocked p).wr = s.wr := rfl
@[simp] theorem State.debugLocked_part (s : State) (p : Nat) : (s.debugLocked p).part = s.part := rfl
@[simp] theorem State.debugLocked_phase (s : State) (p : Nat) : (s.debugLocked p).phase = s.phase := rfl
@[simp] theorem State.debugLocked_pins (s : State) (p : Nat) : (s.debugLocked p).pins = s.pins := rfl
@[simp] theorem State.debugLocked_split (s : State) (p : Nat) : (s.debugLocked p).split = s.split := rfl
@[simp] theorem State.debugLocked_cores (s : State) (p : Nat) : (s.debugLocked p).cores = s.cores := rfl
@[simp] theorem State.debugLocked_exps (s : State) (p : Nat) : (s.debugLocked p).exps = s.exps := rfl
@[simp] theorem State.debugLocked_sites (s : State) (p : Nat) : (s.debugLocked p).sites = s.sites := rfl
@[simp] theorem State.debugLocked_pkgs (s : State) (p : Nat) : (s.debugLocked p).pkgs = s.pkgs := rfl
@[simp] theorem State.debugLocked_retired (s : State) (p : Nat) : (s.debugLocked p).retired = s.retired := rfl
@[simp] theorem State.debugLocked_maps (s : State) (p : Nat) : (s.debugLocked p).maps = s.maps := rfl
@[simp] theorem State.debugLocked_nextMap (s : State) (p : Nat) : (s.debugLocked p).nextMap = s.nextMap := rfl
@[simp] theorem State.debugLocked_unmaps (s : State) (p : Nat) : (s.debugLocked p).unmaps = s.unmaps := rfl
@[simp] theorem State.debugLocked_pageMoves (s : State) (p : Nat) : (s.debugLocked p).pageMoves = s.pageMoves := rfl
@[simp] theorem State.debugLocked_fwPages (s : State) (p : Nat) : (s.debugLocked p).fwPages = s.fwPages := rfl
@[simp] theorem State.debugLocked_partitions (s : State) (p : Nat) : (s.debugLocked p).partitions = s.partitions := rfl
@[simp] theorem State.debugLocked_partWait (s : State) (p : Nat) : (s.debugLocked p).partWait = s.partWait := rfl
@[simp] theorem State.debugLocked_turns (s : State) (p : Nat) : (s.debugLocked p).turns = s.turns := rfl
@[simp] theorem State.debugLocked_ctxs (s : State) (p : Nat) : (s.debugLocked p).ctxs = s.ctxs := rfl
@[simp] theorem State.debugLocked_ctxEpochs (s : State) (p : Nat) : (s.debugLocked p).ctxEpochs = s.ctxEpochs := rfl
@[simp] theorem State.debugLocked_waiters (s : State) (p : Nat) : (s.debugLocked p).waiters = s.waiters := rfl
@[simp] theorem State.debugLocked_stale (s : State) (p : Nat) : (s.debugLocked p).stale = s.stale := rfl
@[simp] theorem State.debugLocked_entries (s : State) (p : Nat) : (s.debugLocked p).entries = s.entries := rfl
@[simp] theorem State.debugLocked_buildSeqs (s : State) (p : Nat) : (s.debugLocked p).buildSeqs = s.buildSeqs := rfl
@[simp] theorem State.debugLocked_seqs (s : State) (p : Nat) : (s.debugLocked p).seqs = s.seqs := rfl
@[simp] theorem State.debugLocked_nextSeq (s : State) (p : Nat) : (s.debugLocked p).nextSeq = s.nextSeq := rfl
@[simp] theorem State.debugLocked_jobs (s : State) (p : Nat) : (s.debugLocked p).jobs = s.jobs := rfl
@[simp] theorem State.debugLocked_nextJob (s : State) (p : Nat) : (s.debugLocked p).nextJob = s.nextJob := rfl
@[simp] theorem State.debugLocked_held (s : State) (p : Nat) : (s.debugLocked p).held = s.held := rfl
@[simp] theorem State.debugLocked_hostReads (s : State) (p : Nat) : (s.debugLocked p).hostReads = s.hostReads := rfl
@[simp] theorem State.debugLocked_nextTag (s : State) (p : Nat) : (s.debugLocked p).nextTag = s.nextTag := rfl
@[simp] theorem State.debugLocked_own (s : State) (p : Nat) : (s.debugLocked p).own = s.own := rfl
@[simp] theorem State.debugLocked_fab (s : State) (p : Nat) : (s.debugLocked p).fab = s.fab := rfl
@[simp] theorem State.debugLocked_plt (s : State) (p : Nat) : (s.debugLocked p).plt = s.plt := rfl
@[simp] theorem State.debugLocked_store (s : State) (p : Nat) : (s.debugLocked p).store = s.store := rfl
@[simp] theorem State.debugLocked_rcv (s : State) (p : Nat) : (s.debugLocked p).rcv = s.rcv := rfl
@[simp] theorem State.debugLocked_loop (s : State) (p : Nat) : (s.debugLocked p).loop = s.loop := rfl
@[simp] theorem State.debugLocked_out (s : State) (p : Nat) : (s.debugLocked p).out = s.out := rfl
@[simp] theorem State.debugLocked_free (s : State) (p : Nat) : (s.debugLocked p).free = s.free := rfl
@[simp] theorem State.debugLocked_ord (s : State) (p : Nat) : (s.debugLocked p).ord = s.ord := rfl

/-! ### `State.releaseCores` changes `cores` alone -/

@[simp] theorem State.releaseCores_pending (s : State) (n : Nat) : (s.releaseCores n).pending = s.pending := rfl
@[simp] theorem State.releaseCores_mem (s : State) (n : Nat) : (s.releaseCores n).mem = s.mem := rfl
@[simp] theorem State.releaseCores_heat (s : State) (n : Nat) : (s.releaseCores n).heat = s.heat := rfl
@[simp] theorem State.releaseCores_wr (s : State) (n : Nat) : (s.releaseCores n).wr = s.wr := rfl
@[simp] theorem State.releaseCores_part (s : State) (n : Nat) : (s.releaseCores n).part = s.part := rfl
@[simp] theorem State.releaseCores_phase (s : State) (n : Nat) : (s.releaseCores n).phase = s.phase := rfl
@[simp] theorem State.releaseCores_pins (s : State) (n : Nat) : (s.releaseCores n).pins = s.pins := rfl
@[simp] theorem State.releaseCores_split (s : State) (n : Nat) : (s.releaseCores n).split = s.split := rfl
@[simp] theorem State.releaseCores_exps (s : State) (n : Nat) : (s.releaseCores n).exps = s.exps := rfl
@[simp] theorem State.releaseCores_sites (s : State) (n : Nat) : (s.releaseCores n).sites = s.sites := rfl
@[simp] theorem State.releaseCores_pkgs (s : State) (n : Nat) : (s.releaseCores n).pkgs = s.pkgs := rfl
@[simp] theorem State.releaseCores_retired (s : State) (n : Nat) : (s.releaseCores n).retired = s.retired := rfl
@[simp] theorem State.releaseCores_maps (s : State) (n : Nat) : (s.releaseCores n).maps = s.maps := rfl
@[simp] theorem State.releaseCores_nextMap (s : State) (n : Nat) : (s.releaseCores n).nextMap = s.nextMap := rfl
@[simp] theorem State.releaseCores_unmaps (s : State) (n : Nat) : (s.releaseCores n).unmaps = s.unmaps := rfl
@[simp] theorem State.releaseCores_pageMoves (s : State) (n : Nat) : (s.releaseCores n).pageMoves = s.pageMoves := rfl
@[simp] theorem State.releaseCores_fwPages (s : State) (n : Nat) : (s.releaseCores n).fwPages = s.fwPages := rfl
@[simp] theorem State.releaseCores_partitions (s : State) (n : Nat) : (s.releaseCores n).partitions = s.partitions := rfl
@[simp] theorem State.releaseCores_partWait (s : State) (n : Nat) : (s.releaseCores n).partWait = s.partWait := rfl
@[simp] theorem State.releaseCores_turns (s : State) (n : Nat) : (s.releaseCores n).turns = s.turns := rfl
@[simp] theorem State.releaseCores_ctxs (s : State) (n : Nat) : (s.releaseCores n).ctxs = s.ctxs := rfl
@[simp] theorem State.releaseCores_ctxEpochs (s : State) (n : Nat) : (s.releaseCores n).ctxEpochs = s.ctxEpochs := rfl
@[simp] theorem State.releaseCores_waiters (s : State) (n : Nat) : (s.releaseCores n).waiters = s.waiters := rfl
@[simp] theorem State.releaseCores_stale (s : State) (n : Nat) : (s.releaseCores n).stale = s.stale := rfl
@[simp] theorem State.releaseCores_entries (s : State) (n : Nat) : (s.releaseCores n).entries = s.entries := rfl
@[simp] theorem State.releaseCores_buildSeqs (s : State) (n : Nat) : (s.releaseCores n).buildSeqs = s.buildSeqs := rfl
@[simp] theorem State.releaseCores_seqs (s : State) (n : Nat) : (s.releaseCores n).seqs = s.seqs := rfl
@[simp] theorem State.releaseCores_nextSeq (s : State) (n : Nat) : (s.releaseCores n).nextSeq = s.nextSeq := rfl
@[simp] theorem State.releaseCores_jobs (s : State) (n : Nat) : (s.releaseCores n).jobs = s.jobs := rfl
@[simp] theorem State.releaseCores_nextJob (s : State) (n : Nat) : (s.releaseCores n).nextJob = s.nextJob := rfl
@[simp] theorem State.releaseCores_held (s : State) (n : Nat) : (s.releaseCores n).held = s.held := rfl
@[simp] theorem State.releaseCores_hostReads (s : State) (n : Nat) : (s.releaseCores n).hostReads = s.hostReads := rfl
@[simp] theorem State.releaseCores_nextTag (s : State) (n : Nat) : (s.releaseCores n).nextTag = s.nextTag := rfl
@[simp] theorem State.releaseCores_ports (s : State) (n : Nat) : (s.releaseCores n).ports = s.ports := rfl
@[simp] theorem State.releaseCores_own (s : State) (n : Nat) : (s.releaseCores n).own = s.own := rfl
@[simp] theorem State.releaseCores_ccx (s : State) (n : Nat) : (s.releaseCores n).ccx = s.ccx := rfl
@[simp] theorem State.releaseCores_fab (s : State) (n : Nat) : (s.releaseCores n).fab = s.fab := rfl
@[simp] theorem State.releaseCores_plt (s : State) (n : Nat) : (s.releaseCores n).plt = s.plt := rfl
@[simp] theorem State.releaseCores_store (s : State) (n : Nat) : (s.releaseCores n).store = s.store := rfl
@[simp] theorem State.releaseCores_rcv (s : State) (n : Nat) : (s.releaseCores n).rcv = s.rcv := rfl
@[simp] theorem State.releaseCores_loop (s : State) (n : Nat) : (s.releaseCores n).loop = s.loop := rfl
@[simp] theorem State.releaseCores_out (s : State) (n : Nat) : (s.releaseCores n).out = s.out := rfl
@[simp] theorem State.releaseCores_free (s : State) (n : Nat) : (s.releaseCores n).free = s.free := rfl
@[simp] theorem State.releaseCores_ord (s : State) (n : Nat) : (s.releaseCores n).ord = s.ord := rfl

/-! ### `State.occupyCores` changes `cores` alone -/

@[simp] theorem State.occupyCores_pending (s : State) (n : Nat) (b : Begun) : (s.occupyCores n b).pending = s.pending := rfl
@[simp] theorem State.occupyCores_mem (s : State) (n : Nat) (b : Begun) : (s.occupyCores n b).mem = s.mem := rfl
@[simp] theorem State.occupyCores_heat (s : State) (n : Nat) (b : Begun) : (s.occupyCores n b).heat = s.heat := rfl
@[simp] theorem State.occupyCores_wr (s : State) (n : Nat) (b : Begun) : (s.occupyCores n b).wr = s.wr := rfl
@[simp] theorem State.occupyCores_part (s : State) (n : Nat) (b : Begun) : (s.occupyCores n b).part = s.part := rfl
@[simp] theorem State.occupyCores_phase (s : State) (n : Nat) (b : Begun) : (s.occupyCores n b).phase = s.phase := rfl
@[simp] theorem State.occupyCores_pins (s : State) (n : Nat) (b : Begun) : (s.occupyCores n b).pins = s.pins := rfl
@[simp] theorem State.occupyCores_split (s : State) (n : Nat) (b : Begun) : (s.occupyCores n b).split = s.split := rfl
@[simp] theorem State.occupyCores_exps (s : State) (n : Nat) (b : Begun) : (s.occupyCores n b).exps = s.exps := rfl
@[simp] theorem State.occupyCores_sites (s : State) (n : Nat) (b : Begun) : (s.occupyCores n b).sites = s.sites := rfl
@[simp] theorem State.occupyCores_pkgs (s : State) (n : Nat) (b : Begun) : (s.occupyCores n b).pkgs = s.pkgs := rfl
@[simp] theorem State.occupyCores_retired (s : State) (n : Nat) (b : Begun) : (s.occupyCores n b).retired = s.retired := rfl
@[simp] theorem State.occupyCores_maps (s : State) (n : Nat) (b : Begun) : (s.occupyCores n b).maps = s.maps := rfl
@[simp] theorem State.occupyCores_nextMap (s : State) (n : Nat) (b : Begun) : (s.occupyCores n b).nextMap = s.nextMap := rfl
@[simp] theorem State.occupyCores_unmaps (s : State) (n : Nat) (b : Begun) : (s.occupyCores n b).unmaps = s.unmaps := rfl
@[simp] theorem State.occupyCores_pageMoves (s : State) (n : Nat) (b : Begun) : (s.occupyCores n b).pageMoves = s.pageMoves := rfl
@[simp] theorem State.occupyCores_fwPages (s : State) (n : Nat) (b : Begun) : (s.occupyCores n b).fwPages = s.fwPages := rfl
@[simp] theorem State.occupyCores_partitions (s : State) (n : Nat) (b : Begun) : (s.occupyCores n b).partitions = s.partitions := rfl
@[simp] theorem State.occupyCores_partWait (s : State) (n : Nat) (b : Begun) : (s.occupyCores n b).partWait = s.partWait := rfl
@[simp] theorem State.occupyCores_turns (s : State) (n : Nat) (b : Begun) : (s.occupyCores n b).turns = s.turns := rfl
@[simp] theorem State.occupyCores_ctxs (s : State) (n : Nat) (b : Begun) : (s.occupyCores n b).ctxs = s.ctxs := rfl
@[simp] theorem State.occupyCores_ctxEpochs (s : State) (n : Nat) (b : Begun) : (s.occupyCores n b).ctxEpochs = s.ctxEpochs := rfl
@[simp] theorem State.occupyCores_waiters (s : State) (n : Nat) (b : Begun) : (s.occupyCores n b).waiters = s.waiters := rfl
@[simp] theorem State.occupyCores_stale (s : State) (n : Nat) (b : Begun) : (s.occupyCores n b).stale = s.stale := rfl
@[simp] theorem State.occupyCores_entries (s : State) (n : Nat) (b : Begun) : (s.occupyCores n b).entries = s.entries := rfl
@[simp] theorem State.occupyCores_buildSeqs (s : State) (n : Nat) (b : Begun) : (s.occupyCores n b).buildSeqs = s.buildSeqs := rfl
@[simp] theorem State.occupyCores_seqs (s : State) (n : Nat) (b : Begun) : (s.occupyCores n b).seqs = s.seqs := rfl
@[simp] theorem State.occupyCores_nextSeq (s : State) (n : Nat) (b : Begun) : (s.occupyCores n b).nextSeq = s.nextSeq := rfl
@[simp] theorem State.occupyCores_jobs (s : State) (n : Nat) (b : Begun) : (s.occupyCores n b).jobs = s.jobs := rfl
@[simp] theorem State.occupyCores_nextJob (s : State) (n : Nat) (b : Begun) : (s.occupyCores n b).nextJob = s.nextJob := rfl
@[simp] theorem State.occupyCores_held (s : State) (n : Nat) (b : Begun) : (s.occupyCores n b).held = s.held := rfl
@[simp] theorem State.occupyCores_hostReads (s : State) (n : Nat) (b : Begun) : (s.occupyCores n b).hostReads = s.hostReads := rfl
@[simp] theorem State.occupyCores_nextTag (s : State) (n : Nat) (b : Begun) : (s.occupyCores n b).nextTag = s.nextTag := rfl
@[simp] theorem State.occupyCores_ports (s : State) (n : Nat) (b : Begun) : (s.occupyCores n b).ports = s.ports := rfl
@[simp] theorem State.occupyCores_own (s : State) (n : Nat) (b : Begun) : (s.occupyCores n b).own = s.own := rfl
@[simp] theorem State.occupyCores_ccx (s : State) (n : Nat) (b : Begun) : (s.occupyCores n b).ccx = s.ccx := rfl
@[simp] theorem State.occupyCores_fab (s : State) (n : Nat) (b : Begun) : (s.occupyCores n b).fab = s.fab := rfl
@[simp] theorem State.occupyCores_plt (s : State) (n : Nat) (b : Begun) : (s.occupyCores n b).plt = s.plt := rfl
@[simp] theorem State.occupyCores_store (s : State) (n : Nat) (b : Begun) : (s.occupyCores n b).store = s.store := rfl
@[simp] theorem State.occupyCores_rcv (s : State) (n : Nat) (b : Begun) : (s.occupyCores n b).rcv = s.rcv := rfl
@[simp] theorem State.occupyCores_loop (s : State) (n : Nat) (b : Begun) : (s.occupyCores n b).loop = s.loop := rfl
@[simp] theorem State.occupyCores_out (s : State) (n : Nat) (b : Begun) : (s.occupyCores n b).out = s.out := rfl
@[simp] theorem State.occupyCores_free (s : State) (n : Nat) (b : Begun) : (s.occupyCores n b).free = s.free := rfl
@[simp] theorem State.occupyCores_ord (s : State) (n : Nat) (b : Begun) : (s.occupyCores n b).ord = s.ord := rfl

/-! ### `State.haltCcx` changes `ccx` alone -/

@[simp] theorem State.haltCcx_pending (s : State) (c : Code) : (s.haltCcx c).pending = s.pending := by
  unfold State.haltCcx; split <;> rfl
@[simp] theorem State.haltCcx_mem (s : State) (c : Code) : (s.haltCcx c).mem = s.mem := by
  unfold State.haltCcx; split <;> rfl
@[simp] theorem State.haltCcx_heat (s : State) (c : Code) : (s.haltCcx c).heat = s.heat := by
  unfold State.haltCcx; split <;> rfl
@[simp] theorem State.haltCcx_wr (s : State) (c : Code) : (s.haltCcx c).wr = s.wr := by
  unfold State.haltCcx; split <;> rfl
@[simp] theorem State.haltCcx_part (s : State) (c : Code) : (s.haltCcx c).part = s.part := by
  unfold State.haltCcx; split <;> rfl
@[simp] theorem State.haltCcx_phase (s : State) (c : Code) : (s.haltCcx c).phase = s.phase := by
  unfold State.haltCcx; split <;> rfl
@[simp] theorem State.haltCcx_pins (s : State) (c : Code) : (s.haltCcx c).pins = s.pins := by
  unfold State.haltCcx; split <;> rfl
@[simp] theorem State.haltCcx_split (s : State) (c : Code) : (s.haltCcx c).split = s.split := by
  unfold State.haltCcx; split <;> rfl
@[simp] theorem State.haltCcx_cores (s : State) (c : Code) : (s.haltCcx c).cores = s.cores := by
  unfold State.haltCcx; split <;> rfl
@[simp] theorem State.haltCcx_exps (s : State) (c : Code) : (s.haltCcx c).exps = s.exps := by
  unfold State.haltCcx; split <;> rfl
@[simp] theorem State.haltCcx_sites (s : State) (c : Code) : (s.haltCcx c).sites = s.sites := by
  unfold State.haltCcx; split <;> rfl
@[simp] theorem State.haltCcx_pkgs (s : State) (c : Code) : (s.haltCcx c).pkgs = s.pkgs := by
  unfold State.haltCcx; split <;> rfl
@[simp] theorem State.haltCcx_retired (s : State) (c : Code) : (s.haltCcx c).retired = s.retired := by
  unfold State.haltCcx; split <;> rfl
@[simp] theorem State.haltCcx_maps (s : State) (c : Code) : (s.haltCcx c).maps = s.maps := by
  unfold State.haltCcx; split <;> rfl
@[simp] theorem State.haltCcx_nextMap (s : State) (c : Code) : (s.haltCcx c).nextMap = s.nextMap := by
  unfold State.haltCcx; split <;> rfl
@[simp] theorem State.haltCcx_unmaps (s : State) (c : Code) : (s.haltCcx c).unmaps = s.unmaps := by
  unfold State.haltCcx; split <;> rfl
@[simp] theorem State.haltCcx_pageMoves (s : State) (c : Code) : (s.haltCcx c).pageMoves = s.pageMoves := by
  unfold State.haltCcx; split <;> rfl
@[simp] theorem State.haltCcx_fwPages (s : State) (c : Code) : (s.haltCcx c).fwPages = s.fwPages := by
  unfold State.haltCcx; split <;> rfl
@[simp] theorem State.haltCcx_partitions (s : State) (c : Code) : (s.haltCcx c).partitions = s.partitions := by
  unfold State.haltCcx; split <;> rfl
@[simp] theorem State.haltCcx_partWait (s : State) (c : Code) : (s.haltCcx c).partWait = s.partWait := by
  unfold State.haltCcx; split <;> rfl
@[simp] theorem State.haltCcx_turns (s : State) (c : Code) : (s.haltCcx c).turns = s.turns := by
  unfold State.haltCcx; split <;> rfl
@[simp] theorem State.haltCcx_ctxs (s : State) (c : Code) : (s.haltCcx c).ctxs = s.ctxs := by
  unfold State.haltCcx; split <;> rfl
@[simp] theorem State.haltCcx_ctxEpochs (s : State) (c : Code) : (s.haltCcx c).ctxEpochs = s.ctxEpochs := by
  unfold State.haltCcx; split <;> rfl
@[simp] theorem State.haltCcx_waiters (s : State) (c : Code) : (s.haltCcx c).waiters = s.waiters := by
  unfold State.haltCcx; split <;> rfl
@[simp] theorem State.haltCcx_stale (s : State) (c : Code) : (s.haltCcx c).stale = s.stale := by
  unfold State.haltCcx; split <;> rfl
@[simp] theorem State.haltCcx_entries (s : State) (c : Code) : (s.haltCcx c).entries = s.entries := by
  unfold State.haltCcx; split <;> rfl
@[simp] theorem State.haltCcx_buildSeqs (s : State) (c : Code) : (s.haltCcx c).buildSeqs = s.buildSeqs := by
  unfold State.haltCcx; split <;> rfl
@[simp] theorem State.haltCcx_seqs (s : State) (c : Code) : (s.haltCcx c).seqs = s.seqs := by
  unfold State.haltCcx; split <;> rfl
@[simp] theorem State.haltCcx_nextSeq (s : State) (c : Code) : (s.haltCcx c).nextSeq = s.nextSeq := by
  unfold State.haltCcx; split <;> rfl
@[simp] theorem State.haltCcx_jobs (s : State) (c : Code) : (s.haltCcx c).jobs = s.jobs := by
  unfold State.haltCcx; split <;> rfl
@[simp] theorem State.haltCcx_nextJob (s : State) (c : Code) : (s.haltCcx c).nextJob = s.nextJob := by
  unfold State.haltCcx; split <;> rfl
@[simp] theorem State.haltCcx_held (s : State) (c : Code) : (s.haltCcx c).held = s.held := by
  unfold State.haltCcx; split <;> rfl
@[simp] theorem State.haltCcx_hostReads (s : State) (c : Code) : (s.haltCcx c).hostReads = s.hostReads := by
  unfold State.haltCcx; split <;> rfl
@[simp] theorem State.haltCcx_nextTag (s : State) (c : Code) : (s.haltCcx c).nextTag = s.nextTag := by
  unfold State.haltCcx; split <;> rfl
@[simp] theorem State.haltCcx_ports (s : State) (c : Code) : (s.haltCcx c).ports = s.ports := by
  unfold State.haltCcx; split <;> rfl
@[simp] theorem State.haltCcx_own (s : State) (c : Code) : (s.haltCcx c).own = s.own := by
  unfold State.haltCcx; split <;> rfl
@[simp] theorem State.haltCcx_fab (s : State) (c : Code) : (s.haltCcx c).fab = s.fab := by
  unfold State.haltCcx; split <;> rfl
@[simp] theorem State.haltCcx_plt (s : State) (c : Code) : (s.haltCcx c).plt = s.plt := by
  unfold State.haltCcx; split <;> rfl
@[simp] theorem State.haltCcx_store (s : State) (c : Code) : (s.haltCcx c).store = s.store := by
  unfold State.haltCcx; split <;> rfl
@[simp] theorem State.haltCcx_rcv (s : State) (c : Code) : (s.haltCcx c).rcv = s.rcv := by
  unfold State.haltCcx; split <;> rfl
@[simp] theorem State.haltCcx_loop (s : State) (c : Code) : (s.haltCcx c).loop = s.loop := by
  unfold State.haltCcx; split <;> rfl
@[simp] theorem State.haltCcx_out (s : State) (c : Code) : (s.haltCcx c).out = s.out := by
  unfold State.haltCcx; split <;> rfl
@[simp] theorem State.haltCcx_free (s : State) (c : Code) : (s.haltCcx c).free = s.free := by
  unfold State.haltCcx; split <;> rfl
@[simp] theorem State.haltCcx_ord (s : State) (c : Code) : (s.haltCcx c).ord = s.ord := by
  unfold State.haltCcx; split <;> rfl

/-! ### `State.sendVector` changes `ports`, `out` alone -/

@[simp] theorem State.sendVector_pending (s : State) (p v : Nat) : (s.sendVector p v).pending = s.pending := by
  unfold State.sendVector; dsimp only; repeat (first | rfl | split)
@[simp] theorem State.sendVector_mem (s : State) (p v : Nat) : (s.sendVector p v).mem = s.mem := by
  unfold State.sendVector; dsimp only; repeat (first | rfl | split)
@[simp] theorem State.sendVector_heat (s : State) (p v : Nat) : (s.sendVector p v).heat = s.heat := by
  unfold State.sendVector; dsimp only; repeat (first | rfl | split)
@[simp] theorem State.sendVector_wr (s : State) (p v : Nat) : (s.sendVector p v).wr = s.wr := by
  unfold State.sendVector; dsimp only; repeat (first | rfl | split)
@[simp] theorem State.sendVector_part (s : State) (p v : Nat) : (s.sendVector p v).part = s.part := by
  unfold State.sendVector; dsimp only; repeat (first | rfl | split)
@[simp] theorem State.sendVector_phase (s : State) (p v : Nat) : (s.sendVector p v).phase = s.phase := by
  unfold State.sendVector; dsimp only; repeat (first | rfl | split)
@[simp] theorem State.sendVector_pins (s : State) (p v : Nat) : (s.sendVector p v).pins = s.pins := by
  unfold State.sendVector; dsimp only; repeat (first | rfl | split)
@[simp] theorem State.sendVector_split (s : State) (p v : Nat) : (s.sendVector p v).split = s.split := by
  unfold State.sendVector; dsimp only; repeat (first | rfl | split)
@[simp] theorem State.sendVector_cores (s : State) (p v : Nat) : (s.sendVector p v).cores = s.cores := by
  unfold State.sendVector; dsimp only; repeat (first | rfl | split)
@[simp] theorem State.sendVector_exps (s : State) (p v : Nat) : (s.sendVector p v).exps = s.exps := by
  unfold State.sendVector; dsimp only; repeat (first | rfl | split)
@[simp] theorem State.sendVector_sites (s : State) (p v : Nat) : (s.sendVector p v).sites = s.sites := by
  unfold State.sendVector; dsimp only; repeat (first | rfl | split)
@[simp] theorem State.sendVector_pkgs (s : State) (p v : Nat) : (s.sendVector p v).pkgs = s.pkgs := by
  unfold State.sendVector; dsimp only; repeat (first | rfl | split)
@[simp] theorem State.sendVector_retired (s : State) (p v : Nat) : (s.sendVector p v).retired = s.retired := by
  unfold State.sendVector; dsimp only; repeat (first | rfl | split)
@[simp] theorem State.sendVector_maps (s : State) (p v : Nat) : (s.sendVector p v).maps = s.maps := by
  unfold State.sendVector; dsimp only; repeat (first | rfl | split)
@[simp] theorem State.sendVector_nextMap (s : State) (p v : Nat) : (s.sendVector p v).nextMap = s.nextMap := by
  unfold State.sendVector; dsimp only; repeat (first | rfl | split)
@[simp] theorem State.sendVector_unmaps (s : State) (p v : Nat) : (s.sendVector p v).unmaps = s.unmaps := by
  unfold State.sendVector; dsimp only; repeat (first | rfl | split)
@[simp] theorem State.sendVector_pageMoves (s : State) (p v : Nat) : (s.sendVector p v).pageMoves = s.pageMoves := by
  unfold State.sendVector; dsimp only; repeat (first | rfl | split)
@[simp] theorem State.sendVector_fwPages (s : State) (p v : Nat) : (s.sendVector p v).fwPages = s.fwPages := by
  unfold State.sendVector; dsimp only; repeat (first | rfl | split)
@[simp] theorem State.sendVector_partitions (s : State) (p v : Nat) : (s.sendVector p v).partitions = s.partitions := by
  unfold State.sendVector; dsimp only; repeat (first | rfl | split)
@[simp] theorem State.sendVector_partWait (s : State) (p v : Nat) : (s.sendVector p v).partWait = s.partWait := by
  unfold State.sendVector; dsimp only; repeat (first | rfl | split)
@[simp] theorem State.sendVector_turns (s : State) (p v : Nat) : (s.sendVector p v).turns = s.turns := by
  unfold State.sendVector; dsimp only; repeat (first | rfl | split)
@[simp] theorem State.sendVector_ctxs (s : State) (p v : Nat) : (s.sendVector p v).ctxs = s.ctxs := by
  unfold State.sendVector; dsimp only; repeat (first | rfl | split)
@[simp] theorem State.sendVector_ctxEpochs (s : State) (p v : Nat) : (s.sendVector p v).ctxEpochs = s.ctxEpochs := by
  unfold State.sendVector; dsimp only; repeat (first | rfl | split)
@[simp] theorem State.sendVector_waiters (s : State) (p v : Nat) : (s.sendVector p v).waiters = s.waiters := by
  unfold State.sendVector; dsimp only; repeat (first | rfl | split)
@[simp] theorem State.sendVector_stale (s : State) (p v : Nat) : (s.sendVector p v).stale = s.stale := by
  unfold State.sendVector; dsimp only; repeat (first | rfl | split)
@[simp] theorem State.sendVector_entries (s : State) (p v : Nat) : (s.sendVector p v).entries = s.entries := by
  unfold State.sendVector; dsimp only; repeat (first | rfl | split)
@[simp] theorem State.sendVector_buildSeqs (s : State) (p v : Nat) : (s.sendVector p v).buildSeqs = s.buildSeqs := by
  unfold State.sendVector; dsimp only; repeat (first | rfl | split)
@[simp] theorem State.sendVector_seqs (s : State) (p v : Nat) : (s.sendVector p v).seqs = s.seqs := by
  unfold State.sendVector; dsimp only; repeat (first | rfl | split)
@[simp] theorem State.sendVector_nextSeq (s : State) (p v : Nat) : (s.sendVector p v).nextSeq = s.nextSeq := by
  unfold State.sendVector; dsimp only; repeat (first | rfl | split)
@[simp] theorem State.sendVector_jobs (s : State) (p v : Nat) : (s.sendVector p v).jobs = s.jobs := by
  unfold State.sendVector; dsimp only; repeat (first | rfl | split)
@[simp] theorem State.sendVector_nextJob (s : State) (p v : Nat) : (s.sendVector p v).nextJob = s.nextJob := by
  unfold State.sendVector; dsimp only; repeat (first | rfl | split)
@[simp] theorem State.sendVector_held (s : State) (p v : Nat) : (s.sendVector p v).held = s.held := by
  unfold State.sendVector; dsimp only; repeat (first | rfl | split)
@[simp] theorem State.sendVector_hostReads (s : State) (p v : Nat) : (s.sendVector p v).hostReads = s.hostReads := by
  unfold State.sendVector; dsimp only; repeat (first | rfl | split)
@[simp] theorem State.sendVector_nextTag (s : State) (p v : Nat) : (s.sendVector p v).nextTag = s.nextTag := by
  unfold State.sendVector; dsimp only; repeat (first | rfl | split)
@[simp] theorem State.sendVector_own (s : State) (p v : Nat) : (s.sendVector p v).own = s.own := by
  unfold State.sendVector; dsimp only; repeat (first | rfl | split)
@[simp] theorem State.sendVector_ccx (s : State) (p v : Nat) : (s.sendVector p v).ccx = s.ccx := by
  unfold State.sendVector; dsimp only; repeat (first | rfl | split)
@[simp] theorem State.sendVector_fab (s : State) (p v : Nat) : (s.sendVector p v).fab = s.fab := by
  unfold State.sendVector; dsimp only; repeat (first | rfl | split)
@[simp] theorem State.sendVector_plt (s : State) (p v : Nat) : (s.sendVector p v).plt = s.plt := by
  unfold State.sendVector; dsimp only; repeat (first | rfl | split)
@[simp] theorem State.sendVector_store (s : State) (p v : Nat) : (s.sendVector p v).store = s.store := by
  unfold State.sendVector; dsimp only; repeat (first | rfl | split)
@[simp] theorem State.sendVector_rcv (s : State) (p v : Nat) : (s.sendVector p v).rcv = s.rcv := by
  unfold State.sendVector; dsimp only; repeat (first | rfl | split)
@[simp] theorem State.sendVector_loop (s : State) (p v : Nat) : (s.sendVector p v).loop = s.loop := by
  unfold State.sendVector; dsimp only; repeat (first | rfl | split)
@[simp] theorem State.sendVector_free (s : State) (p v : Nat) : (s.sendVector p v).free = s.free := by
  unfold State.sendVector; dsimp only; repeat (first | rfl | split)
@[simp] theorem State.sendVector_ord (s : State) (p v : Nat) : (s.sendVector p v).ord = s.ord := by
  unfold State.sendVector; dsimp only; repeat (first | rfl | split)

/-! ### `State.sendCtxVector` changes `ports`, `out` alone -/

@[simp] theorem State.sendCtxVector_pending (s : State) (n : Nat) : (s.sendCtxVector n).pending = s.pending := by
  unfold State.sendCtxVector; split
  · split <;> simp
  · rfl
@[simp] theorem State.sendCtxVector_mem (s : State) (n : Nat) : (s.sendCtxVector n).mem = s.mem := by
  unfold State.sendCtxVector; split
  · split <;> simp
  · rfl
@[simp] theorem State.sendCtxVector_heat (s : State) (n : Nat) : (s.sendCtxVector n).heat = s.heat := by
  unfold State.sendCtxVector; split
  · split <;> simp
  · rfl
@[simp] theorem State.sendCtxVector_wr (s : State) (n : Nat) : (s.sendCtxVector n).wr = s.wr := by
  unfold State.sendCtxVector; split
  · split <;> simp
  · rfl
@[simp] theorem State.sendCtxVector_part (s : State) (n : Nat) : (s.sendCtxVector n).part = s.part := by
  unfold State.sendCtxVector; split
  · split <;> simp
  · rfl
@[simp] theorem State.sendCtxVector_phase (s : State) (n : Nat) : (s.sendCtxVector n).phase = s.phase := by
  unfold State.sendCtxVector; split
  · split <;> simp
  · rfl
@[simp] theorem State.sendCtxVector_pins (s : State) (n : Nat) : (s.sendCtxVector n).pins = s.pins := by
  unfold State.sendCtxVector; split
  · split <;> simp
  · rfl
@[simp] theorem State.sendCtxVector_split (s : State) (n : Nat) : (s.sendCtxVector n).split = s.split := by
  unfold State.sendCtxVector; split
  · split <;> simp
  · rfl
@[simp] theorem State.sendCtxVector_cores (s : State) (n : Nat) : (s.sendCtxVector n).cores = s.cores := by
  unfold State.sendCtxVector; split
  · split <;> simp
  · rfl
@[simp] theorem State.sendCtxVector_exps (s : State) (n : Nat) : (s.sendCtxVector n).exps = s.exps := by
  unfold State.sendCtxVector; split
  · split <;> simp
  · rfl
@[simp] theorem State.sendCtxVector_sites (s : State) (n : Nat) : (s.sendCtxVector n).sites = s.sites := by
  unfold State.sendCtxVector; split
  · split <;> simp
  · rfl
@[simp] theorem State.sendCtxVector_pkgs (s : State) (n : Nat) : (s.sendCtxVector n).pkgs = s.pkgs := by
  unfold State.sendCtxVector; split
  · split <;> simp
  · rfl
@[simp] theorem State.sendCtxVector_retired (s : State) (n : Nat) : (s.sendCtxVector n).retired = s.retired := by
  unfold State.sendCtxVector; split
  · split <;> simp
  · rfl
@[simp] theorem State.sendCtxVector_maps (s : State) (n : Nat) : (s.sendCtxVector n).maps = s.maps := by
  unfold State.sendCtxVector; split
  · split <;> simp
  · rfl
@[simp] theorem State.sendCtxVector_nextMap (s : State) (n : Nat) : (s.sendCtxVector n).nextMap = s.nextMap := by
  unfold State.sendCtxVector; split
  · split <;> simp
  · rfl
@[simp] theorem State.sendCtxVector_unmaps (s : State) (n : Nat) : (s.sendCtxVector n).unmaps = s.unmaps := by
  unfold State.sendCtxVector; split
  · split <;> simp
  · rfl
@[simp] theorem State.sendCtxVector_pageMoves (s : State) (n : Nat) : (s.sendCtxVector n).pageMoves = s.pageMoves := by
  unfold State.sendCtxVector; split
  · split <;> simp
  · rfl
@[simp] theorem State.sendCtxVector_fwPages (s : State) (n : Nat) : (s.sendCtxVector n).fwPages = s.fwPages := by
  unfold State.sendCtxVector; split
  · split <;> simp
  · rfl
@[simp] theorem State.sendCtxVector_partitions (s : State) (n : Nat) : (s.sendCtxVector n).partitions = s.partitions := by
  unfold State.sendCtxVector; split
  · split <;> simp
  · rfl
@[simp] theorem State.sendCtxVector_partWait (s : State) (n : Nat) : (s.sendCtxVector n).partWait = s.partWait := by
  unfold State.sendCtxVector; split
  · split <;> simp
  · rfl
@[simp] theorem State.sendCtxVector_turns (s : State) (n : Nat) : (s.sendCtxVector n).turns = s.turns := by
  unfold State.sendCtxVector; split
  · split <;> simp
  · rfl
@[simp] theorem State.sendCtxVector_ctxs (s : State) (n : Nat) : (s.sendCtxVector n).ctxs = s.ctxs := by
  unfold State.sendCtxVector; split
  · split <;> simp
  · rfl
@[simp] theorem State.sendCtxVector_ctxEpochs (s : State) (n : Nat) : (s.sendCtxVector n).ctxEpochs = s.ctxEpochs := by
  unfold State.sendCtxVector; split
  · split <;> simp
  · rfl
@[simp] theorem State.sendCtxVector_waiters (s : State) (n : Nat) : (s.sendCtxVector n).waiters = s.waiters := by
  unfold State.sendCtxVector; split
  · split <;> simp
  · rfl
@[simp] theorem State.sendCtxVector_stale (s : State) (n : Nat) : (s.sendCtxVector n).stale = s.stale := by
  unfold State.sendCtxVector; split
  · split <;> simp
  · rfl
@[simp] theorem State.sendCtxVector_entries (s : State) (n : Nat) : (s.sendCtxVector n).entries = s.entries := by
  unfold State.sendCtxVector; split
  · split <;> simp
  · rfl
@[simp] theorem State.sendCtxVector_buildSeqs (s : State) (n : Nat) : (s.sendCtxVector n).buildSeqs = s.buildSeqs := by
  unfold State.sendCtxVector; split
  · split <;> simp
  · rfl
@[simp] theorem State.sendCtxVector_seqs (s : State) (n : Nat) : (s.sendCtxVector n).seqs = s.seqs := by
  unfold State.sendCtxVector; split
  · split <;> simp
  · rfl
@[simp] theorem State.sendCtxVector_nextSeq (s : State) (n : Nat) : (s.sendCtxVector n).nextSeq = s.nextSeq := by
  unfold State.sendCtxVector; split
  · split <;> simp
  · rfl
@[simp] theorem State.sendCtxVector_jobs (s : State) (n : Nat) : (s.sendCtxVector n).jobs = s.jobs := by
  unfold State.sendCtxVector; split
  · split <;> simp
  · rfl
@[simp] theorem State.sendCtxVector_nextJob (s : State) (n : Nat) : (s.sendCtxVector n).nextJob = s.nextJob := by
  unfold State.sendCtxVector; split
  · split <;> simp
  · rfl
@[simp] theorem State.sendCtxVector_held (s : State) (n : Nat) : (s.sendCtxVector n).held = s.held := by
  unfold State.sendCtxVector; split
  · split <;> simp
  · rfl
@[simp] theorem State.sendCtxVector_hostReads (s : State) (n : Nat) : (s.sendCtxVector n).hostReads = s.hostReads := by
  unfold State.sendCtxVector; split
  · split <;> simp
  · rfl
@[simp] theorem State.sendCtxVector_nextTag (s : State) (n : Nat) : (s.sendCtxVector n).nextTag = s.nextTag := by
  unfold State.sendCtxVector; split
  · split <;> simp
  · rfl
@[simp] theorem State.sendCtxVector_own (s : State) (n : Nat) : (s.sendCtxVector n).own = s.own := by
  unfold State.sendCtxVector; split
  · split <;> simp
  · rfl
@[simp] theorem State.sendCtxVector_ccx (s : State) (n : Nat) : (s.sendCtxVector n).ccx = s.ccx := by
  unfold State.sendCtxVector; split
  · split <;> simp
  · rfl
@[simp] theorem State.sendCtxVector_fab (s : State) (n : Nat) : (s.sendCtxVector n).fab = s.fab := by
  unfold State.sendCtxVector; split
  · split <;> simp
  · rfl
@[simp] theorem State.sendCtxVector_plt (s : State) (n : Nat) : (s.sendCtxVector n).plt = s.plt := by
  unfold State.sendCtxVector; split
  · split <;> simp
  · rfl
@[simp] theorem State.sendCtxVector_store (s : State) (n : Nat) : (s.sendCtxVector n).store = s.store := by
  unfold State.sendCtxVector; split
  · split <;> simp
  · rfl
@[simp] theorem State.sendCtxVector_rcv (s : State) (n : Nat) : (s.sendCtxVector n).rcv = s.rcv := by
  unfold State.sendCtxVector; split
  · split <;> simp
  · rfl
@[simp] theorem State.sendCtxVector_loop (s : State) (n : Nat) : (s.sendCtxVector n).loop = s.loop := by
  unfold State.sendCtxVector; split
  · split <;> simp
  · rfl
@[simp] theorem State.sendCtxVector_free (s : State) (n : Nat) : (s.sendCtxVector n).free = s.free := by
  unfold State.sendCtxVector; split
  · split <;> simp
  · rfl
@[simp] theorem State.sendCtxVector_ord (s : State) (n : Nat) : (s.sendCtxVector n).ord = s.ord := by
  unfold State.sendCtxVector; split
  · split <;> simp
  · rfl

/-! ### `State.portEvent` changes `ports`, `out` alone -/

@[simp] theorem State.portEvent_pending (s : State) (p bit : Nat) : (s.portEvent p bit).pending = s.pending := by
  unfold State.portEvent; dsimp only; split; rfl; split <;> simp
@[simp] theorem State.portEvent_mem (s : State) (p bit : Nat) : (s.portEvent p bit).mem = s.mem := by
  unfold State.portEvent; dsimp only; split; rfl; split <;> simp
@[simp] theorem State.portEvent_heat (s : State) (p bit : Nat) : (s.portEvent p bit).heat = s.heat := by
  unfold State.portEvent; dsimp only; split; rfl; split <;> simp
@[simp] theorem State.portEvent_wr (s : State) (p bit : Nat) : (s.portEvent p bit).wr = s.wr := by
  unfold State.portEvent; dsimp only; split; rfl; split <;> simp
@[simp] theorem State.portEvent_part (s : State) (p bit : Nat) : (s.portEvent p bit).part = s.part := by
  unfold State.portEvent; dsimp only; split; rfl; split <;> simp
@[simp] theorem State.portEvent_phase (s : State) (p bit : Nat) : (s.portEvent p bit).phase = s.phase := by
  unfold State.portEvent; dsimp only; split; rfl; split <;> simp
@[simp] theorem State.portEvent_pins (s : State) (p bit : Nat) : (s.portEvent p bit).pins = s.pins := by
  unfold State.portEvent; dsimp only; split; rfl; split <;> simp
@[simp] theorem State.portEvent_split (s : State) (p bit : Nat) : (s.portEvent p bit).split = s.split := by
  unfold State.portEvent; dsimp only; split; rfl; split <;> simp
@[simp] theorem State.portEvent_cores (s : State) (p bit : Nat) : (s.portEvent p bit).cores = s.cores := by
  unfold State.portEvent; dsimp only; split; rfl; split <;> simp
@[simp] theorem State.portEvent_exps (s : State) (p bit : Nat) : (s.portEvent p bit).exps = s.exps := by
  unfold State.portEvent; dsimp only; split; rfl; split <;> simp
@[simp] theorem State.portEvent_sites (s : State) (p bit : Nat) : (s.portEvent p bit).sites = s.sites := by
  unfold State.portEvent; dsimp only; split; rfl; split <;> simp
@[simp] theorem State.portEvent_pkgs (s : State) (p bit : Nat) : (s.portEvent p bit).pkgs = s.pkgs := by
  unfold State.portEvent; dsimp only; split; rfl; split <;> simp
@[simp] theorem State.portEvent_retired (s : State) (p bit : Nat) : (s.portEvent p bit).retired = s.retired := by
  unfold State.portEvent; dsimp only; split; rfl; split <;> simp
@[simp] theorem State.portEvent_maps (s : State) (p bit : Nat) : (s.portEvent p bit).maps = s.maps := by
  unfold State.portEvent; dsimp only; split; rfl; split <;> simp
@[simp] theorem State.portEvent_nextMap (s : State) (p bit : Nat) : (s.portEvent p bit).nextMap = s.nextMap := by
  unfold State.portEvent; dsimp only; split; rfl; split <;> simp
@[simp] theorem State.portEvent_unmaps (s : State) (p bit : Nat) : (s.portEvent p bit).unmaps = s.unmaps := by
  unfold State.portEvent; dsimp only; split; rfl; split <;> simp
@[simp] theorem State.portEvent_pageMoves (s : State) (p bit : Nat) : (s.portEvent p bit).pageMoves = s.pageMoves := by
  unfold State.portEvent; dsimp only; split; rfl; split <;> simp
@[simp] theorem State.portEvent_fwPages (s : State) (p bit : Nat) : (s.portEvent p bit).fwPages = s.fwPages := by
  unfold State.portEvent; dsimp only; split; rfl; split <;> simp
@[simp] theorem State.portEvent_partitions (s : State) (p bit : Nat) : (s.portEvent p bit).partitions = s.partitions := by
  unfold State.portEvent; dsimp only; split; rfl; split <;> simp
@[simp] theorem State.portEvent_partWait (s : State) (p bit : Nat) : (s.portEvent p bit).partWait = s.partWait := by
  unfold State.portEvent; dsimp only; split; rfl; split <;> simp
@[simp] theorem State.portEvent_turns (s : State) (p bit : Nat) : (s.portEvent p bit).turns = s.turns := by
  unfold State.portEvent; dsimp only; split; rfl; split <;> simp
@[simp] theorem State.portEvent_ctxs (s : State) (p bit : Nat) : (s.portEvent p bit).ctxs = s.ctxs := by
  unfold State.portEvent; dsimp only; split; rfl; split <;> simp
@[simp] theorem State.portEvent_ctxEpochs (s : State) (p bit : Nat) : (s.portEvent p bit).ctxEpochs = s.ctxEpochs := by
  unfold State.portEvent; dsimp only; split; rfl; split <;> simp
@[simp] theorem State.portEvent_waiters (s : State) (p bit : Nat) : (s.portEvent p bit).waiters = s.waiters := by
  unfold State.portEvent; dsimp only; split; rfl; split <;> simp
@[simp] theorem State.portEvent_stale (s : State) (p bit : Nat) : (s.portEvent p bit).stale = s.stale := by
  unfold State.portEvent; dsimp only; split; rfl; split <;> simp
@[simp] theorem State.portEvent_entries (s : State) (p bit : Nat) : (s.portEvent p bit).entries = s.entries := by
  unfold State.portEvent; dsimp only; split; rfl; split <;> simp
@[simp] theorem State.portEvent_buildSeqs (s : State) (p bit : Nat) : (s.portEvent p bit).buildSeqs = s.buildSeqs := by
  unfold State.portEvent; dsimp only; split; rfl; split <;> simp
@[simp] theorem State.portEvent_seqs (s : State) (p bit : Nat) : (s.portEvent p bit).seqs = s.seqs := by
  unfold State.portEvent; dsimp only; split; rfl; split <;> simp
@[simp] theorem State.portEvent_nextSeq (s : State) (p bit : Nat) : (s.portEvent p bit).nextSeq = s.nextSeq := by
  unfold State.portEvent; dsimp only; split; rfl; split <;> simp
@[simp] theorem State.portEvent_jobs (s : State) (p bit : Nat) : (s.portEvent p bit).jobs = s.jobs := by
  unfold State.portEvent; dsimp only; split; rfl; split <;> simp
@[simp] theorem State.portEvent_nextJob (s : State) (p bit : Nat) : (s.portEvent p bit).nextJob = s.nextJob := by
  unfold State.portEvent; dsimp only; split; rfl; split <;> simp
@[simp] theorem State.portEvent_held (s : State) (p bit : Nat) : (s.portEvent p bit).held = s.held := by
  unfold State.portEvent; dsimp only; split; rfl; split <;> simp
@[simp] theorem State.portEvent_hostReads (s : State) (p bit : Nat) : (s.portEvent p bit).hostReads = s.hostReads := by
  unfold State.portEvent; dsimp only; split; rfl; split <;> simp
@[simp] theorem State.portEvent_nextTag (s : State) (p bit : Nat) : (s.portEvent p bit).nextTag = s.nextTag := by
  unfold State.portEvent; dsimp only; split; rfl; split <;> simp
@[simp] theorem State.portEvent_own (s : State) (p bit : Nat) : (s.portEvent p bit).own = s.own := by
  unfold State.portEvent; dsimp only; split; rfl; split <;> simp
@[simp] theorem State.portEvent_ccx (s : State) (p bit : Nat) : (s.portEvent p bit).ccx = s.ccx := by
  unfold State.portEvent; dsimp only; split; rfl; split <;> simp
@[simp] theorem State.portEvent_fab (s : State) (p bit : Nat) : (s.portEvent p bit).fab = s.fab := by
  unfold State.portEvent; dsimp only; split; rfl; split <;> simp
@[simp] theorem State.portEvent_plt (s : State) (p bit : Nat) : (s.portEvent p bit).plt = s.plt := by
  unfold State.portEvent; dsimp only; split; rfl; split <;> simp
@[simp] theorem State.portEvent_store (s : State) (p bit : Nat) : (s.portEvent p bit).store = s.store := by
  unfold State.portEvent; dsimp only; split; rfl; split <;> simp
@[simp] theorem State.portEvent_rcv (s : State) (p bit : Nat) : (s.portEvent p bit).rcv = s.rcv := by
  unfold State.portEvent; dsimp only; split; rfl; split <;> simp
@[simp] theorem State.portEvent_loop (s : State) (p bit : Nat) : (s.portEvent p bit).loop = s.loop := by
  unfold State.portEvent; dsimp only; split; rfl; split <;> simp
@[simp] theorem State.portEvent_free (s : State) (p bit : Nat) : (s.portEvent p bit).free = s.free := by
  unfold State.portEvent; dsimp only; split; rfl; split <;> simp
@[simp] theorem State.portEvent_ord (s : State) (p bit : Nat) : (s.portEvent p bit).ord = s.ord := by
  unfold State.portEvent; dsimp only; split; rfl; split <;> simp

/-! ### `State.allEvent` changes `ports`, `out` alone -/

@[simp] theorem State.allEvent_pending (s : State) (bit : Nat) : (s.allEvent bit).pending = s.pending := by
  simp [State.allEvent, List.range, List.range.loop]
@[simp] theorem State.allEvent_mem (s : State) (bit : Nat) : (s.allEvent bit).mem = s.mem := by
  simp [State.allEvent, List.range, List.range.loop]
@[simp] theorem State.allEvent_heat (s : State) (bit : Nat) : (s.allEvent bit).heat = s.heat := by
  simp [State.allEvent, List.range, List.range.loop]
@[simp] theorem State.allEvent_wr (s : State) (bit : Nat) : (s.allEvent bit).wr = s.wr := by
  simp [State.allEvent, List.range, List.range.loop]
@[simp] theorem State.allEvent_part (s : State) (bit : Nat) : (s.allEvent bit).part = s.part := by
  simp [State.allEvent, List.range, List.range.loop]
@[simp] theorem State.allEvent_phase (s : State) (bit : Nat) : (s.allEvent bit).phase = s.phase := by
  simp [State.allEvent, List.range, List.range.loop]
@[simp] theorem State.allEvent_pins (s : State) (bit : Nat) : (s.allEvent bit).pins = s.pins := by
  simp [State.allEvent, List.range, List.range.loop]
@[simp] theorem State.allEvent_split (s : State) (bit : Nat) : (s.allEvent bit).split = s.split := by
  simp [State.allEvent, List.range, List.range.loop]
@[simp] theorem State.allEvent_cores (s : State) (bit : Nat) : (s.allEvent bit).cores = s.cores := by
  simp [State.allEvent, List.range, List.range.loop]
@[simp] theorem State.allEvent_exps (s : State) (bit : Nat) : (s.allEvent bit).exps = s.exps := by
  simp [State.allEvent, List.range, List.range.loop]
@[simp] theorem State.allEvent_sites (s : State) (bit : Nat) : (s.allEvent bit).sites = s.sites := by
  simp [State.allEvent, List.range, List.range.loop]
@[simp] theorem State.allEvent_pkgs (s : State) (bit : Nat) : (s.allEvent bit).pkgs = s.pkgs := by
  simp [State.allEvent, List.range, List.range.loop]
@[simp] theorem State.allEvent_retired (s : State) (bit : Nat) : (s.allEvent bit).retired = s.retired := by
  simp [State.allEvent, List.range, List.range.loop]
@[simp] theorem State.allEvent_maps (s : State) (bit : Nat) : (s.allEvent bit).maps = s.maps := by
  simp [State.allEvent, List.range, List.range.loop]
@[simp] theorem State.allEvent_nextMap (s : State) (bit : Nat) : (s.allEvent bit).nextMap = s.nextMap := by
  simp [State.allEvent, List.range, List.range.loop]
@[simp] theorem State.allEvent_unmaps (s : State) (bit : Nat) : (s.allEvent bit).unmaps = s.unmaps := by
  simp [State.allEvent, List.range, List.range.loop]
@[simp] theorem State.allEvent_pageMoves (s : State) (bit : Nat) : (s.allEvent bit).pageMoves = s.pageMoves := by
  simp [State.allEvent, List.range, List.range.loop]
@[simp] theorem State.allEvent_fwPages (s : State) (bit : Nat) : (s.allEvent bit).fwPages = s.fwPages := by
  simp [State.allEvent, List.range, List.range.loop]
@[simp] theorem State.allEvent_partitions (s : State) (bit : Nat) : (s.allEvent bit).partitions = s.partitions := by
  simp [State.allEvent, List.range, List.range.loop]
@[simp] theorem State.allEvent_partWait (s : State) (bit : Nat) : (s.allEvent bit).partWait = s.partWait := by
  simp [State.allEvent, List.range, List.range.loop]
@[simp] theorem State.allEvent_turns (s : State) (bit : Nat) : (s.allEvent bit).turns = s.turns := by
  simp [State.allEvent, List.range, List.range.loop]
@[simp] theorem State.allEvent_ctxs (s : State) (bit : Nat) : (s.allEvent bit).ctxs = s.ctxs := by
  simp [State.allEvent, List.range, List.range.loop]
@[simp] theorem State.allEvent_ctxEpochs (s : State) (bit : Nat) : (s.allEvent bit).ctxEpochs = s.ctxEpochs := by
  simp [State.allEvent, List.range, List.range.loop]
@[simp] theorem State.allEvent_waiters (s : State) (bit : Nat) : (s.allEvent bit).waiters = s.waiters := by
  simp [State.allEvent, List.range, List.range.loop]
@[simp] theorem State.allEvent_stale (s : State) (bit : Nat) : (s.allEvent bit).stale = s.stale := by
  simp [State.allEvent, List.range, List.range.loop]
@[simp] theorem State.allEvent_entries (s : State) (bit : Nat) : (s.allEvent bit).entries = s.entries := by
  simp [State.allEvent, List.range, List.range.loop]
@[simp] theorem State.allEvent_buildSeqs (s : State) (bit : Nat) : (s.allEvent bit).buildSeqs = s.buildSeqs := by
  simp [State.allEvent, List.range, List.range.loop]
@[simp] theorem State.allEvent_seqs (s : State) (bit : Nat) : (s.allEvent bit).seqs = s.seqs := by
  simp [State.allEvent, List.range, List.range.loop]
@[simp] theorem State.allEvent_nextSeq (s : State) (bit : Nat) : (s.allEvent bit).nextSeq = s.nextSeq := by
  simp [State.allEvent, List.range, List.range.loop]
@[simp] theorem State.allEvent_jobs (s : State) (bit : Nat) : (s.allEvent bit).jobs = s.jobs := by
  simp [State.allEvent, List.range, List.range.loop]
@[simp] theorem State.allEvent_nextJob (s : State) (bit : Nat) : (s.allEvent bit).nextJob = s.nextJob := by
  simp [State.allEvent, List.range, List.range.loop]
@[simp] theorem State.allEvent_held (s : State) (bit : Nat) : (s.allEvent bit).held = s.held := by
  simp [State.allEvent, List.range, List.range.loop]
@[simp] theorem State.allEvent_hostReads (s : State) (bit : Nat) : (s.allEvent bit).hostReads = s.hostReads := by
  simp [State.allEvent, List.range, List.range.loop]
@[simp] theorem State.allEvent_nextTag (s : State) (bit : Nat) : (s.allEvent bit).nextTag = s.nextTag := by
  simp [State.allEvent, List.range, List.range.loop]
@[simp] theorem State.allEvent_own (s : State) (bit : Nat) : (s.allEvent bit).own = s.own := by
  simp [State.allEvent, List.range, List.range.loop]
@[simp] theorem State.allEvent_ccx (s : State) (bit : Nat) : (s.allEvent bit).ccx = s.ccx := by
  simp [State.allEvent, List.range, List.range.loop]
@[simp] theorem State.allEvent_fab (s : State) (bit : Nat) : (s.allEvent bit).fab = s.fab := by
  simp [State.allEvent, List.range, List.range.loop]
@[simp] theorem State.allEvent_plt (s : State) (bit : Nat) : (s.allEvent bit).plt = s.plt := by
  simp [State.allEvent, List.range, List.range.loop]
@[simp] theorem State.allEvent_store (s : State) (bit : Nat) : (s.allEvent bit).store = s.store := by
  simp [State.allEvent, List.range, List.range.loop]
@[simp] theorem State.allEvent_rcv (s : State) (bit : Nat) : (s.allEvent bit).rcv = s.rcv := by
  simp [State.allEvent, List.range, List.range.loop]
@[simp] theorem State.allEvent_loop (s : State) (bit : Nat) : (s.allEvent bit).loop = s.loop := by
  simp [State.allEvent, List.range, List.range.loop]
@[simp] theorem State.allEvent_free (s : State) (bit : Nat) : (s.allEvent bit).free = s.free := by
  simp [State.allEvent, List.range, List.range.loop]
@[simp] theorem State.allEvent_ord (s : State) (bit : Nat) : (s.allEvent bit).ord = s.ord := by
  simp [State.allEvent, List.range, List.range.loop]

/-! ### `State.storeBytes` changes `wr` alone -/

@[simp] theorem State.storeBytes_pending (s : State) (a : Nat) (bs : Bytes) : (s.storeBytes a bs).pending = s.pending := by
  induction bs generalizing s a with
  | nil => rfl
  | cons b bs ih => rw [State.storeBytes, ih]; rfl
@[simp] theorem State.storeBytes_mem (s : State) (a : Nat) (bs : Bytes) : (s.storeBytes a bs).mem = s.mem := by
  induction bs generalizing s a with
  | nil => rfl
  | cons b bs ih => rw [State.storeBytes, ih]; rfl
@[simp] theorem State.storeBytes_heat (s : State) (a : Nat) (bs : Bytes) : (s.storeBytes a bs).heat = s.heat := by
  induction bs generalizing s a with
  | nil => rfl
  | cons b bs ih => rw [State.storeBytes, ih]; rfl
@[simp] theorem State.storeBytes_part (s : State) (a : Nat) (bs : Bytes) : (s.storeBytes a bs).part = s.part := by
  induction bs generalizing s a with
  | nil => rfl
  | cons b bs ih => rw [State.storeBytes, ih]; rfl
@[simp] theorem State.storeBytes_phase (s : State) (a : Nat) (bs : Bytes) : (s.storeBytes a bs).phase = s.phase := by
  induction bs generalizing s a with
  | nil => rfl
  | cons b bs ih => rw [State.storeBytes, ih]; rfl
@[simp] theorem State.storeBytes_pins (s : State) (a : Nat) (bs : Bytes) : (s.storeBytes a bs).pins = s.pins := by
  induction bs generalizing s a with
  | nil => rfl
  | cons b bs ih => rw [State.storeBytes, ih]; rfl
@[simp] theorem State.storeBytes_split (s : State) (a : Nat) (bs : Bytes) : (s.storeBytes a bs).split = s.split := by
  induction bs generalizing s a with
  | nil => rfl
  | cons b bs ih => rw [State.storeBytes, ih]; rfl
@[simp] theorem State.storeBytes_cores (s : State) (a : Nat) (bs : Bytes) : (s.storeBytes a bs).cores = s.cores := by
  induction bs generalizing s a with
  | nil => rfl
  | cons b bs ih => rw [State.storeBytes, ih]; rfl
@[simp] theorem State.storeBytes_exps (s : State) (a : Nat) (bs : Bytes) : (s.storeBytes a bs).exps = s.exps := by
  induction bs generalizing s a with
  | nil => rfl
  | cons b bs ih => rw [State.storeBytes, ih]; rfl
@[simp] theorem State.storeBytes_sites (s : State) (a : Nat) (bs : Bytes) : (s.storeBytes a bs).sites = s.sites := by
  induction bs generalizing s a with
  | nil => rfl
  | cons b bs ih => rw [State.storeBytes, ih]; rfl
@[simp] theorem State.storeBytes_pkgs (s : State) (a : Nat) (bs : Bytes) : (s.storeBytes a bs).pkgs = s.pkgs := by
  induction bs generalizing s a with
  | nil => rfl
  | cons b bs ih => rw [State.storeBytes, ih]; rfl
@[simp] theorem State.storeBytes_retired (s : State) (a : Nat) (bs : Bytes) : (s.storeBytes a bs).retired = s.retired := by
  induction bs generalizing s a with
  | nil => rfl
  | cons b bs ih => rw [State.storeBytes, ih]; rfl
@[simp] theorem State.storeBytes_maps (s : State) (a : Nat) (bs : Bytes) : (s.storeBytes a bs).maps = s.maps := by
  induction bs generalizing s a with
  | nil => rfl
  | cons b bs ih => rw [State.storeBytes, ih]; rfl
@[simp] theorem State.storeBytes_nextMap (s : State) (a : Nat) (bs : Bytes) : (s.storeBytes a bs).nextMap = s.nextMap := by
  induction bs generalizing s a with
  | nil => rfl
  | cons b bs ih => rw [State.storeBytes, ih]; rfl
@[simp] theorem State.storeBytes_unmaps (s : State) (a : Nat) (bs : Bytes) : (s.storeBytes a bs).unmaps = s.unmaps := by
  induction bs generalizing s a with
  | nil => rfl
  | cons b bs ih => rw [State.storeBytes, ih]; rfl
@[simp] theorem State.storeBytes_pageMoves (s : State) (a : Nat) (bs : Bytes) : (s.storeBytes a bs).pageMoves = s.pageMoves := by
  induction bs generalizing s a with
  | nil => rfl
  | cons b bs ih => rw [State.storeBytes, ih]; rfl
@[simp] theorem State.storeBytes_fwPages (s : State) (a : Nat) (bs : Bytes) : (s.storeBytes a bs).fwPages = s.fwPages := by
  induction bs generalizing s a with
  | nil => rfl
  | cons b bs ih => rw [State.storeBytes, ih]; rfl
@[simp] theorem State.storeBytes_partitions (s : State) (a : Nat) (bs : Bytes) : (s.storeBytes a bs).partitions = s.partitions := by
  induction bs generalizing s a with
  | nil => rfl
  | cons b bs ih => rw [State.storeBytes, ih]; rfl
@[simp] theorem State.storeBytes_partWait (s : State) (a : Nat) (bs : Bytes) : (s.storeBytes a bs).partWait = s.partWait := by
  induction bs generalizing s a with
  | nil => rfl
  | cons b bs ih => rw [State.storeBytes, ih]; rfl
@[simp] theorem State.storeBytes_turns (s : State) (a : Nat) (bs : Bytes) : (s.storeBytes a bs).turns = s.turns := by
  induction bs generalizing s a with
  | nil => rfl
  | cons b bs ih => rw [State.storeBytes, ih]; rfl
@[simp] theorem State.storeBytes_ctxs (s : State) (a : Nat) (bs : Bytes) : (s.storeBytes a bs).ctxs = s.ctxs := by
  induction bs generalizing s a with
  | nil => rfl
  | cons b bs ih => rw [State.storeBytes, ih]; rfl
@[simp] theorem State.storeBytes_ctxEpochs (s : State) (a : Nat) (bs : Bytes) : (s.storeBytes a bs).ctxEpochs = s.ctxEpochs := by
  induction bs generalizing s a with
  | nil => rfl
  | cons b bs ih => rw [State.storeBytes, ih]; rfl
@[simp] theorem State.storeBytes_waiters (s : State) (a : Nat) (bs : Bytes) : (s.storeBytes a bs).waiters = s.waiters := by
  induction bs generalizing s a with
  | nil => rfl
  | cons b bs ih => rw [State.storeBytes, ih]; rfl
@[simp] theorem State.storeBytes_stale (s : State) (a : Nat) (bs : Bytes) : (s.storeBytes a bs).stale = s.stale := by
  induction bs generalizing s a with
  | nil => rfl
  | cons b bs ih => rw [State.storeBytes, ih]; rfl
@[simp] theorem State.storeBytes_entries (s : State) (a : Nat) (bs : Bytes) : (s.storeBytes a bs).entries = s.entries := by
  induction bs generalizing s a with
  | nil => rfl
  | cons b bs ih => rw [State.storeBytes, ih]; rfl
@[simp] theorem State.storeBytes_buildSeqs (s : State) (a : Nat) (bs : Bytes) : (s.storeBytes a bs).buildSeqs = s.buildSeqs := by
  induction bs generalizing s a with
  | nil => rfl
  | cons b bs ih => rw [State.storeBytes, ih]; rfl
@[simp] theorem State.storeBytes_seqs (s : State) (a : Nat) (bs : Bytes) : (s.storeBytes a bs).seqs = s.seqs := by
  induction bs generalizing s a with
  | nil => rfl
  | cons b bs ih => rw [State.storeBytes, ih]; rfl
@[simp] theorem State.storeBytes_nextSeq (s : State) (a : Nat) (bs : Bytes) : (s.storeBytes a bs).nextSeq = s.nextSeq := by
  induction bs generalizing s a with
  | nil => rfl
  | cons b bs ih => rw [State.storeBytes, ih]; rfl
@[simp] theorem State.storeBytes_jobs (s : State) (a : Nat) (bs : Bytes) : (s.storeBytes a bs).jobs = s.jobs := by
  induction bs generalizing s a with
  | nil => rfl
  | cons b bs ih => rw [State.storeBytes, ih]; rfl
@[simp] theorem State.storeBytes_nextJob (s : State) (a : Nat) (bs : Bytes) : (s.storeBytes a bs).nextJob = s.nextJob := by
  induction bs generalizing s a with
  | nil => rfl
  | cons b bs ih => rw [State.storeBytes, ih]; rfl
@[simp] theorem State.storeBytes_held (s : State) (a : Nat) (bs : Bytes) : (s.storeBytes a bs).held = s.held := by
  induction bs generalizing s a with
  | nil => rfl
  | cons b bs ih => rw [State.storeBytes, ih]; rfl
@[simp] theorem State.storeBytes_hostReads (s : State) (a : Nat) (bs : Bytes) : (s.storeBytes a bs).hostReads = s.hostReads := by
  induction bs generalizing s a with
  | nil => rfl
  | cons b bs ih => rw [State.storeBytes, ih]; rfl
@[simp] theorem State.storeBytes_nextTag (s : State) (a : Nat) (bs : Bytes) : (s.storeBytes a bs).nextTag = s.nextTag := by
  induction bs generalizing s a with
  | nil => rfl
  | cons b bs ih => rw [State.storeBytes, ih]; rfl
@[simp] theorem State.storeBytes_ports (s : State) (a : Nat) (bs : Bytes) : (s.storeBytes a bs).ports = s.ports := by
  induction bs generalizing s a with
  | nil => rfl
  | cons b bs ih => rw [State.storeBytes, ih]; rfl
@[simp] theorem State.storeBytes_own (s : State) (a : Nat) (bs : Bytes) : (s.storeBytes a bs).own = s.own := by
  induction bs generalizing s a with
  | nil => rfl
  | cons b bs ih => rw [State.storeBytes, ih]; rfl
@[simp] theorem State.storeBytes_ccx (s : State) (a : Nat) (bs : Bytes) : (s.storeBytes a bs).ccx = s.ccx := by
  induction bs generalizing s a with
  | nil => rfl
  | cons b bs ih => rw [State.storeBytes, ih]; rfl
@[simp] theorem State.storeBytes_fab (s : State) (a : Nat) (bs : Bytes) : (s.storeBytes a bs).fab = s.fab := by
  induction bs generalizing s a with
  | nil => rfl
  | cons b bs ih => rw [State.storeBytes, ih]; rfl
@[simp] theorem State.storeBytes_plt (s : State) (a : Nat) (bs : Bytes) : (s.storeBytes a bs).plt = s.plt := by
  induction bs generalizing s a with
  | nil => rfl
  | cons b bs ih => rw [State.storeBytes, ih]; rfl
@[simp] theorem State.storeBytes_store (s : State) (a : Nat) (bs : Bytes) : (s.storeBytes a bs).store = s.store := by
  induction bs generalizing s a with
  | nil => rfl
  | cons b bs ih => rw [State.storeBytes, ih]; rfl
@[simp] theorem State.storeBytes_rcv (s : State) (a : Nat) (bs : Bytes) : (s.storeBytes a bs).rcv = s.rcv := by
  induction bs generalizing s a with
  | nil => rfl
  | cons b bs ih => rw [State.storeBytes, ih]; rfl
@[simp] theorem State.storeBytes_loop (s : State) (a : Nat) (bs : Bytes) : (s.storeBytes a bs).loop = s.loop := by
  induction bs generalizing s a with
  | nil => rfl
  | cons b bs ih => rw [State.storeBytes, ih]; rfl
@[simp] theorem State.storeBytes_out (s : State) (a : Nat) (bs : Bytes) : (s.storeBytes a bs).out = s.out := by
  induction bs generalizing s a with
  | nil => rfl
  | cons b bs ih => rw [State.storeBytes, ih]; rfl
@[simp] theorem State.storeBytes_free (s : State) (a : Nat) (bs : Bytes) : (s.storeBytes a bs).free = s.free := by
  induction bs generalizing s a with
  | nil => rfl
  | cons b bs ih => rw [State.storeBytes, ih]; rfl
@[simp] theorem State.storeBytes_ord (s : State) (a : Nat) (bs : Bytes) : (s.storeBytes a bs).ord = s.ord := by
  induction bs generalizing s a with
  | nil => rfl
  | cons b bs ih => rw [State.storeBytes, ih]; rfl

/-! ### `State.vstore` changes `wr` alone -/

@[simp] theorem State.vstore_pending (s : State) (c a : Nat) (bs : Bytes) : (s.vstore c a bs).pending = s.pending := by
  induction bs generalizing s a with
  | nil => rfl
  | cons b bs ih => rw [State.vstore, ih]; rfl
@[simp] theorem State.vstore_mem (s : State) (c a : Nat) (bs : Bytes) : (s.vstore c a bs).mem = s.mem := by
  induction bs generalizing s a with
  | nil => rfl
  | cons b bs ih => rw [State.vstore, ih]; rfl
@[simp] theorem State.vstore_heat (s : State) (c a : Nat) (bs : Bytes) : (s.vstore c a bs).heat = s.heat := by
  induction bs generalizing s a with
  | nil => rfl
  | cons b bs ih => rw [State.vstore, ih]; rfl
@[simp] theorem State.vstore_part (s : State) (c a : Nat) (bs : Bytes) : (s.vstore c a bs).part = s.part := by
  induction bs generalizing s a with
  | nil => rfl
  | cons b bs ih => rw [State.vstore, ih]; rfl
@[simp] theorem State.vstore_phase (s : State) (c a : Nat) (bs : Bytes) : (s.vstore c a bs).phase = s.phase := by
  induction bs generalizing s a with
  | nil => rfl
  | cons b bs ih => rw [State.vstore, ih]; rfl
@[simp] theorem State.vstore_pins (s : State) (c a : Nat) (bs : Bytes) : (s.vstore c a bs).pins = s.pins := by
  induction bs generalizing s a with
  | nil => rfl
  | cons b bs ih => rw [State.vstore, ih]; rfl
@[simp] theorem State.vstore_split (s : State) (c a : Nat) (bs : Bytes) : (s.vstore c a bs).split = s.split := by
  induction bs generalizing s a with
  | nil => rfl
  | cons b bs ih => rw [State.vstore, ih]; rfl
@[simp] theorem State.vstore_cores (s : State) (c a : Nat) (bs : Bytes) : (s.vstore c a bs).cores = s.cores := by
  induction bs generalizing s a with
  | nil => rfl
  | cons b bs ih => rw [State.vstore, ih]; rfl
@[simp] theorem State.vstore_exps (s : State) (c a : Nat) (bs : Bytes) : (s.vstore c a bs).exps = s.exps := by
  induction bs generalizing s a with
  | nil => rfl
  | cons b bs ih => rw [State.vstore, ih]; rfl
@[simp] theorem State.vstore_sites (s : State) (c a : Nat) (bs : Bytes) : (s.vstore c a bs).sites = s.sites := by
  induction bs generalizing s a with
  | nil => rfl
  | cons b bs ih => rw [State.vstore, ih]; rfl
@[simp] theorem State.vstore_pkgs (s : State) (c a : Nat) (bs : Bytes) : (s.vstore c a bs).pkgs = s.pkgs := by
  induction bs generalizing s a with
  | nil => rfl
  | cons b bs ih => rw [State.vstore, ih]; rfl
@[simp] theorem State.vstore_retired (s : State) (c a : Nat) (bs : Bytes) : (s.vstore c a bs).retired = s.retired := by
  induction bs generalizing s a with
  | nil => rfl
  | cons b bs ih => rw [State.vstore, ih]; rfl
@[simp] theorem State.vstore_maps (s : State) (c a : Nat) (bs : Bytes) : (s.vstore c a bs).maps = s.maps := by
  induction bs generalizing s a with
  | nil => rfl
  | cons b bs ih => rw [State.vstore, ih]; rfl
@[simp] theorem State.vstore_nextMap (s : State) (c a : Nat) (bs : Bytes) : (s.vstore c a bs).nextMap = s.nextMap := by
  induction bs generalizing s a with
  | nil => rfl
  | cons b bs ih => rw [State.vstore, ih]; rfl
@[simp] theorem State.vstore_unmaps (s : State) (c a : Nat) (bs : Bytes) : (s.vstore c a bs).unmaps = s.unmaps := by
  induction bs generalizing s a with
  | nil => rfl
  | cons b bs ih => rw [State.vstore, ih]; rfl
@[simp] theorem State.vstore_pageMoves (s : State) (c a : Nat) (bs : Bytes) : (s.vstore c a bs).pageMoves = s.pageMoves := by
  induction bs generalizing s a with
  | nil => rfl
  | cons b bs ih => rw [State.vstore, ih]; rfl
@[simp] theorem State.vstore_fwPages (s : State) (c a : Nat) (bs : Bytes) : (s.vstore c a bs).fwPages = s.fwPages := by
  induction bs generalizing s a with
  | nil => rfl
  | cons b bs ih => rw [State.vstore, ih]; rfl
@[simp] theorem State.vstore_partitions (s : State) (c a : Nat) (bs : Bytes) : (s.vstore c a bs).partitions = s.partitions := by
  induction bs generalizing s a with
  | nil => rfl
  | cons b bs ih => rw [State.vstore, ih]; rfl
@[simp] theorem State.vstore_partWait (s : State) (c a : Nat) (bs : Bytes) : (s.vstore c a bs).partWait = s.partWait := by
  induction bs generalizing s a with
  | nil => rfl
  | cons b bs ih => rw [State.vstore, ih]; rfl
@[simp] theorem State.vstore_turns (s : State) (c a : Nat) (bs : Bytes) : (s.vstore c a bs).turns = s.turns := by
  induction bs generalizing s a with
  | nil => rfl
  | cons b bs ih => rw [State.vstore, ih]; rfl
@[simp] theorem State.vstore_ctxs (s : State) (c a : Nat) (bs : Bytes) : (s.vstore c a bs).ctxs = s.ctxs := by
  induction bs generalizing s a with
  | nil => rfl
  | cons b bs ih => rw [State.vstore, ih]; rfl
@[simp] theorem State.vstore_ctxEpochs (s : State) (c a : Nat) (bs : Bytes) : (s.vstore c a bs).ctxEpochs = s.ctxEpochs := by
  induction bs generalizing s a with
  | nil => rfl
  | cons b bs ih => rw [State.vstore, ih]; rfl
@[simp] theorem State.vstore_waiters (s : State) (c a : Nat) (bs : Bytes) : (s.vstore c a bs).waiters = s.waiters := by
  induction bs generalizing s a with
  | nil => rfl
  | cons b bs ih => rw [State.vstore, ih]; rfl
@[simp] theorem State.vstore_stale (s : State) (c a : Nat) (bs : Bytes) : (s.vstore c a bs).stale = s.stale := by
  induction bs generalizing s a with
  | nil => rfl
  | cons b bs ih => rw [State.vstore, ih]; rfl
@[simp] theorem State.vstore_entries (s : State) (c a : Nat) (bs : Bytes) : (s.vstore c a bs).entries = s.entries := by
  induction bs generalizing s a with
  | nil => rfl
  | cons b bs ih => rw [State.vstore, ih]; rfl
@[simp] theorem State.vstore_buildSeqs (s : State) (c a : Nat) (bs : Bytes) : (s.vstore c a bs).buildSeqs = s.buildSeqs := by
  induction bs generalizing s a with
  | nil => rfl
  | cons b bs ih => rw [State.vstore, ih]; rfl
@[simp] theorem State.vstore_seqs (s : State) (c a : Nat) (bs : Bytes) : (s.vstore c a bs).seqs = s.seqs := by
  induction bs generalizing s a with
  | nil => rfl
  | cons b bs ih => rw [State.vstore, ih]; rfl
@[simp] theorem State.vstore_nextSeq (s : State) (c a : Nat) (bs : Bytes) : (s.vstore c a bs).nextSeq = s.nextSeq := by
  induction bs generalizing s a with
  | nil => rfl
  | cons b bs ih => rw [State.vstore, ih]; rfl
@[simp] theorem State.vstore_jobs (s : State) (c a : Nat) (bs : Bytes) : (s.vstore c a bs).jobs = s.jobs := by
  induction bs generalizing s a with
  | nil => rfl
  | cons b bs ih => rw [State.vstore, ih]; rfl
@[simp] theorem State.vstore_nextJob (s : State) (c a : Nat) (bs : Bytes) : (s.vstore c a bs).nextJob = s.nextJob := by
  induction bs generalizing s a with
  | nil => rfl
  | cons b bs ih => rw [State.vstore, ih]; rfl
@[simp] theorem State.vstore_held (s : State) (c a : Nat) (bs : Bytes) : (s.vstore c a bs).held = s.held := by
  induction bs generalizing s a with
  | nil => rfl
  | cons b bs ih => rw [State.vstore, ih]; rfl
@[simp] theorem State.vstore_hostReads (s : State) (c a : Nat) (bs : Bytes) : (s.vstore c a bs).hostReads = s.hostReads := by
  induction bs generalizing s a with
  | nil => rfl
  | cons b bs ih => rw [State.vstore, ih]; rfl
@[simp] theorem State.vstore_nextTag (s : State) (c a : Nat) (bs : Bytes) : (s.vstore c a bs).nextTag = s.nextTag := by
  induction bs generalizing s a with
  | nil => rfl
  | cons b bs ih => rw [State.vstore, ih]; rfl
@[simp] theorem State.vstore_ports (s : State) (c a : Nat) (bs : Bytes) : (s.vstore c a bs).ports = s.ports := by
  induction bs generalizing s a with
  | nil => rfl
  | cons b bs ih => rw [State.vstore, ih]; rfl
@[simp] theorem State.vstore_own (s : State) (c a : Nat) (bs : Bytes) : (s.vstore c a bs).own = s.own := by
  induction bs generalizing s a with
  | nil => rfl
  | cons b bs ih => rw [State.vstore, ih]; rfl
@[simp] theorem State.vstore_ccx (s : State) (c a : Nat) (bs : Bytes) : (s.vstore c a bs).ccx = s.ccx := by
  induction bs generalizing s a with
  | nil => rfl
  | cons b bs ih => rw [State.vstore, ih]; rfl
@[simp] theorem State.vstore_fab (s : State) (c a : Nat) (bs : Bytes) : (s.vstore c a bs).fab = s.fab := by
  induction bs generalizing s a with
  | nil => rfl
  | cons b bs ih => rw [State.vstore, ih]; rfl
@[simp] theorem State.vstore_plt (s : State) (c a : Nat) (bs : Bytes) : (s.vstore c a bs).plt = s.plt := by
  induction bs generalizing s a with
  | nil => rfl
  | cons b bs ih => rw [State.vstore, ih]; rfl
@[simp] theorem State.vstore_store (s : State) (c a : Nat) (bs : Bytes) : (s.vstore c a bs).store = s.store := by
  induction bs generalizing s a with
  | nil => rfl
  | cons b bs ih => rw [State.vstore, ih]; rfl
@[simp] theorem State.vstore_rcv (s : State) (c a : Nat) (bs : Bytes) : (s.vstore c a bs).rcv = s.rcv := by
  induction bs generalizing s a with
  | nil => rfl
  | cons b bs ih => rw [State.vstore, ih]; rfl
@[simp] theorem State.vstore_loop (s : State) (c a : Nat) (bs : Bytes) : (s.vstore c a bs).loop = s.loop := by
  induction bs generalizing s a with
  | nil => rfl
  | cons b bs ih => rw [State.vstore, ih]; rfl
@[simp] theorem State.vstore_out (s : State) (c a : Nat) (bs : Bytes) : (s.vstore c a bs).out = s.out := by
  induction bs generalizing s a with
  | nil => rfl
  | cons b bs ih => rw [State.vstore, ih]; rfl
@[simp] theorem State.vstore_free (s : State) (c a : Nat) (bs : Bytes) : (s.vstore c a bs).free = s.free := by
  induction bs generalizing s a with
  | nil => rfl
  | cons b bs ih => rw [State.vstore, ih]; rfl
@[simp] theorem State.vstore_ord (s : State) (c a : Nat) (bs : Bytes) : (s.vstore c a bs).ord = s.ord := by
  induction bs generalizing s a with
  | nil => rfl
  | cons b bs ih => rw [State.vstore, ih]; rfl

/-! ### `State.scramble` changes `wr`, `free` alone -/

@[simp] theorem State.scramble_pending (s : State) (a n : Nat) : (s.scramble a n).pending = s.pending := by
  simp [State.scramble]
@[simp] theorem State.scramble_mem (s : State) (a n : Nat) : (s.scramble a n).mem = s.mem := by
  simp [State.scramble]
@[simp] theorem State.scramble_heat (s : State) (a n : Nat) : (s.scramble a n).heat = s.heat := by
  simp [State.scramble]
@[simp] theorem State.scramble_part (s : State) (a n : Nat) : (s.scramble a n).part = s.part := by
  simp [State.scramble]
@[simp] theorem State.scramble_phase (s : State) (a n : Nat) : (s.scramble a n).phase = s.phase := by
  simp [State.scramble]
@[simp] theorem State.scramble_pins (s : State) (a n : Nat) : (s.scramble a n).pins = s.pins := by
  simp [State.scramble]
@[simp] theorem State.scramble_split (s : State) (a n : Nat) : (s.scramble a n).split = s.split := by
  simp [State.scramble]
@[simp] theorem State.scramble_cores (s : State) (a n : Nat) : (s.scramble a n).cores = s.cores := by
  simp [State.scramble]
@[simp] theorem State.scramble_exps (s : State) (a n : Nat) : (s.scramble a n).exps = s.exps := by
  simp [State.scramble]
@[simp] theorem State.scramble_sites (s : State) (a n : Nat) : (s.scramble a n).sites = s.sites := by
  simp [State.scramble]
@[simp] theorem State.scramble_pkgs (s : State) (a n : Nat) : (s.scramble a n).pkgs = s.pkgs := by
  simp [State.scramble]
@[simp] theorem State.scramble_retired (s : State) (a n : Nat) : (s.scramble a n).retired = s.retired := by
  simp [State.scramble]
@[simp] theorem State.scramble_maps (s : State) (a n : Nat) : (s.scramble a n).maps = s.maps := by
  simp [State.scramble]
@[simp] theorem State.scramble_nextMap (s : State) (a n : Nat) : (s.scramble a n).nextMap = s.nextMap := by
  simp [State.scramble]
@[simp] theorem State.scramble_unmaps (s : State) (a n : Nat) : (s.scramble a n).unmaps = s.unmaps := by
  simp [State.scramble]
@[simp] theorem State.scramble_pageMoves (s : State) (a n : Nat) : (s.scramble a n).pageMoves = s.pageMoves := by
  simp [State.scramble]
@[simp] theorem State.scramble_fwPages (s : State) (a n : Nat) : (s.scramble a n).fwPages = s.fwPages := by
  simp [State.scramble]
@[simp] theorem State.scramble_partitions (s : State) (a n : Nat) : (s.scramble a n).partitions = s.partitions := by
  simp [State.scramble]
@[simp] theorem State.scramble_partWait (s : State) (a n : Nat) : (s.scramble a n).partWait = s.partWait := by
  simp [State.scramble]
@[simp] theorem State.scramble_turns (s : State) (a n : Nat) : (s.scramble a n).turns = s.turns := by
  simp [State.scramble]
@[simp] theorem State.scramble_ctxs (s : State) (a n : Nat) : (s.scramble a n).ctxs = s.ctxs := by
  simp [State.scramble]
@[simp] theorem State.scramble_ctxEpochs (s : State) (a n : Nat) : (s.scramble a n).ctxEpochs = s.ctxEpochs := by
  simp [State.scramble]
@[simp] theorem State.scramble_waiters (s : State) (a n : Nat) : (s.scramble a n).waiters = s.waiters := by
  simp [State.scramble]
@[simp] theorem State.scramble_stale (s : State) (a n : Nat) : (s.scramble a n).stale = s.stale := by
  simp [State.scramble]
@[simp] theorem State.scramble_entries (s : State) (a n : Nat) : (s.scramble a n).entries = s.entries := by
  simp [State.scramble]
@[simp] theorem State.scramble_buildSeqs (s : State) (a n : Nat) : (s.scramble a n).buildSeqs = s.buildSeqs := by
  simp [State.scramble]
@[simp] theorem State.scramble_seqs (s : State) (a n : Nat) : (s.scramble a n).seqs = s.seqs := by
  simp [State.scramble]
@[simp] theorem State.scramble_nextSeq (s : State) (a n : Nat) : (s.scramble a n).nextSeq = s.nextSeq := by
  simp [State.scramble]
@[simp] theorem State.scramble_jobs (s : State) (a n : Nat) : (s.scramble a n).jobs = s.jobs := by
  simp [State.scramble]
@[simp] theorem State.scramble_nextJob (s : State) (a n : Nat) : (s.scramble a n).nextJob = s.nextJob := by
  simp [State.scramble]
@[simp] theorem State.scramble_held (s : State) (a n : Nat) : (s.scramble a n).held = s.held := by
  simp [State.scramble]
@[simp] theorem State.scramble_hostReads (s : State) (a n : Nat) : (s.scramble a n).hostReads = s.hostReads := by
  simp [State.scramble]
@[simp] theorem State.scramble_nextTag (s : State) (a n : Nat) : (s.scramble a n).nextTag = s.nextTag := by
  simp [State.scramble]
@[simp] theorem State.scramble_ports (s : State) (a n : Nat) : (s.scramble a n).ports = s.ports := by
  simp [State.scramble]
@[simp] theorem State.scramble_own (s : State) (a n : Nat) : (s.scramble a n).own = s.own := by
  simp [State.scramble]
@[simp] theorem State.scramble_ccx (s : State) (a n : Nat) : (s.scramble a n).ccx = s.ccx := by
  simp [State.scramble]
@[simp] theorem State.scramble_fab (s : State) (a n : Nat) : (s.scramble a n).fab = s.fab := by
  simp [State.scramble]
@[simp] theorem State.scramble_plt (s : State) (a n : Nat) : (s.scramble a n).plt = s.plt := by
  simp [State.scramble]
@[simp] theorem State.scramble_store (s : State) (a n : Nat) : (s.scramble a n).store = s.store := by
  simp [State.scramble]
@[simp] theorem State.scramble_rcv (s : State) (a n : Nat) : (s.scramble a n).rcv = s.rcv := by
  simp [State.scramble]
@[simp] theorem State.scramble_loop (s : State) (a n : Nat) : (s.scramble a n).loop = s.loop := by
  simp [State.scramble]
@[simp] theorem State.scramble_out (s : State) (a n : Nat) : (s.scramble a n).out = s.out := by
  simp [State.scramble]
@[simp] theorem State.scramble_ord (s : State) (a n : Nat) : (s.scramble a n).ord = s.ord := by
  simp [State.scramble]

/-! ### `State.lapse` changes `ports`, `out`, `own` alone -/

@[simp] theorem State.lapse_pending (s : State) : (s.lapse).pending = s.pending := by
  simp [State.lapse]
@[simp] theorem State.lapse_mem (s : State) : (s.lapse).mem = s.mem := by
  simp [State.lapse]
@[simp] theorem State.lapse_heat (s : State) : (s.lapse).heat = s.heat := by
  simp [State.lapse]
@[simp] theorem State.lapse_wr (s : State) : (s.lapse).wr = s.wr := by
  simp [State.lapse]
@[simp] theorem State.lapse_part (s : State) : (s.lapse).part = s.part := by
  simp [State.lapse]
@[simp] theorem State.lapse_phase (s : State) : (s.lapse).phase = s.phase := by
  simp [State.lapse]
@[simp] theorem State.lapse_pins (s : State) : (s.lapse).pins = s.pins := by
  simp [State.lapse]
@[simp] theorem State.lapse_split (s : State) : (s.lapse).split = s.split := by
  simp [State.lapse]
@[simp] theorem State.lapse_cores (s : State) : (s.lapse).cores = s.cores := by
  simp [State.lapse]
@[simp] theorem State.lapse_exps (s : State) : (s.lapse).exps = s.exps := by
  simp [State.lapse]
@[simp] theorem State.lapse_sites (s : State) : (s.lapse).sites = s.sites := by
  simp [State.lapse]
@[simp] theorem State.lapse_pkgs (s : State) : (s.lapse).pkgs = s.pkgs := by
  simp [State.lapse]
@[simp] theorem State.lapse_retired (s : State) : (s.lapse).retired = s.retired := by
  simp [State.lapse]
@[simp] theorem State.lapse_maps (s : State) : (s.lapse).maps = s.maps := by
  simp [State.lapse]
@[simp] theorem State.lapse_nextMap (s : State) : (s.lapse).nextMap = s.nextMap := by
  simp [State.lapse]
@[simp] theorem State.lapse_unmaps (s : State) : (s.lapse).unmaps = s.unmaps := by
  simp [State.lapse]
@[simp] theorem State.lapse_pageMoves (s : State) : (s.lapse).pageMoves = s.pageMoves := by
  simp [State.lapse]
@[simp] theorem State.lapse_fwPages (s : State) : (s.lapse).fwPages = s.fwPages := by
  simp [State.lapse]
@[simp] theorem State.lapse_partitions (s : State) : (s.lapse).partitions = s.partitions := by
  simp [State.lapse]
@[simp] theorem State.lapse_partWait (s : State) : (s.lapse).partWait = s.partWait := by
  simp [State.lapse]
@[simp] theorem State.lapse_turns (s : State) : (s.lapse).turns = s.turns := by
  simp [State.lapse]
@[simp] theorem State.lapse_ctxs (s : State) : (s.lapse).ctxs = s.ctxs := by
  simp [State.lapse]
@[simp] theorem State.lapse_ctxEpochs (s : State) : (s.lapse).ctxEpochs = s.ctxEpochs := by
  simp [State.lapse]
@[simp] theorem State.lapse_waiters (s : State) : (s.lapse).waiters = s.waiters := by
  simp [State.lapse]
@[simp] theorem State.lapse_stale (s : State) : (s.lapse).stale = s.stale := by
  simp [State.lapse]
@[simp] theorem State.lapse_entries (s : State) : (s.lapse).entries = s.entries := by
  simp [State.lapse]
@[simp] theorem State.lapse_buildSeqs (s : State) : (s.lapse).buildSeqs = s.buildSeqs := by
  simp [State.lapse]
@[simp] theorem State.lapse_seqs (s : State) : (s.lapse).seqs = s.seqs := by
  simp [State.lapse]
@[simp] theorem State.lapse_nextSeq (s : State) : (s.lapse).nextSeq = s.nextSeq := by
  simp [State.lapse]
@[simp] theorem State.lapse_jobs (s : State) : (s.lapse).jobs = s.jobs := by
  simp [State.lapse]
@[simp] theorem State.lapse_nextJob (s : State) : (s.lapse).nextJob = s.nextJob := by
  simp [State.lapse]
@[simp] theorem State.lapse_held (s : State) : (s.lapse).held = s.held := by
  simp [State.lapse]
@[simp] theorem State.lapse_hostReads (s : State) : (s.lapse).hostReads = s.hostReads := by
  simp [State.lapse]
@[simp] theorem State.lapse_nextTag (s : State) : (s.lapse).nextTag = s.nextTag := by
  simp [State.lapse]
@[simp] theorem State.lapse_ccx (s : State) : (s.lapse).ccx = s.ccx := by
  simp [State.lapse]
@[simp] theorem State.lapse_fab (s : State) : (s.lapse).fab = s.fab := by
  simp [State.lapse]
@[simp] theorem State.lapse_plt (s : State) : (s.lapse).plt = s.plt := by
  simp [State.lapse]
@[simp] theorem State.lapse_store (s : State) : (s.lapse).store = s.store := by
  simp [State.lapse]
@[simp] theorem State.lapse_rcv (s : State) : (s.lapse).rcv = s.rcv := by
  simp [State.lapse]
@[simp] theorem State.lapse_loop (s : State) : (s.lapse).loop = s.loop := by
  simp [State.lapse]
@[simp] theorem State.lapse_free (s : State) : (s.lapse).free = s.free := by
  simp [State.lapse]
@[simp] theorem State.lapse_ord (s : State) : (s.lapse).ord = s.ord := by
  simp [State.lapse]

/-! ### `State.writeReply` changes `ports`, `out` alone -/

@[simp] theorem State.writeReply_pending (s : State) (m : Msg) (c : Code) (b : Bytes) : (s.writeReply m c b).pending = s.pending := by
  unfold State.writeReply; dsimp only; split; rfl; split; rfl; split <;> simp
@[simp] theorem State.writeReply_mem (s : State) (m : Msg) (c : Code) (b : Bytes) : (s.writeReply m c b).mem = s.mem := by
  unfold State.writeReply; dsimp only; split; rfl; split; rfl; split <;> simp
@[simp] theorem State.writeReply_heat (s : State) (m : Msg) (c : Code) (b : Bytes) : (s.writeReply m c b).heat = s.heat := by
  unfold State.writeReply; dsimp only; split; rfl; split; rfl; split <;> simp
@[simp] theorem State.writeReply_wr (s : State) (m : Msg) (c : Code) (b : Bytes) : (s.writeReply m c b).wr = s.wr := by
  unfold State.writeReply; dsimp only; split; rfl; split; rfl; split <;> simp
@[simp] theorem State.writeReply_part (s : State) (m : Msg) (c : Code) (b : Bytes) : (s.writeReply m c b).part = s.part := by
  unfold State.writeReply; dsimp only; split; rfl; split; rfl; split <;> simp
@[simp] theorem State.writeReply_phase (s : State) (m : Msg) (c : Code) (b : Bytes) : (s.writeReply m c b).phase = s.phase := by
  unfold State.writeReply; dsimp only; split; rfl; split; rfl; split <;> simp
@[simp] theorem State.writeReply_pins (s : State) (m : Msg) (c : Code) (b : Bytes) : (s.writeReply m c b).pins = s.pins := by
  unfold State.writeReply; dsimp only; split; rfl; split; rfl; split <;> simp
@[simp] theorem State.writeReply_split (s : State) (m : Msg) (c : Code) (b : Bytes) : (s.writeReply m c b).split = s.split := by
  unfold State.writeReply; dsimp only; split; rfl; split; rfl; split <;> simp
@[simp] theorem State.writeReply_cores (s : State) (m : Msg) (c : Code) (b : Bytes) : (s.writeReply m c b).cores = s.cores := by
  unfold State.writeReply; dsimp only; split; rfl; split; rfl; split <;> simp
@[simp] theorem State.writeReply_exps (s : State) (m : Msg) (c : Code) (b : Bytes) : (s.writeReply m c b).exps = s.exps := by
  unfold State.writeReply; dsimp only; split; rfl; split; rfl; split <;> simp
@[simp] theorem State.writeReply_sites (s : State) (m : Msg) (c : Code) (b : Bytes) : (s.writeReply m c b).sites = s.sites := by
  unfold State.writeReply; dsimp only; split; rfl; split; rfl; split <;> simp
@[simp] theorem State.writeReply_pkgs (s : State) (m : Msg) (c : Code) (b : Bytes) : (s.writeReply m c b).pkgs = s.pkgs := by
  unfold State.writeReply; dsimp only; split; rfl; split; rfl; split <;> simp
@[simp] theorem State.writeReply_retired (s : State) (m : Msg) (c : Code) (b : Bytes) : (s.writeReply m c b).retired = s.retired := by
  unfold State.writeReply; dsimp only; split; rfl; split; rfl; split <;> simp
@[simp] theorem State.writeReply_maps (s : State) (m : Msg) (c : Code) (b : Bytes) : (s.writeReply m c b).maps = s.maps := by
  unfold State.writeReply; dsimp only; split; rfl; split; rfl; split <;> simp
@[simp] theorem State.writeReply_nextMap (s : State) (m : Msg) (c : Code) (b : Bytes) : (s.writeReply m c b).nextMap = s.nextMap := by
  unfold State.writeReply; dsimp only; split; rfl; split; rfl; split <;> simp
@[simp] theorem State.writeReply_unmaps (s : State) (m : Msg) (c : Code) (b : Bytes) : (s.writeReply m c b).unmaps = s.unmaps := by
  unfold State.writeReply; dsimp only; split; rfl; split; rfl; split <;> simp
@[simp] theorem State.writeReply_pageMoves (s : State) (m : Msg) (c : Code) (b : Bytes) : (s.writeReply m c b).pageMoves = s.pageMoves := by
  unfold State.writeReply; dsimp only; split; rfl; split; rfl; split <;> simp
@[simp] theorem State.writeReply_fwPages (s : State) (m : Msg) (c : Code) (b : Bytes) : (s.writeReply m c b).fwPages = s.fwPages := by
  unfold State.writeReply; dsimp only; split; rfl; split; rfl; split <;> simp
@[simp] theorem State.writeReply_partitions (s : State) (m : Msg) (c : Code) (b : Bytes) : (s.writeReply m c b).partitions = s.partitions := by
  unfold State.writeReply; dsimp only; split; rfl; split; rfl; split <;> simp
@[simp] theorem State.writeReply_partWait (s : State) (m : Msg) (c : Code) (b : Bytes) : (s.writeReply m c b).partWait = s.partWait := by
  unfold State.writeReply; dsimp only; split; rfl; split; rfl; split <;> simp
@[simp] theorem State.writeReply_turns (s : State) (m : Msg) (c : Code) (b : Bytes) : (s.writeReply m c b).turns = s.turns := by
  unfold State.writeReply; dsimp only; split; rfl; split; rfl; split <;> simp
@[simp] theorem State.writeReply_ctxs (s : State) (m : Msg) (c : Code) (b : Bytes) : (s.writeReply m c b).ctxs = s.ctxs := by
  unfold State.writeReply; dsimp only; split; rfl; split; rfl; split <;> simp
@[simp] theorem State.writeReply_ctxEpochs (s : State) (m : Msg) (c : Code) (b : Bytes) : (s.writeReply m c b).ctxEpochs = s.ctxEpochs := by
  unfold State.writeReply; dsimp only; split; rfl; split; rfl; split <;> simp
@[simp] theorem State.writeReply_waiters (s : State) (m : Msg) (c : Code) (b : Bytes) : (s.writeReply m c b).waiters = s.waiters := by
  unfold State.writeReply; dsimp only; split; rfl; split; rfl; split <;> simp
@[simp] theorem State.writeReply_stale (s : State) (m : Msg) (c : Code) (b : Bytes) : (s.writeReply m c b).stale = s.stale := by
  unfold State.writeReply; dsimp only; split; rfl; split; rfl; split <;> simp
@[simp] theorem State.writeReply_entries (s : State) (m : Msg) (c : Code) (b : Bytes) : (s.writeReply m c b).entries = s.entries := by
  unfold State.writeReply; dsimp only; split; rfl; split; rfl; split <;> simp
@[simp] theorem State.writeReply_buildSeqs (s : State) (m : Msg) (c : Code) (b : Bytes) : (s.writeReply m c b).buildSeqs = s.buildSeqs := by
  unfold State.writeReply; dsimp only; split; rfl; split; rfl; split <;> simp
@[simp] theorem State.writeReply_seqs (s : State) (m : Msg) (c : Code) (b : Bytes) : (s.writeReply m c b).seqs = s.seqs := by
  unfold State.writeReply; dsimp only; split; rfl; split; rfl; split <;> simp
@[simp] theorem State.writeReply_nextSeq (s : State) (m : Msg) (c : Code) (b : Bytes) : (s.writeReply m c b).nextSeq = s.nextSeq := by
  unfold State.writeReply; dsimp only; split; rfl; split; rfl; split <;> simp
@[simp] theorem State.writeReply_jobs (s : State) (m : Msg) (c : Code) (b : Bytes) : (s.writeReply m c b).jobs = s.jobs := by
  unfold State.writeReply; dsimp only; split; rfl; split; rfl; split <;> simp
@[simp] theorem State.writeReply_nextJob (s : State) (m : Msg) (c : Code) (b : Bytes) : (s.writeReply m c b).nextJob = s.nextJob := by
  unfold State.writeReply; dsimp only; split; rfl; split; rfl; split <;> simp
@[simp] theorem State.writeReply_held (s : State) (m : Msg) (c : Code) (b : Bytes) : (s.writeReply m c b).held = s.held := by
  unfold State.writeReply; dsimp only; split; rfl; split; rfl; split <;> simp
@[simp] theorem State.writeReply_hostReads (s : State) (m : Msg) (c : Code) (b : Bytes) : (s.writeReply m c b).hostReads = s.hostReads := by
  unfold State.writeReply; dsimp only; split; rfl; split; rfl; split <;> simp
@[simp] theorem State.writeReply_nextTag (s : State) (m : Msg) (c : Code) (b : Bytes) : (s.writeReply m c b).nextTag = s.nextTag := by
  unfold State.writeReply; dsimp only; split; rfl; split; rfl; split <;> simp
@[simp] theorem State.writeReply_own (s : State) (m : Msg) (c : Code) (b : Bytes) : (s.writeReply m c b).own = s.own := by
  unfold State.writeReply; dsimp only; split; rfl; split; rfl; split <;> simp
@[simp] theorem State.writeReply_ccx (s : State) (m : Msg) (c : Code) (b : Bytes) : (s.writeReply m c b).ccx = s.ccx := by
  unfold State.writeReply; dsimp only; split; rfl; split; rfl; split <;> simp
@[simp] theorem State.writeReply_fab (s : State) (m : Msg) (c : Code) (b : Bytes) : (s.writeReply m c b).fab = s.fab := by
  unfold State.writeReply; dsimp only; split; rfl; split; rfl; split <;> simp
@[simp] theorem State.writeReply_plt (s : State) (m : Msg) (c : Code) (b : Bytes) : (s.writeReply m c b).plt = s.plt := by
  unfold State.writeReply; dsimp only; split; rfl; split; rfl; split <;> simp
@[simp] theorem State.writeReply_store (s : State) (m : Msg) (c : Code) (b : Bytes) : (s.writeReply m c b).store = s.store := by
  unfold State.writeReply; dsimp only; split; rfl; split; rfl; split <;> simp
@[simp] theorem State.writeReply_rcv (s : State) (m : Msg) (c : Code) (b : Bytes) : (s.writeReply m c b).rcv = s.rcv := by
  unfold State.writeReply; dsimp only; split; rfl; split; rfl; split <;> simp
@[simp] theorem State.writeReply_loop (s : State) (m : Msg) (c : Code) (b : Bytes) : (s.writeReply m c b).loop = s.loop := by
  unfold State.writeReply; dsimp only; split; rfl; split; rfl; split <;> simp
@[simp] theorem State.writeReply_free (s : State) (m : Msg) (c : Code) (b : Bytes) : (s.writeReply m c b).free = s.free := by
  unfold State.writeReply; dsimp only; split; rfl; split; rfl; split <;> simp
@[simp] theorem State.writeReply_ord (s : State) (m : Msg) (c : Code) (b : Bytes) : (s.writeReply m c b).ord = s.ord := by
  unfold State.writeReply; dsimp only; split; rfl; split; rfl; split <;> simp

/-! ### `State.replyWaiting` changes `ports`, `out`, `ccx` alone -/

@[simp] theorem State.replyWaiting_pending (s : State) (q : Nat) (c : Code) (b : Bytes) : (s.replyWaiting q c b).pending = s.pending := by
  unfold State.replyWaiting; split; rfl; split <;> simp
@[simp] theorem State.replyWaiting_mem (s : State) (q : Nat) (c : Code) (b : Bytes) : (s.replyWaiting q c b).mem = s.mem := by
  unfold State.replyWaiting; split; rfl; split <;> simp
@[simp] theorem State.replyWaiting_heat (s : State) (q : Nat) (c : Code) (b : Bytes) : (s.replyWaiting q c b).heat = s.heat := by
  unfold State.replyWaiting; split; rfl; split <;> simp
@[simp] theorem State.replyWaiting_wr (s : State) (q : Nat) (c : Code) (b : Bytes) : (s.replyWaiting q c b).wr = s.wr := by
  unfold State.replyWaiting; split; rfl; split <;> simp
@[simp] theorem State.replyWaiting_part (s : State) (q : Nat) (c : Code) (b : Bytes) : (s.replyWaiting q c b).part = s.part := by
  unfold State.replyWaiting; split; rfl; split <;> simp
@[simp] theorem State.replyWaiting_phase (s : State) (q : Nat) (c : Code) (b : Bytes) : (s.replyWaiting q c b).phase = s.phase := by
  unfold State.replyWaiting; split; rfl; split <;> simp
@[simp] theorem State.replyWaiting_pins (s : State) (q : Nat) (c : Code) (b : Bytes) : (s.replyWaiting q c b).pins = s.pins := by
  unfold State.replyWaiting; split; rfl; split <;> simp
@[simp] theorem State.replyWaiting_split (s : State) (q : Nat) (c : Code) (b : Bytes) : (s.replyWaiting q c b).split = s.split := by
  unfold State.replyWaiting; split; rfl; split <;> simp
@[simp] theorem State.replyWaiting_cores (s : State) (q : Nat) (c : Code) (b : Bytes) : (s.replyWaiting q c b).cores = s.cores := by
  unfold State.replyWaiting; split; rfl; split <;> simp
@[simp] theorem State.replyWaiting_exps (s : State) (q : Nat) (c : Code) (b : Bytes) : (s.replyWaiting q c b).exps = s.exps := by
  unfold State.replyWaiting; split; rfl; split <;> simp
@[simp] theorem State.replyWaiting_sites (s : State) (q : Nat) (c : Code) (b : Bytes) : (s.replyWaiting q c b).sites = s.sites := by
  unfold State.replyWaiting; split; rfl; split <;> simp
@[simp] theorem State.replyWaiting_pkgs (s : State) (q : Nat) (c : Code) (b : Bytes) : (s.replyWaiting q c b).pkgs = s.pkgs := by
  unfold State.replyWaiting; split; rfl; split <;> simp
@[simp] theorem State.replyWaiting_retired (s : State) (q : Nat) (c : Code) (b : Bytes) : (s.replyWaiting q c b).retired = s.retired := by
  unfold State.replyWaiting; split; rfl; split <;> simp
@[simp] theorem State.replyWaiting_maps (s : State) (q : Nat) (c : Code) (b : Bytes) : (s.replyWaiting q c b).maps = s.maps := by
  unfold State.replyWaiting; split; rfl; split <;> simp
@[simp] theorem State.replyWaiting_nextMap (s : State) (q : Nat) (c : Code) (b : Bytes) : (s.replyWaiting q c b).nextMap = s.nextMap := by
  unfold State.replyWaiting; split; rfl; split <;> simp
@[simp] theorem State.replyWaiting_unmaps (s : State) (q : Nat) (c : Code) (b : Bytes) : (s.replyWaiting q c b).unmaps = s.unmaps := by
  unfold State.replyWaiting; split; rfl; split <;> simp
@[simp] theorem State.replyWaiting_pageMoves (s : State) (q : Nat) (c : Code) (b : Bytes) : (s.replyWaiting q c b).pageMoves = s.pageMoves := by
  unfold State.replyWaiting; split; rfl; split <;> simp
@[simp] theorem State.replyWaiting_fwPages (s : State) (q : Nat) (c : Code) (b : Bytes) : (s.replyWaiting q c b).fwPages = s.fwPages := by
  unfold State.replyWaiting; split; rfl; split <;> simp
@[simp] theorem State.replyWaiting_partitions (s : State) (q : Nat) (c : Code) (b : Bytes) : (s.replyWaiting q c b).partitions = s.partitions := by
  unfold State.replyWaiting; split; rfl; split <;> simp
@[simp] theorem State.replyWaiting_partWait (s : State) (q : Nat) (c : Code) (b : Bytes) : (s.replyWaiting q c b).partWait = s.partWait := by
  unfold State.replyWaiting; split; rfl; split <;> simp
@[simp] theorem State.replyWaiting_turns (s : State) (q : Nat) (c : Code) (b : Bytes) : (s.replyWaiting q c b).turns = s.turns := by
  unfold State.replyWaiting; split; rfl; split <;> simp
@[simp] theorem State.replyWaiting_ctxs (s : State) (q : Nat) (c : Code) (b : Bytes) : (s.replyWaiting q c b).ctxs = s.ctxs := by
  unfold State.replyWaiting; split; rfl; split <;> simp
@[simp] theorem State.replyWaiting_ctxEpochs (s : State) (q : Nat) (c : Code) (b : Bytes) : (s.replyWaiting q c b).ctxEpochs = s.ctxEpochs := by
  unfold State.replyWaiting; split; rfl; split <;> simp
@[simp] theorem State.replyWaiting_waiters (s : State) (q : Nat) (c : Code) (b : Bytes) : (s.replyWaiting q c b).waiters = s.waiters := by
  unfold State.replyWaiting; split; rfl; split <;> simp
@[simp] theorem State.replyWaiting_stale (s : State) (q : Nat) (c : Code) (b : Bytes) : (s.replyWaiting q c b).stale = s.stale := by
  unfold State.replyWaiting; split; rfl; split <;> simp
@[simp] theorem State.replyWaiting_entries (s : State) (q : Nat) (c : Code) (b : Bytes) : (s.replyWaiting q c b).entries = s.entries := by
  unfold State.replyWaiting; split; rfl; split <;> simp
@[simp] theorem State.replyWaiting_buildSeqs (s : State) (q : Nat) (c : Code) (b : Bytes) : (s.replyWaiting q c b).buildSeqs = s.buildSeqs := by
  unfold State.replyWaiting; split; rfl; split <;> simp
@[simp] theorem State.replyWaiting_seqs (s : State) (q : Nat) (c : Code) (b : Bytes) : (s.replyWaiting q c b).seqs = s.seqs := by
  unfold State.replyWaiting; split; rfl; split <;> simp
@[simp] theorem State.replyWaiting_nextSeq (s : State) (q : Nat) (c : Code) (b : Bytes) : (s.replyWaiting q c b).nextSeq = s.nextSeq := by
  unfold State.replyWaiting; split; rfl; split <;> simp
@[simp] theorem State.replyWaiting_jobs (s : State) (q : Nat) (c : Code) (b : Bytes) : (s.replyWaiting q c b).jobs = s.jobs := by
  unfold State.replyWaiting; split; rfl; split <;> simp
@[simp] theorem State.replyWaiting_nextJob (s : State) (q : Nat) (c : Code) (b : Bytes) : (s.replyWaiting q c b).nextJob = s.nextJob := by
  unfold State.replyWaiting; split; rfl; split <;> simp
@[simp] theorem State.replyWaiting_held (s : State) (q : Nat) (c : Code) (b : Bytes) : (s.replyWaiting q c b).held = s.held := by
  unfold State.replyWaiting; split; rfl; split <;> simp
@[simp] theorem State.replyWaiting_hostReads (s : State) (q : Nat) (c : Code) (b : Bytes) : (s.replyWaiting q c b).hostReads = s.hostReads := by
  unfold State.replyWaiting; split; rfl; split <;> simp
@[simp] theorem State.replyWaiting_nextTag (s : State) (q : Nat) (c : Code) (b : Bytes) : (s.replyWaiting q c b).nextTag = s.nextTag := by
  unfold State.replyWaiting; split; rfl; split <;> simp
@[simp] theorem State.replyWaiting_own (s : State) (q : Nat) (c : Code) (b : Bytes) : (s.replyWaiting q c b).own = s.own := by
  unfold State.replyWaiting; split; rfl; split <;> simp
@[simp] theorem State.replyWaiting_fab (s : State) (q : Nat) (c : Code) (b : Bytes) : (s.replyWaiting q c b).fab = s.fab := by
  unfold State.replyWaiting; split; rfl; split <;> simp
@[simp] theorem State.replyWaiting_plt (s : State) (q : Nat) (c : Code) (b : Bytes) : (s.replyWaiting q c b).plt = s.plt := by
  unfold State.replyWaiting; split; rfl; split <;> simp
@[simp] theorem State.replyWaiting_store (s : State) (q : Nat) (c : Code) (b : Bytes) : (s.replyWaiting q c b).store = s.store := by
  unfold State.replyWaiting; split; rfl; split <;> simp
@[simp] theorem State.replyWaiting_rcv (s : State) (q : Nat) (c : Code) (b : Bytes) : (s.replyWaiting q c b).rcv = s.rcv := by
  unfold State.replyWaiting; split; rfl; split <;> simp
@[simp] theorem State.replyWaiting_loop (s : State) (q : Nat) (c : Code) (b : Bytes) : (s.replyWaiting q c b).loop = s.loop := by
  unfold State.replyWaiting; split; rfl; split <;> simp
@[simp] theorem State.replyWaiting_free (s : State) (q : Nat) (c : Code) (b : Bytes) : (s.replyWaiting q c b).free = s.free := by
  unfold State.replyWaiting; split; rfl; split <;> simp
@[simp] theorem State.replyWaiting_ord (s : State) (q : Nat) (c : Code) (b : Bytes) : (s.replyWaiting q c b).ord = s.ord := by
  unfold State.replyWaiting; split; rfl; split <;> simp

end Sys2Proof.Machine
end

