-- ==== Sys2Proof/Laws/Mailbox.lean ====
section
/-! SUPPORT. What taking and answering a message does, said once; the reading back of ports, contexts and slots. -/
namespace Sys2Proof.Machine

open Sys2Proof

/-! ### Ports and contexts read back -/

/-- A changed port read back. -/
theorem State.port_updPort_self (s : State) {p : Nat} (f : Port → Port) (h : p < s.ports.length) :
    (s.updPort p f).port p = f (s.port p) := by
  simp [State.port, State.updPort, List.getD_eq_getElem?_getD, h]

/-- Another port read back. -/
theorem State.port_updPort_ne (s : State) {p q : Nat} (f : Port → Port) (h : q ≠ p) :
    (s.updPort p f).port q = s.port q := by
  simp [State.port, State.updPort, List.getD_eq_getElem?_getD, Ne.symm h]

/-- A port that is present is one of the four. -/
theorem State.lt_of_present {s : State} {p : Nat} (h : (s.port p).present = true) : p < s.ports.length := by
  by_contra hn
  simp [State.port, List.getD_eq_getElem?_getD, List.getElem?_eq_none (Nat.le_of_not_lt hn), Port.reset] at h

/-- Any field of a port that a change leaves, read back. -/
theorem State.port_updPort_field {α : Type} (s : State) (p q : Nat) (f : Port → Port) (g : Port → α)
    (h : ∀ x, g (f x) = g x) : g ((s.updPort p f).port q) = g (s.port q) := by
  by_cases hq : q = p
  · subst hq
    by_cases hl : q < s.ports.length
    · rw [State.port_updPort_self s f hl, h]
    · simp [State.port, State.updPort, List.getD_eq_getElem?_getD, hl]
  · rw [State.port_updPort_ne s f hq]

/-- Any field of a port that a message leaves, after a vector is sent. -/
theorem State.port_sendVector_field {α : Type} (s : State) (p v q : Nat) (g : Port → α)
    (h : ∀ (x : Port) l, g { x with pba := l } = g x) : g ((s.sendVector p v).port q) = g (s.port q) := by
  unfold State.sendVector
  dsimp only
  split
  · rfl
  split
  · exact s.port_updPort_field p q _ g fun x => h x _
  · rfl

/-- Any field of a port that an event leaves. -/
theorem State.port_portEvent_field {α : Type} (s : State) (p bit q : Nat) (g : Port → α)
    (h : ∀ (x : Port) l e, g { x with pba := l, events := e } = g x) :
    g ((s.portEvent p bit).port q) = g (s.port q) := by
  unfold State.portEvent
  dsimp only
  split
  · rfl
  have h1 := s.port_updPort_field p q (fun q => { q with events := q.events ||| BitVec.twoPow 5 bit }) g
    fun x => h x x.pba _
  split
  · rw [State.port_sendVector_field _ _ _ _ g fun x l => h x l x.events, h1]
  · exact h1

/-- Any field of a port that an event on every port leaves. -/
theorem State.port_allEvent_field {α : Type} (s : State) (bit q : Nat) (g : Port → α)
    (h : ∀ (x : Port) l e, g { x with pba := l, events := e } = g x) :
    g ((s.allEvent bit).port q) = g (s.port q) := by
  simp only [State.allEvent, List.range, List.range.loop, List.foldl_cons, List.foldl_nil]
  repeat rw [State.port_portEvent_field _ _ _ _ g h]

/-- A changed context read back, where the change keeps its number. -/
theorem State.ctx?_updCtx_self (s : State) (n : Nat) (f : Ctx → Ctx) (h : ∀ c, (f c).num = c.num) :
    (s.updCtx n f).ctx? n = (s.ctx? n).map f := by
  unfold State.ctx? State.updCtx
  dsimp only
  induction s.ctxs with
  | nil => rfl
  | cons c cs ih =>
    by_cases hc : c.num = n
    · simp [hc, h]
    · simp [hc, ih]

/-- Another context read back. -/
theorem State.ctx?_updCtx_ne (s : State) {n m : Nat} (f : Ctx → Ctx) (h : ∀ c, (f c).num = c.num) (hne : m ≠ n) :
    (s.updCtx n f).ctx? m = s.ctx? m := by
  unfold State.ctx? State.updCtx
  dsimp only
  induction s.ctxs with
  | nil => rfl
  | cons c cs ih =>
    by_cases hc : c.num = n
    · have hm : ¬n = m := fun e => hne e.symm
      simp [hc, h, hm, ih]
    · simp only [List.map_cons, if_neg hc, List.find?_cons, ih]

/-! ### Slots read back -/

/-- The boxes found after one slot of one of them is replaced. -/
theorem boxes_find?_set (l : List (Nat × List Bytes)) (c i : Nat) (b : Bytes) :
    ((l.map fun x => if x.1 = c then (c, x.2.set i b) else x).find? fun x => x.1 == c) =
      (l.find? fun x => x.1 == c).map fun x => (c, x.2.set i b) := by
  induction l with
  | nil => rfl
  | cons x l ih =>
    by_cases hx : x.1 = c
    · simp [hx]
    · simp [hx, ih]

/-- A slot written is read back. -/
theorem State.slot?_setSlot_self {s : State} {r : SlotRef} {b x : Bytes} (hp : r.port < s.ports.length)
    (h : s.slot? r = some x) : (s.setSlot r b).slot? r = some b := by
  unfold State.slot? at h ⊢
  obtain ⟨l, hl, hx⟩ := Option.bind_eq_some_iff.1 h
  have hi : r.slot < l.length := (List.getElem?_eq_some_iff.1 hx).1
  unfold State.setSlot
  rw [State.port_updPort_self _ _ hp]
  unfold Port.box? at hl ⊢
  cases hb : r.box with
  | none =>
    simp only [hb, Option.some.injEq] at hl
    subst hl
    simp [hi]
  | some c =>
    simp only [hb] at hl
    obtain ⟨y, hy, rfl⟩ := Option.map_eq_some_iff.1 hl
    dsimp only
    rw [boxes_find?_set, hy]
    simp [hi]

/-- What reads a port's mailboxes alone. -/
theorem State.slot?_congr {s t : State} {r : SlotRef} (hm : (t.port r.port).mgmt = (s.port r.port).mgmt)
    (hb : (t.port r.port).boxes = (s.port r.port).boxes) : t.slot? r = s.slot? r := by
  simp only [State.slot?, Port.box?, hm, hb]

/-- A vector sent leaves every slot. -/
theorem State.slot?_sendVector (s : State) (p v : Nat) (r : SlotRef) : (s.sendVector p v).slot? r = s.slot? r :=
  State.slot?_congr (s.port_sendVector_field p v _ (fun q => q.mgmt) fun _ _ => rfl)
    (s.port_sendVector_field p v _ (fun q => q.boxes) fun _ _ => rfl)

/-- An event leaves every slot. -/
theorem State.slot?_portEvent (s : State) (p bit : Nat) (r : SlotRef) : (s.portEvent p bit).slot? r = s.slot? r :=
  State.slot?_congr (s.port_portEvent_field p bit _ (fun q => q.mgmt) fun _ _ _ => rfl)
    (s.port_portEvent_field p bit _ (fun q => q.boxes) fun _ _ _ => rfl)

/-- An event on every port leaves every slot. -/
theorem State.slot?_allEvent (s : State) (bit : Nat) (r : SlotRef) : (s.allEvent bit).slot? r = s.slot? r :=
  State.slot?_congr (s.port_allEvent_field bit _ (fun q => q.mgmt) fun _ _ _ => rfl)
    (s.port_allEvent_field bit _ (fun q => q.boxes) fun _ _ _ => rfl)

/-! ### Bytes read back -/

/-- A byte within the first part of a run. -/
theorem byteAt_append_left {a b : Bytes} {i : Nat} (h : i < a.length) : byteAt (a ++ b) i = byteAt a i := by
  simp [byteAt, List.getD_eq_getElem?_getD, List.getElem?_append_left h]

/-- A byte within the second part of a run. -/
theorem byteAt_append_right {a b : Bytes} {i : Nat} : byteAt (a ++ b) (a.length + i) = byteAt b i := by
  simp [byteAt, List.getD_eq_getElem?_getD, List.getElem?_append_right]

/-- The length of a little-endian field. -/
@[simp] theorem leBytes_length (n v : Nat) : (leBytes n v).length = n := by
  induction n generalizing v with
  | zero => rfl
  | succ n ih => simp [leBytes, ih]

/-- A padded run, byte by byte. -/
theorem takePad_eq (n : Nat) (b : Bytes) : takePad n b = (List.range n).map fun i => byteAt b i := by
  induction n generalizing b with
  | zero => rfl
  | succ n ih =>
    cases b with
    | nil => simp [takePad, ih, List.range_succ_eq_map, byteAt, Function.comp_def]
    | cons x xs => simp [takePad, ih, List.range_succ_eq_map, byteAt, Function.comp_def]

/-- A run of bytes, byte by byte. -/
theorem sliceBytes_eq (b : Bytes) (o n : Nat) : sliceBytes b o n = (List.range n).map fun i => byteAt b (o + i) := by
  simp [sliceBytes, takePad_eq, byteAt, List.getD_eq_getElem?_getD]

/-- The length of a slice. -/
@[simp] theorem sliceBytes_length (b : Bytes) (o n : Nat) : (sliceBytes b o n).length = n := by simp [sliceBytes_eq]

/-- A slice wholly within the first part of a run. -/
theorem sliceBytes_append_left {a b : Bytes} {o n : Nat} (h : o + n ≤ a.length) :
    sliceBytes (a ++ b) o n = sliceBytes a o n := by
  rw [sliceBytes_eq, sliceBytes_eq]
  refine List.map_congr_left fun i hi => byteAt_append_left ?_
  have := List.mem_range.1 hi
  omega

/-- A slice wholly within the second part of a run. -/
theorem sliceBytes_append_right {a b : Bytes} {o n : Nat} :
    sliceBytes (a ++ b) (a.length + o) n = sliceBytes b o n := by
  rw [sliceBytes_eq, sliceBytes_eq]
  refine List.map_congr_left fun i _ => ?_
  rw [Nat.add_assoc, byteAt_append_right]

/-- The whole of a run. -/
theorem sliceBytes_self {a : Bytes} : sliceBytes a 0 a.length = a := by
  refine List.ext_getElem (by simp) fun i h1 h2 => ?_
  simp [sliceBytes_eq, byteAt, List.getD_eq_getElem?_getD, h2]

/-- A little-endian field read back. -/
theorem leVal_leBytes (n v : Nat) : leVal (leBytes n v) = v % 256 ^ n := by
  induction n generalizing v with
  | zero => simp [leBytes, leVal, Nat.mod_one]
  | succ n ih =>
    rw [leBytes, leVal, ih, BitVec.toNat_ofNat, show 256 ^ (n + 1) = 256 * 256 ^ n from Nat.pow_succ', Nat.mod_mul]

/-! ### Replies -/

/-- The bytes a reply writes over a slot (R501). -/
def replySlot (m : Msg) (b : Bytes) (code : Code) (body : Bytes) : Bytes :=
  leBytes 4 (m.tag.toNat * 65536 + 3) ++ sliceBytes b 4 4 ++ leBytes 2 code.toNat ++ sliceBytes b 10 6 ++
    sliceBytes body 0 240

/-- The slot of a message. -/
def Msg.ref (m : Msg) : SlotRef := { port := m.port, box := m.box, slot := m.slot }

/-- A reply stands in the slot of its message. -/
theorem State.slot?_writeReply {s : State} {m : Msg} {b : Bytes} (code : Code) (body : Bytes)
    (hp : m.port < s.ports.length) (h : s.slot? m.ref = some b) (hd : m.discard = false) :
    (s.writeReply m code body).slot? m.ref = some (replySlot m b code body) := by
  have hw := State.slot?_setSlot_self (r := m.ref) (b := replySlot m b code body) hp h
  unfold State.writeReply
  dsimp only
  rw [show s.slot? { port := m.port, box := m.box, slot := m.slot } = some b from h]
  dsimp only
  rw [hd]
  simp only [Bool.false_eq_true, if_false]
  split
  · rw [State.slot?_sendVector]; exact hw
  · exact hw

/-- The SEAL, the STATUS and the body of a reply (R501). -/
theorem replySlot_fields (m : Msg) (b : Bytes) (code : Code) {body : Bytes} (hb : body.length = 240) :
    leAt (replySlot m b code body) 0 4 = m.tag.toNat * 65536 + 3 ∧ leAt (replySlot m b code body) 8 2 = code.toNat ∧
      slotBody (replySlot m b code body) = body := by
  have hm : m.tag.toNat < 65536 := m.tag.isLt
  have hc : code.toNat < 65536 := code.isLt
  unfold leAt slotBody replySlot
  refine ⟨?_, ?_, ?_⟩
  · rw [List.append_assoc, List.append_assoc, List.append_assoc, sliceBytes_append_left (by simp)]
    have := sliceBytes_self (a := leBytes 4 (m.tag.toNat * 65536 + 3))
    rw [leBytes_length] at this
    rw [this, leVal_leBytes, Nat.mod_eq_of_lt]
    omega
  · rw [List.append_assoc, List.append_assoc]
    have hr := sliceBytes_append_right (b := leBytes 2 code.toNat ++ (sliceBytes b 10 6 ++ sliceBytes body 0 240))
      (o := 0) (n := 2) (a := leBytes 4 (m.tag.toNat * 65536 + 3) ++ sliceBytes b 4 4)
    simp only [List.length_append, leBytes_length, sliceBytes_length] at hr
    rw [hr, sliceBytes_append_left (by simp)]
    have := sliceBytes_self (a := leBytes 2 code.toNat)
    rw [leBytes_length] at this
    rw [this, leVal_leBytes, Nat.mod_eq_of_lt]
    omega
  · have hr := sliceBytes_append_right (b := sliceBytes body 0 240) (o := 0) (n := 240)
      (a := leBytes 4 (m.tag.toNat * 65536 + 3) ++ sliceBytes b 4 4 ++ leBytes 2 code.toNat ++ sliceBytes b 10 6)
    simp only [List.length_append, leBytes_length, sliceBytes_length] at hr
    rw [hr]
    have h1 : sliceBytes body 0 240 = body := by rw [← hb]; exact sliceBytes_self
    rw [h1, ← hb]
    exact sliceBytes_self

/-! ### The take of a message -/

/-- What a message that passes every shared check has passed. -/
theorem taken_checks {s : State} {r : SlotRef} {f : Form} {b : Bytes} (h : Taken s r f b) :
    s.earlyRefusal b (msgAt s r b) = none ∧ f.reservedOk (msgAt s r b).body = true := by
  have ha := h.allowed
  have hf : (msgAt s r b).form? = some f := h.form
  unfold State.takeRefusal at ha
  split at ha
  · cases ha
  · rw [hf] at ha
    dsimp only at ha
    split at ha
    · exact ⟨‹_›, ‹_›⟩
    · cases ha

/-- A message that passes every shared check is not malformed. -/
theorem taken_wellFormed {s : State} {r : SlotRef} {f : Form} {b : Bytes} (h : Taken s r f b) :
    malformed b (msgAt s r b) = false := by
  obtain ⟨he, hr⟩ := taken_checks h
  have hf : (msgAt s r b).form? = some f := h.form
  unfold State.earlyRefusal at he
  unfold malformed
  split at he
  · cases he
  · simp [*]

/-- The slot of a taken message. -/
theorem taken_slot {s : State} {r : SlotRef} {f : Form} {b : Bytes} (h : Taken s r f b) : s.slot? r = some b := by
  obtain ⟨l, hl, _, hb⟩ := h.found
  simp [State.slot?, hl, hb]

/-- The port of a taken message is present. -/
theorem taken_port_lt {s : State} {r : SlotRef} {f : Form} {b : Bytes} (h : Taken s r f b) :
    r.port < s.ports.length := by
  have := h.scanned
  simp only [State.scans, Port.reaches, Bool.and_eq_true] at this
  exact State.lt_of_present this.1.2.1

/-- A message that is no resignation does nothing when it is taken. -/
theorem State.takenNow_of_ne {s : State} {m : Msg} (h : m.form? ≠ some .handoverResign) : s.takenNow m = s :=
  if_neg fun e => h e.1

/-- A resignation lets ownership lapse when it is taken (R567). -/
theorem State.takenNow_resign {s : State} {m : Msg} (h : m.form? = some .handoverResign)
    (hr : Form.handoverResign.reservedOk m.body = true) : s.takenNow m = s.lapse := if_pos ⟨h, hr⟩

/-- What is done at the take leaves the contexts and the control complex. -/
theorem State.takenNow_ccx (s : State) (m : Msg) : (s.takenNow m).ccx = s.ccx := by
  unfold State.takenNow
  split
  · exact State.lapse_ccx s
  · rfl

/-- What is done at the take leaves the contexts. -/
theorem State.takenNow_ctxs (s : State) (m : Msg) : (s.takenNow m).ctxs = s.ctxs := by
  unfold State.takenNow
  split
  · exact State.lapse_ctxs s
  · rfl

/-- The check of the contexts reads the contexts alone. -/
theorem State.ctxRefusal_congr {s t : State} (h : t.ctxs = s.ctxs) (f : Form) (m : Msg) :
    t.ctxRefusal f m = s.ctxRefusal f m := by
  have hl : t.liveCtx? = s.liveCtx? := by
    funext n
    simp only [State.liveCtx?, State.ctx?, h]
  unfold State.ctxRefusal
  rw [hl]

/-- Everything the row of a taken message does: the slot is taken, a resignation lets ownership lapse, and its carrying out
replies or leaves it waiting. -/
theorem State.takeRow_of_taken {s : State} {r : SlotRef} {f : Form} {b : Bytes} (carry : State → Msg → Carried)
    (h : Taken s r f b) :
    s.takeRow r f carry =
      match carry ((s.markTaken r b false).takenNow (msgAt s r b)) (msgAt s r b) with
      | .reply t code body => t.writeReply (msgAt s r b) code body
      | .wait t => { t with ccx := { t.ccx with msgs := t.ccx.msgs ++ [{ msgAt s r b with state := .waiting }] } } := by
  obtain ⟨l, hl, hs, hb⟩ := h.found
  have hd : l.getD r.slot [] = b := by simp [List.getD_eq_getElem?_getD, hb]
  have hslot := taken_slot h
  have hmal := taken_wellFormed h
  have hform : (msgAt s r b).form? = some f := h.form
  have hlive : ((s.markTaken r b false).takenNow (msgAt s r b)).ctxRefusal f (msgAt s r b) = none :=
    (State.ctxRefusal_congr (State.takenNow_ctxs _ _) f _).trans h.contexts
  have hhold : ((s.markTaken r b false).takenNow (msgAt s r b)).mustHold (msgAt s r b)
      ((s.markTaken r b false).takenNow (msgAt s r b)).ccx.msgs = false := by
    rw [State.takenNow_ccx]; exact h.free
  obtain ⟨hearly, hres⟩ := taken_checks h
  unfold State.takeRow
  rw [h.scanned, hl]
  simp only [hs, hd, h.form, if_true, Bool.not_true, Bool.false_eq_true, if_false, ne_eq, not_true_eq_false]
  unfold State.takeSlot
  rw [hslot]
  dsimp only
  rw [show slotMsg r b s.ccx.takeSeq = msgAt s r b from rfl, hmal]
  simp only [Bool.false_and]
  rw [show ({ msgAt s r b with freezes := false } : Msg) = msgAt s r b from rfl, hearly]
  simp only [hhold, Bool.false_eq_true, if_false]
  unfold State.begin
  rw [hform]
  simp only [hres, hlive, Bool.not_true, Bool.false_eq_true, if_false] <;>
    (cases carry ((s.markTaken r b false).takenNow (msgAt s r b)) (msgAt s r b) <;> rfl)

/-- The slot of a message once it is taken (R493, R495). -/
theorem State.slot?_markTaken {s : State} {r : SlotRef} {f : Form} {b : Bytes} (h : Taken s r f b) :
    (s.markTaken r b false).slot? r =
      some (leBytes 4 ((slotSealWord b).toNat / 4 * 4 + 2) ++ sliceBytes b 4 8 ++ leBytes 4 s.ccx.takeSeq ++
        sliceBytes b 16 240) := by
  have hs := State.slot?_setSlot_self (b := leBytes 4 ((slotSealWord b).toNat / 4 * 4 + 2) ++ sliceBytes b 4 8 ++
    leBytes 4 s.ccx.takeSeq ++ sliceBytes b 16 240) (taken_port_lt h) (taken_slot h)
  rw [← hs]
  unfold State.markTaken
  exact State.slot?_congr
    (State.port_updPort_field _ _ _ _ (fun q => q.mgmt) fun _ => rfl)
    (State.port_updPort_field _ _ _ _ (fun q => q.boxes) fun _ => rfl)

/-- What a message that is replied gives: its slot holds the reply, where carrying it out left the slot. -/
theorem answered_of_reply {s t : State} {r : SlotRef} {f : Form} {b : Bytes} (h : Taken s r f b) {code : Code}
    {body : Bytes} (hb : body.length = 240) (hp : t.ports.length = s.ports.length)
    (hs : t.slot? r = (s.markTaken r b false).slot? r) :
    Answered (t.writeReply (msgAt s r b) code body) r b code body := by
  have h1 := hs.trans (State.slot?_markTaken h)
  refine ⟨_, State.slot?_writeReply (m := msgAt s r b) code body (by rw [hp]; exact taken_port_lt h) h1 rfl, ?_⟩
  exact replySlot_fields (msgAt s r b) _ code hb

/-- A reply body is 240 bytes. -/
theorem replyBody_length {b : Bytes} (h : b.length ≤ 240) : (replyBody b).length = 240 := by
  simp [replyBody, zeros]; omega

end Sys2Proof.Machine
end

