-- ==== Sys2Proof/Laws/Memory.lean ====
section
/-! SUPPORT. The laws of memory: every change keeps the canonical form, a byte written is read back, and every other byte
stays. -/
namespace Sys2Proof.Machine

open Sys2Proof

/-! ### The canonical form as a proposition -/

/-- The two halves of the canonical form. -/
theorem Memory.wf_iff (m : Memory) :
    m.wf = true ↔ cellsSorted m.cells = true ∧ ∀ c ∈ m.cells, c.2 ≠ m.blank c.1 := by
  simp [Memory.wf]

/-- A sorted list of cells is a pairwise rising one. -/
theorem cellsSorted_iff (l : List Host.Cell) : cellsSorted l = true ↔ l.Pairwise fun a b => a.1 < b.1 := by
  induction l with
  | nil => simp [cellsSorted]
  | cons a l ih =>
    cases l with
    | nil => simp [cellsSorted]
    | cons b l =>
      rw [cellsSorted, Bool.and_eq_true, ih]
      constructor
      · rintro ⟨h, hp⟩
        refine List.pairwise_cons.2 ⟨fun x hx => ?_, hp⟩
        rcases List.mem_cons.1 hx with rfl | hx
        · exact of_decide_eq_true h
        · exact (of_decide_eq_true h).trans ((List.pairwise_cons.1 hp).1 x hx)
      · intro h
        exact ⟨decide_eq_true ((List.pairwise_cons.1 h).1 b (List.mem_cons_self ..)), (List.pairwise_cons.1 h).2⟩

/-! ### One byte put -/

/-- A cell after a put is the new one or an old one at another address. -/
theorem mem_cellsPut {d : Byte} {l : List Host.Cell} {a : Nat} {b : Byte} {c : Host.Cell}
    (h : c ∈ cellsPut d l a b) : c = (a, b) ∧ b ≠ d ∨ c ∈ l := by
  induction l with
  | nil =>
    unfold cellsPut at h
    split at h
    · cases h
    · simp at h; exact .inl ⟨h, ‹_›⟩
  | cons x l ih =>
    obtain ⟨k, v⟩ := x
    unfold cellsPut at h
    split at h
    · split at h
      · exact .inr h
      · rcases List.mem_cons.1 h with rfl | h
        · exact .inl ⟨rfl, ‹_›⟩
        · exact .inr h
    · split at h
      · split at h
        · exact .inr (List.mem_cons_of_mem _ h)
        · rcases List.mem_cons.1 h with rfl | h
          · exact .inl ⟨rfl, ‹_›⟩
          · exact .inr (List.mem_cons_of_mem _ h)
      · rcases List.mem_cons.1 h with rfl | h
        · exact .inr (List.mem_cons_self ..)
        · rcases ih h with h | h
          · exact .inl h
          · exact .inr (List.mem_cons_of_mem _ h)

/-- A put keeps the addresses rising. -/
theorem cellsPut_pairwise {d : Byte} {l : List Host.Cell} {a : Nat} {b : Byte}
    (h : l.Pairwise fun x y => x.1 < y.1) : (cellsPut d l a b).Pairwise fun x y => x.1 < y.1 := by
  induction l with
  | nil => unfold cellsPut; split <;> simp
  | cons x l ih =>
    obtain ⟨k, v⟩ := x
    have hl := (List.pairwise_cons.1 h).2
    have hk := (List.pairwise_cons.1 h).1
    unfold cellsPut
    split
    · split
      · exact h
      · refine List.pairwise_cons.2 ⟨fun y hy => ?_, h⟩
        rcases List.mem_cons.1 hy with rfl | hy
        · assumption
        · exact Nat.lt_trans ‹_› (hk y hy)
    · split
      · split
        · exact hl
        · subst_vars; exact List.pairwise_cons.2 ⟨hk, hl⟩
      · refine List.pairwise_cons.2 ⟨fun y hy => ?_, ih hl⟩
        rcases mem_cellsPut hy with ⟨rfl, _⟩ | hy
        · show k < a; omega
        · exact hk y hy

/-- The listed byte at an address of a sorted list. -/
theorem cellsGet_none {l : List Host.Cell} {a : Nat} (h : ∀ c ∈ l, c.1 ≠ a) : cellsGet l a = none := by
  induction l with
  | nil => rfl
  | cons x l ih =>
    obtain ⟨k, v⟩ := x
    have hk : k ≠ a := h (k, v) (List.mem_cons_self ..)
    simp [cellsGet, hk, ih fun c hc => h c (List.mem_cons_of_mem _ hc)]

/-- The byte read at the address of a put. -/
theorem cellsGet_cellsPut_self {d : Byte} {l : List Host.Cell} {a : Nat} {b : Byte}
    (h : l.Pairwise fun x y => x.1 < y.1) : (cellsGet (cellsPut d l a b) a).getD d = b := by
  induction l with
  | nil => unfold cellsPut; split <;> simp_all [cellsGet]
  | cons x l ih =>
    obtain ⟨k, v⟩ := x
    have hl := (List.pairwise_cons.1 h).2
    have hk := (List.pairwise_cons.1 h).1
    unfold cellsPut
    split
    · split
      · rw [cellsGet_none]
        · simp_all
        · intro c hc
          rcases List.mem_cons.1 hc with rfl | hc
          · show k ≠ a; omega
          · have := hk c hc; simp at this; omega
      · simp [cellsGet]
    · split
      · split
        · rw [cellsGet_none]
          · simp_all
          · intro c hc; have := hk c hc; simp at this; omega
        · simp [cellsGet]
      · have : k ≠ a := by omega
        simp [cellsGet, this, ih hl]

/-- The byte read at every other address. -/
theorem cellsGet_cellsPut_ne {d : Byte} {l : List Host.Cell} {a c : Nat} {b : Byte} (hne : c ≠ a) :
    cellsGet (cellsPut d l a b) c = cellsGet l c := by
  induction l with
  | nil => unfold cellsPut; split <;> simp [cellsGet, hne.symm]
  | cons x l ih =>
    obtain ⟨k, v⟩ := x
    unfold cellsPut
    split
    · split
      · rfl
      · simp [cellsGet, hne.symm]
    · split
      · split
        · subst_vars; simp [cellsGet, hne.symm]
        · subst_vars; simp [cellsGet, hne.symm]
      · simp [cellsGet, ih]

/-! ### Runs removed -/

/-- Cells outside a range stay in order. -/
theorem cellsOutside_pairwise {lo n : Nat} {l : List Host.Cell} (h : l.Pairwise fun x y => x.1 < y.1) :
    (cellsOutside lo n l).Pairwise fun x y => x.1 < y.1 := h.filter _

/-- A cell outside a range. -/
theorem mem_cellsOutside {lo n : Nat} {l : List Host.Cell} {c : Host.Cell} (h : c ∈ cellsOutside lo n l) :
    c ∈ l ∧ ¬(lo ≤ c.1 ∧ c.1 < lo + n) := by
  obtain ⟨hc, ho⟩ := List.mem_filter.1 h
  refine ⟨hc, fun hr => ?_⟩
  rw [decide_eq_true hr.1, decide_eq_true hr.2] at ho
  cases ho

/-- A listed byte outside a removed range is still listed. -/
theorem cellsGet_cellsOutside {lo n : Nat} {l : List Host.Cell} {a : Nat} (h : ¬(lo ≤ a ∧ a < lo + n)) :
    cellsGet (cellsOutside lo n l) a = cellsGet l a := by
  induction l with
  | nil => rfl
  | cons x l ih =>
    obtain ⟨k, v⟩ := x
    have e : cellsOutside lo n ((k, v) :: l) =
        if lo ≤ k ∧ k < lo + n then cellsOutside lo n l else (k, v) :: cellsOutside lo n l := by
      unfold cellsOutside
      by_cases hk : lo ≤ k ∧ k < lo + n <;> simp [List.filter_cons, hk]
    rw [e]
    split
    · have : k ≠ a := by rintro rfl; exact h ‹_›
      rw [cellsGet, if_neg this, ih]
    · rw [cellsGet, cellsGet, ih]

/-! ### What an unlisted byte reads as -/

/-- A list searched after entries that do not answer are dropped. -/
theorem find?_filter_of_imp {α : Type} (l : List α) (p q : α → Bool) (h : ∀ x ∈ l, p x = true → q x = true) :
    (l.filter q).find? p = l.find? p := by
  induction l with
  | nil => rfl
  | cons x l ih =>
    have ih := ih fun y hy => h y (List.mem_cons_of_mem _ hy)
    have hx := h x (List.mem_cons_self ..)
    by_cases hq : q x = true
    · rw [List.filter_cons_of_pos hq]
      by_cases hp : p x = true
      · rw [List.find?_cons_of_pos hp, List.find?_cons_of_pos hp]
      · rw [List.find?_cons_of_neg hp, List.find?_cons_of_neg hp, ih]
    · have hp : ¬p x = true := fun e => hq (hx e)
      rw [List.filter_cons_of_neg hq, List.find?_cons_of_neg hp, ih]

/-- Zeroing a range leaves the reading of unlisted bytes outside it. -/
theorem Memory.blank_zero (m : Memory) {lo n a : Nat} (h : ¬(lo ≤ a ∧ a < lo + n)) :
    (m.apply (.zero lo n)).blank a = m.blank a := by
  unfold Memory.blank Memory.apply
  dsimp only
  rw [find?_filter_of_imp]
  intro p _ hp
  simp only [Bool.and_eq_true, decide_eq_true_eq] at hp
  simp only [Bool.not_eq_true', Bool.and_eq_false_iff, decide_eq_false_iff_not]
  omega

/-- A page whose bytes become unspecified leaves the reading of unlisted bytes outside it. -/
theorem Memory.blank_smudge (m : Memory) {lo k a : Nat} (h : ¬(lo ≤ a ∧ a < lo + smallPage)) :
    (m.apply (.smudge lo k)).blank a = m.blank a := by
  unfold Memory.blank Memory.apply
  dsimp only
  rw [List.find?_cons_of_neg (by simpa using h), find?_filter_of_imp]
  intro p _ hp
  simp only [Bool.and_eq_true, decide_eq_true_eq] at hp
  simp only [decide_eq_true_eq]
  rintro rfl
  omega

/-- One change of memory keeps the canonical form. -/
theorem Memory.apply_wf {m : Memory} (h : m.wf = true) (op : MemOp) : (m.apply op).wf = true := by
  rw [Memory.wf_iff, cellsSorted_iff] at h ⊢
  obtain ⟨hs, hb⟩ := h
  cases op with
  | byte a b =>
    refine ⟨cellsPut_pairwise hs, fun c hc => ?_⟩
    show c.2 ≠ m.blank c.1
    rcases mem_cellsPut hc with ⟨rfl, hn⟩ | hc
    · exact hn
    · exact hb c hc
  | zero lo n =>
    refine ⟨cellsOutside_pairwise hs, fun c hc => ?_⟩
    obtain ⟨hc, ho⟩ := mem_cellsOutside hc
    rw [Memory.blank_zero m ho]
    exact hb c hc
  | smudge lo k =>
    refine ⟨cellsOutside_pairwise hs, fun c hc => ?_⟩
    obtain ⟨hc, ho⟩ := mem_cellsOutside hc
    rw [Memory.blank_smudge m ho]
    exact hb c hc

/-- The changes of a step keep the canonical form. -/
theorem Memory.writeAll_wf {m : Memory} (h : m.wf = true) (ops : List MemOp) : (m.writeAll ops).wf = true := by
  induction ops with
  | nil => exact h
  | cons op ops ih => exact Memory.apply_wf ih op

/-! ### Reading back -/

/-- A byte written is read back. -/
theorem Memory.get_apply_self {m : Memory} (h : m.wf = true) (a : Nat) (b : Byte) :
    (m.apply (.byte a b)).get a = b := by
  rw [Memory.wf_iff, cellsSorted_iff] at h
  exact cellsGet_cellsPut_self h.1

/-- A byte written leaves every other byte. -/
theorem Memory.get_apply_ne (m : Memory) {a c : Nat} (b : Byte) (h : c ≠ a) :
    (m.apply (.byte a b)).get c = m.get c := by
  show (cellsGet (cellsPut (m.blank a) m.cells a b) c).getD (m.blank c) = _
  rw [cellsGet_cellsPut_ne h]
  rfl

/-- A page filled with zeros, where no unspecified page reaches into it in part, leaves every byte outside it. -/
theorem Memory.get_zero_outside (m : Memory) {lo n a : Nat} (h : ¬(lo ≤ a ∧ a < lo + n)) :
    (m.apply (.zero lo n)).get a = m.get a := by
  show (cellsGet (cellsOutside lo n m.cells) a).getD ((m.apply (.zero lo n)).blank a) = _
  rw [Memory.blank_zero m h, cellsGet_cellsOutside h]
  rfl

/-- A page whose bytes become unspecified leaves every byte outside it. -/
theorem Memory.get_smudge_outside (m : Memory) {lo k a : Nat} (h : ¬(lo ≤ a ∧ a < lo + smallPage)) :
    (m.apply (.smudge lo k)).get a = m.get a := by
  show (cellsGet (cellsOutside lo smallPage m.cells) a).getD ((m.apply (.smudge lo k)).blank a) = _
  rw [Memory.blank_smudge m h, cellsGet_cellsOutside h]
  rfl

/-- Whether a change of memory may reach an address. -/
def MemOp.covers (a : Nat) : MemOp → Bool
  | .byte k _ => k == a
  | .zero lo n => decide (lo ≤ a) && decide (a < lo + n)
  | .smudge lo _ => decide (lo ≤ a) && decide (a < lo + smallPage)

/-- A byte no change of the step reaches stays. -/
theorem Memory.get_writeAll_outside (m : Memory) {a : Nat} (ops : List MemOp) (h : ∀ op ∈ ops, op.covers a = false) :
    (m.writeAll ops).get a = m.get a := by
  induction ops with
  | nil => rfl
  | cons op ops ih =>
    have hop := h op (List.mem_cons_self ..)
    have ih := ih fun o ho => h o (List.mem_cons_of_mem _ ho)
    show ((m.writeAll ops).apply op).get a = m.get a
    cases op with
    | byte k v => rw [Memory.get_apply_ne _ _ (by simp [MemOp.covers] at hop; omega), ih]
    | zero lo n => rw [Memory.get_zero_outside _ (by simpa [MemOp.covers] using hop), ih]
    | smudge lo k => rw [Memory.get_smudge_outside _ (by simpa [MemOp.covers] using hop), ih]

end Sys2Proof.Machine
end

