-- ==== Sys2Proof/Tests/Slice0.lean ====
section
/-! SUPPORT. Tests: an ill-formed term for each check of WellFormed, and for the clauses of the statements states and
operands that meet their hypotheses together, with a field of what the step then gives. Expected values are read from the
rules cited in the statements. -/
namespace Sys2Proof.Tests

open Sys2Proof Sys2Proof.Machine

set_option Elab.async false

/-! ### Small states -/

/-- A command answers a next state of which a check holds. -/
def gives (i : Instr) (s : State) (f : State → Bool) : Bool :=
  match exec i s with
  | .next t => f t
  | .fault _ => false
  | .refused _ => false

/-- A run of bytes with little-endian fields, as (offset, length, value), zeros elsewhere. -/
def pack (n : Nat) (fs : List (Nat × Nat × Nat)) : Bytes :=
  fs.foldl (fun b f => putBytes b f.1 (leBytes f.2.1 f.2.2)) (zeros n)

/-- A slot sealed with TAG 7. -/
def sealed (op : Nat) (fs : List (Nat × Nat × Nat)) : Bytes := pack 16 [(0, 4, 0x70001), (4, 2, op)] ++ pack 240 fs

/-- An image whose every field is known. -/
def image1 : FwSlot := { FwSlot.shipped with header := [], digest := [], version := 1 }

/-- A ready module of the part with a fabric, its four ports up, port 0 the owner. -/
def ready : State :=
  { State.reset with
    phase := .ready, ports := List.replicate 4 { Port.reset true with linkUp := true },
    own := { owner := some 0, electing := false, claims := [], offer := none },
    store := { Store.shipped with fw0 := image1, running := some 0 } }

/-- Management slot 0 of port 0. -/
def slot0 : SlotRef := { port := 0, box := none, slot := 0 }

/-- A message in a management slot 0 of port 0. -/
def mail (s : State) (b : Bytes) : State := s.setSlot slot0 b

/-- Whether a slot holds a reply of a status. -/
def replied (t : State) (r : SlotRef) (code : Code) : Bool :=
  (t.slot? r).any fun b => sealState (slotSealWord b) == 3 && leAt b 8 2 == code.toNat

/-- The checks of `Taken`. -/
def takenCheck (s : State) (r : SlotRef) (f : Form) (b : Bytes) : Bool :=
  s.scans r.port &&
    (match (s.port r.port).box? r.box with
      | some l => decide (lowestSealed l = some r.slot) && decide (l[r.slot]? = some b)
      | none => false) &&
    decide (formOf (slotOpcode b).toNat (slotBody b) = some f) && (s.takeRefusal b (msgAt s r b)).isNone &&
    !s.mustHold (msgAt s r b) s.ccx.msgs && (s.ctxRefusal f (msgAt s r b)).isNone

/-- The checks say `Taken`. -/
theorem taken_of {s : State} {r : SlotRef} {f : Form} {b : Bytes} (h : takenCheck s r f b = true) : Taken s r f b := by
  simp only [takenCheck, Bool.and_eq_true, Option.isNone_iff_eq_none, decide_eq_true_eq, Bool.not_eq_true'] at h
  obtain ⟨⟨⟨⟨⟨h1, h2⟩, h3⟩, h4⟩, h5⟩, h6⟩ := h
  split at h2
  · next l hl =>
    simp only [Bool.and_eq_true, decide_eq_true_eq] at h2
    exact ⟨h1, ⟨l, hl, h2.1, h2.2⟩, h3, h4, h5, h6⟩
  · exact absurd h2 (by decide)

/-- A slot of a state whose message is next, whatever its checks say. -/
def nextCheck (s : State) (r : SlotRef) (f : Form) (b : Bytes) : Bool :=
  s.scans r.port &&
    (match (s.port r.port).box? r.box with
      | some l => decide (lowestSealed l = some r.slot) && decide (l[r.slot]? = some b)
      | none => false) &&
    decide (formOf (slotOpcode b).toNat (slotBody b) = some f)

/-- The checks say `Next`. -/
theorem next_of {s : State} {r : SlotRef} {f : Form} {b : Bytes} (h : nextCheck s r f b = true) : Next s r f b := by
  simp only [nextCheck, Bool.and_eq_true, decide_eq_true_eq] at h
  obtain ⟨⟨h1, h2⟩, h3⟩ := h
  split at h2
  · next l hl =>
    simp only [Bool.and_eq_true, decide_eq_true_eq] at h2
    exact ⟨h1, ⟨l, hl, h2.1, h2.2⟩, h3⟩
  · exact absurd h2 (by decide)

/-- A segment of `len` bytes, and a job of context 1. -/
def seg (i src dst len rows : Nat) : MoveSeg :=
  { index := i, src := src, dst := dst, len0 := len, len1 := rows, len2 := 1, ss1 := len, ds1 := len, ss2 := 0, ds2 := 0,
    item := noItem, owner := 1, total := 1, next := 0, whole := [], stopped := false }

def job (id : Nat) (k : JobKind) (l : List MoveSeg) : Job :=
  { id := id, ctx := 1, index := 5, epoch := 0, kind := k, esize := 1, fill := 0, segs := l }

/-- A context of a number, home port 0, RUNNING and resident, with a list at its address 0x10000 of 64 commands, the next
of index 5. -/
def ctx (n : Nat) : Ctx :=
  { num := n, state := .running, step := false, partition := 0, home := 0, vector := 0, grants := [(0, 0)],
    nanTrap := false, savePages := [], policy := 2, sliceUs := 4000, stackAllot := 2 ^ 30, bulkAllot := 2 ^ 30,
    resident := true, stateSince := 0, lastBegan := 0, debtUs := 0,
    list := some { base := 0x10000, cap := 64, start := 5, stop := 9, next := 5, begun := 5, done := 5, ended := [] },
    begun := [], records := [], nanCount := 0, cls := 0, busy := 0, interfere := 0, turnBusy := 0, turnIntf := 0,
    turnOthers := [], slowdown := 0, topOther := 0,
    fault := { code := 0, outcome := 0, cmdCtx := 0, cmdIndex := 0, opcode := 0, item := 0, entry := 0, detail := [] },
    build := none, mailbox := true, closing := [] }

/-- 2 MiB of stack memory mapped at address 0 of a context, on the page at physical address `page`. -/
def map1 (n page : Nat) : Mapping :=
  { id := n, ctx := n, base := 0, length := 2 ^ 21, tier := .stack, psize := 2 ^ 21, readOnly := false, pages := [page],
    charged := n, source := none }

/-- The ready module with context 1, which holds the turn of partition 0, its mailbox on port 0. -/
def withCtx : State :=
  { ready with
    ctxs := [ctx 1], maps := [map1 1 0], nextMap := 2, partitions := [BitVec.allOnes 128],
    turns := [{ holder := some 1, last := 1, overran := false }], ctxEpochs := [(1, 1)], ord := 1
    ports := ready.ports.mapIdx fun i q =>
      if i = 0 then { q with boxes := [(1, List.replicate 4 Slot.zero)] } else q }

/-- Memory that holds runs, given in rising order of address. -/
def memOf (l : List (Nat × Bytes)) : Memory :=
  { cells := (l.map fun x => (x.2.zipIdx.map fun y => (x.1 + y.2, y.1)).filter fun c => c.2 != 0).flatten,
    smudged := [] }

/-- A descriptor of an opcode with its header as Table 8 of 10 has it. -/
def desc (op : Nat) (fs : List (Nat × Nat × Nat)) : Bytes :=
  pack 128 ([(0, 1, op), (2, 1, 0xFF), (4, 2, 128)] ++ fs)

/-- The module whose context 1 has a command next in its list, with runs before and after the list. -/
def cmd (d : Bytes) (lo hi : List (Nat × Bytes)) : State :=
  { withCtx with mem := memOf (lo ++ [(0x10000 + 128 * 5, d)] ++ hi) }

/-- The checks of `Fetched` for context 1 of such a module. -/
def fetchedCheck (s : State) (n : Nat) (c : Ctx) (l : CmdList) (d : Bytes) : Bool :=
  s.running && decide (s.ctx? n = some c) && decide (c.state = .running) && c.resident && decide (c.list = some l) &&
    s.canBegin c && (match s.vread n (l.place l.next) 128 with
      | .ok x => decide (x = d)
      | .error _ => false) && headerOk d

/-- The checks say `Fetched`. -/
theorem fetched_of {s : State} {n : Nat} {c : Ctx} {l : CmdList} {d : Bytes} (h : fetchedCheck s n c l d = true) :
    Fetched s n c l d := by
  simp only [fetchedCheck, Bool.and_eq_true, decide_eq_true_eq] at h
  obtain ⟨⟨⟨⟨⟨⟨⟨h1, h2⟩, h3⟩, h4⟩, h5⟩, h6⟩, h7⟩, h8⟩ := h
  split at h7
  · next x hx => exact ⟨h1, h2, h3, h4, h5, h6, by rw [hx, of_decide_eq_true h7], h8⟩
  · exact absurd h7 (by decide)

/-- The list of context 1. -/
def list1 : CmdList := { base := 0x10000, cap := 64, start := 5, stop := 9, next := 5, begun := 5, done := 5, ended := [] }

/-- A context of a state and a check of it. -/
def ctxIs (t : State) (n : Nat) (f : Ctx → Bool) : Bool := (t.ctx? n).any f

/-- The command of index 5 has completed. -/
def ended5 (t : State) : Bool := ctxIs t 1 fun c => c.list.any fun l => l.done == 6

/-- The context halted on a fault of a code. -/
def faulted (t : State) (code : Code) : Bool := ctxIs t 1 fun c => c.state == .halted && c.fault.code == code

/-! ### WellFormed refuses -/

/-- A host port beyond H3. -/
theorem test_wf_port : (Instr.portLinkDown 4).wf = false := by decide

/-- A management slot beyond 7, a context slot beyond 3, a context beyond 1,023. -/
theorem test_wf_slot : (Instr.claim { port := 0, box := none, slot := 8 }).wf = false ∧
    (Instr.listSet { port := 0, box := some 1, slot := 4 }).wf = false ∧
    (Instr.listSet { port := 0, box := some 1024, slot := 0 }).wf = false := by decide

/-- A row, a link, a device, a unit and a sensor that no part has, and an access beyond the aperture. -/
theorem test_wf_numbers : (Instr.stackRowRemap { site := 8, chan := 0, bank := 0, row := 0 } false).wf = false ∧
    (Instr.subportUp 192).wf = false ∧ (Instr.ackTimer 4096).wf = false ∧
    (Instr.configApply (.portGroup 6)).wf = false ∧ (Instr.sensorReading (.core 128) .failed).wf = false ∧
    (Instr.apertureRead 0 (2 ^ 36) 1).wf = false ∧ (Instr.nop 1024).wf = false ∧ (Instr.moverChunk ⟨16, []⟩).wf = false ∧
    (Instr.sliceEnd 8).wf = false ∧ (Instr.loopbackDone []).wf = false ∧ (Instr.apertureArm 0 16 0).wf = false ∧
    (Instr.msixUnmask 0 2048).wf = false ∧ (Instr.fabPrbsCtlWrite 0 24 0).wf = false ∧
    (Instr.registerWrite none 256 []).wf = false ∧ (Instr.scrubRead true 32 0 .clean).wf = false ∧
    (Instr.dmaWindowCloseDone 0 256).wf = false ∧ (Instr.stackTempReading 8 0).wf = false := by decide

/-- A faulty row of a start, and counter reads and writes beyond BAR0. -/
theorem test_wf_ranges : (Instr.counterLowRead 0 (2 ^ 24)).wf = false ∧
    (Instr.registerWrite (some 0) (2 ^ 24) [0]).wf = false ∧ (Instr.registerWrite (some 4) 0 []).wf = false ∧
    (Instr.turnTake 8 0).wf = false ∧ (Instr.memUnmapApply 1024).wf = false := by decide

/-- What a unit meets beyond the stacks, the cores or the expanders of any part, and a configuration R534 does not admit. -/
theorem test_wf_meets : (Instr.moverChunk ⟨0, [{ bulk := false, unit := 8, offset := 0, found := .corrected }]⟩).wf = false ∧
    (Instr.moverChunk ⟨0, [{ bulk := true, unit := 31, offset := 2 ^ 36, found := .corrected }]⟩).wf = false ∧
    (Instr.matmul 1 { coreSram := some 128, expSram := none }).wf = false ∧
    (Instr.matmul 1 { coreSram := none, expSram := some 32 }).wf = false ∧
    (Instr.expand 1 { coreSram := none, expSram := none, expCorr := [32] }).wf = false ∧
    (Instr.portHotReset 0 .linkReturn (some { speed := 6, width := 16, flit := true, cfg := { bar2Gib := 128, payload := 512, readReq := 4096, msixOn := true, msixMask := false } })).wf = false := by
  decide

/-! ### The queue and the mailboxes -/

/-- The front command runs, and an empty queue idles. -/
theorem witness_step : ({ State.reset with pending := [.ccxWatchdog] } : State).pending = .ccxWatchdog :: [] ∧
    State.reset.pending = [] := by decide

/-- Memory in canonical form that a step keeps. -/
theorem witness_canonical : State.reset.mem.wf = true ∧ step State.reset = .next State.reset := ⟨by decide +kernel, rfl⟩

/-- Legal duties. -/
theorem witness_duties : HeatLegal State.reset.heat := by
  refine ⟨?_, ?_, ?_, ?_, ?_⟩ <;> decide +kernel

/-- A slot that stands taken discards writes. -/
theorem witness_sealed_slot :
    let s := mail ready (sealed 0x0201 [])
    s.phase = .ready ∧ (s.port 0).reaches = true ∧ (s.port 0).frozen = false ∧ slot0.ok = true ∧
      s.slot? slot0 = some (sealed 0x0201 []) ∧ (sealed 0x0201 []).length = 256 ∧ s.wr = [] ∧
      sealState (slotSealWord (sealed 0x0201 [])) = 1 ∧
      gives (.slotSeal slot0 0) s (fun t => (t.port 0).discards == 1 && t.slot? slot0 == s.slot? slot0) = true := by
  decide +kernel

/-- A free slot is sealed by its SEAL word; STATE 2 is never written. -/
theorem witness_free_slot :
    let x := (Slot.zero)
    ready.slot? slot0 = some x ∧ x.length = 256 ∧ sealState (slotSealWord x) = 0 ∧ sealState 0x70001 = 1 ∧
      2 ≤ sealState 2 ∧ gives (.slotSeal slot0 0x70001) ready (fun t => (t.slot? slot0).any fun b => byteAt b 0 == 1) =
        true ∧ gives (.slotSeal slot0 2) ready (fun t => (t.port 0).discards == 1) = true := by
  decide +kernel
/-- A refused message, the third malformed one, and one that is held. -/
theorem witness_refused :
    let b := sealed 0x0201 [(5, 1, 1)]
    let s := mail ready b
    Next s slot0 .queryCaps b ∧ s.takeRefusal b (msgAt s slot0 b) = some Err.capsInvalid ∧
      s.mustHold (msgAt s slot0 b) s.ccx.msgs = false ∧ (s.port 0).malformed < 2 ∧ s.wr = [] ∧ gives (.queryCaps slot0) s (fun t => replied t slot0 Err.capsInvalid) = true :=
  ⟨next_of (by decide +kernel), by decide +kernel⟩

theorem witness_third_malformed :
    let b := sealed 0x0201 [(5, 1, 1)]
    let s := (mail ready b).updPort 0 fun q => { q with malformed := 2 }
    Next s slot0 .queryCaps b ∧ (s.takeRefusal b (msgAt s slot0 b)).isSome = true ∧
      s.mustHold (msgAt s slot0 b) s.ccx.msgs = false ∧ malformed b (msgAt s slot0 b) = true ∧ (s.port 0).malformed = 2 ∧
      gives (.queryCaps slot0) s (fun t => (t.port 0).frozen) = true :=
  ⟨next_of (by decide +kernel), by decide +kernel⟩

/-- A waiting owner-only message. -/
def waits1 : Msg :=
  { port := 0, box := none, slot := 5, seq := 1, tag := 1, notify := false, opcode := 0x0301, body := zeros 240,
    state := .waiting, discard := false }

/-- The state with a message that waits. -/
def busyCcx : State := { ready with ccx := { Ccx.reset with takeSeq := 0xFFFFFFFF, msgs := [waits1] } }

theorem witness_held :
    let b := sealed 0x0C05 []
    let s := mail busyCcx b
    Next s slot0 .journalCompact b ∧ s.takeRefusal b (msgAt s slot0 b) = none ∧
      s.mustHold (msgAt s slot0 b) s.ccx.msgs = true ∧ s.wr = [] ∧
      gives (.journalCompact slot0) s (fun t => t.ccx.takeSeq == 1 && t.ccx.msgs.length == 2) = true :=
  ⟨next_of (by decide +kernel), by decide +kernel⟩

/-- A held message that nothing holds any more. -/
def heldOne (op : BitVec 16) (body : Bytes) : State :=
  { mail ready (sealed 0x0201 []) with
    ccx := { Ccx.reset with
      msgs := [{ port := 0, box := none, slot := 0, seq := 1, tag := 7, notify := false, opcode := op, body := body,
                 state := .held, discard := false }] } }

theorem witness_release :
    let s := heldOne 0x0C05 (zeros 240)
    s.running = true ∧ (∃ m x, s.releasable = some m ∧ m.form? = some .journalCompact ∧ m.port < s.ports.length ∧
      s.slot? { port := m.port, box := m.box, slot := m.slot } = some x ∧ m.discard = false ∧
      Form.journalCompact.reservedOk m.body = true ∧ s.ctxRefusal .journalCompact m = none) ∧
      gives .heldMessageRelease s (fun t => t.store.compacting) = true := by
  refine ⟨by decide +kernel, ⟨_, _, rfl, ?_, ?_, rfl, ?_, ?_, ?_⟩, ?_⟩ <;> decide +kernel

theorem witness_release_refused :
    let s := heldOne 0x0202 (pack 240 [(0, 4, 5)])
    s.running = true ∧ (∃ m x, s.releasable = some m ∧ m.form? = some .listSet ∧ m.port < s.ports.length ∧
      s.slot? { port := m.port, box := m.box, slot := m.slot } = some x ∧ m.discard = false ∧
      Form.listSet.reservedOk m.body = true ∧ s.ctxRefusal .listSet m = some Err.listInvalid) ∧
      gives .heldMessageRelease s (fun t => replied t slot0 Err.listInvalid) = true := by
  refine ⟨by decide +kernel, ⟨_, _, rfl, ?_, ?_, rfl, ?_, ?_, ?_⟩, ?_⟩ <;> decide +kernel

theorem witness_release_malformed :
    let s := heldOne 0x0201 (pack 240 [(5, 1, 1)])
    s.running = true ∧ (∃ m x, s.releasable = some m ∧ m.form? = some .queryCaps ∧ m.port < s.ports.length ∧
      s.slot? { port := m.port, box := m.box, slot := m.slot } = some x ∧ m.discard = false ∧ m.freezes = false ∧
      Form.queryCaps.reservedOk m.body = false) ∧
      gives .heldMessageRelease s (fun t => replied t slot0 Err.capsInvalid) = true := by
  refine ⟨by decide +kernel, ⟨_, _, rfl, ?_, ?_, rfl, ?_, ?_, ?_⟩, ?_⟩ <;> decide +kernel

theorem witness_release_reply :
    let s := heldOne 0x0201 (zeros 240)
    (∃ m u code body, s.releasable = some m ∧ carryOf .queryCaps
        { s with ccx := { s.ccx with msgs := s.ccx.msgs.filter fun y => y.seq != m.seq } } m = .reply u code body ∧
      code = 0) ∧ gives .heldMessageRelease s (fun t => replied t slot0 0) = true := by
  refine ⟨⟨_, _, _, _, rfl, rfl, ?_⟩, ?_⟩ <;> decide +kernel

/-- A round over empty mailboxes, an SRAM error and a missing heartbeat. -/
theorem witness_heartbeat :
    ready.running = true ∧ ready.wr = [] ∧ ready.phase = .ready ∧ ready.ccx.halted = false ∧
      (∀ p, p < 4 → ((ready.port p).box? none).bind lowestSealed = none ∧ (ready.port p).boxes = []) ∧
      gives (.scanRound .clean) ready (fun t => t.ccx.heartbeat == 1) = true ∧
      gives (.scanRound .corrected) ready (fun t => t.ccx.heartbeat == 1 && t.ccx.eccCorr == 1) = true ∧
      gives (.scanRound .uncorrectable) ready (fun t => t.ccx.haltCode == 0x020A) = true ∧
      gives .ccxWatchdog ready (fun t => t.ccx.haltCode == 0x020B) = true := by decide +kernel

/-! ### Ownership and ports -/

/-- The ready module without an owner, and with an election that has two claims. -/
def noOwner : State := { ready with own := { owner := none, electing := false, claims := [], offer := none } }

def electing : State :=
  { ready with own := { owner := none, electing := true, offer := none,
                        claims := [{ port := 2, priority := 9, seq := 1, alive := true },
                                   { port := 1, priority := 9, seq := 2, alive := true }] } }

theorem witness_claim :
    let b := sealed 0x0101 [(0, 1, 255)]
    Taken (mail ready b) slot0 .claim b ∧ Taken (mail noOwner b) slot0 .claim b ∧
      (mail ready b).wr = [] ∧ (mail ready b).own.owner = some 0 ∧ (mail noOwner b).own.owner = none ∧
      gives (.claim slot0) (mail noOwner b) (fun t => t.own.electing && t.ccx.msgs.length == 1) = true ∧
      gives (.claim slot0) (mail ready b) (fun t => replied t slot0 0 && !t.own.electing) = true :=
  ⟨taken_of (by decide +kernel), taken_of (by decide +kernel), by decide +kernel⟩

theorem witness_election :
    electing.running = true ∧ electing.own.electing = true ∧ electing.own.claims ≠ [] ∧ electing.wr = [] ∧
      gives .electionClose electing (fun t => t.own.owner == some 1) = true := by decide +kernel

theorem witness_handover :
    let b := sealed 0x0102 [(0, 1, 3)]
    let b' := sealed 0x0102 [(0, 1, 0)]
    let b'' := sealed 0x0102 [(0, 1, 0xFF)]
    Taken (mail ready b) slot0 .handover b ∧ Taken (mail ready b') slot0 .handover b' ∧
      Taken (mail ready b'') slot0 .handoverResign b'' ∧ (ready.port 3).reaches = true ∧ (ready.port 3).frozen = false ∧
      ready.wr = [] ∧
      gives (.handover slot0) (mail ready b) (fun t => t.own.offer == some (0, 3)) = true ∧
      gives (.handover slot0) (mail ready b') (fun t => replied t slot0 0x0104) = true ∧
      gives (.handoverResign slot0) (mail ready b'') (fun t => t.own.owner == none && t.own.electing) = true :=
  ⟨taken_of (by decide +kernel), taken_of (by decide +kernel), taken_of (by decide +kernel), by decide +kernel⟩

theorem witness_accept :
    let b := sealed 0x0103 [(0, 1, 3)]
    let s := mail { ready with own := { owner := some 3, electing := false, claims := [], offer := some (3, 0) } } b
    Taken s slot0 .accept b ∧ Taken (mail ready b) slot0 .accept b ∧
      s.own.offer = some ((byteAt (slotBody b) 0).toNat, 0) ∧ ready.own.offer = none ∧ s.wr = [] ∧
      gives (.accept slot0) s (fun t => t.own.owner == some 0) = true ∧
      gives (.accept slot0) (mail ready b) (fun t => replied t slot0 0x0104) = true ∧ s.running = true ∧
      gives .handoverOfferExpire s (fun t => t.own.offer == none) = true :=
  ⟨taken_of (by decide +kernel), taken_of (by decide +kernel), by decide +kernel⟩

theorem witness_thaw :
    let b := sealed 0x0104 [(0, 1, 3)]
    let s := mail (ready.updPort 3 fun q => { q with frozen := true }) b
    Taken s slot0 .portThaw b ∧ Taken (mail ready b) slot0 .portThaw b ∧ (s.port 3).present = true ∧
      (s.port 3).frozen = true ∧ (s.port 3).linkUp = true ∧ s.wr = [] ∧ (ready.port 3).frozen = false ∧
      gives (.portThaw slot0) s (fun t => !(t.port 3).frozen && (t.port 3).epoch == 1) = true ∧
      gives (.portThaw slot0) (mail ready b) (fun t => replied t slot0 0x0105) = true :=
  ⟨taken_of (by decide +kernel), taken_of (by decide +kernel), by decide +kernel⟩

theorem witness_link_down :
    ready.phase = .ready ∧ (ready.port 0).present = true ∧ (ready.port 0).linkUp = true ∧ ready.wr = [] ∧
      ready.own.owner = some 0 ∧ ready.own.owner ≠ some 1 ∧
      gives (.portLinkDown 0) ready (fun t => t.own.owner == none && (t.port 0).epoch == 1) = true ∧
      gives (.portLinkDown 1) ready (fun t => t.own.owner == some 0) = true ∧
      gives (.portHotReset 0 .perst none) ready (fun t => t.own.electing) = true ∧
      gives (.portHotReset 1 .flr none) ready (fun t => t.own.owner == some 0) = true ∧ ResetKind.perst ≠ .linkReturn := by
  decide +kernel

theorem witness_retry :
    State.reset.phase = .inReset ∧ State.reset.wr = [] ∧ ({ ready with phase := .startHalted } : State).phase = .startHalted ∧
      gives (.pcieConfigRequestRetry 2) State.reset (fun t => t.out == [.retryStatus 2]) = true := by decide +kernel

/-! ### Windows, apertures and registers -/

/-- Port 0 with window 3 open, closed or closing. -/
def windowed (closing : List Nat) : State :=
  ready.updPort 0 fun q =>
    { q with windows := [{ index := 3, read := true, write := false, noSnoop := false, relaxed := false,
                           hostAddr := 0x1000, length := 0x2000, closing := closing }] }

/-- A chunk held toward window 3. -/
def toward : State :=
  { windowed [] with
    held := [{ port := 0, win := 3, job := 0, seg := 0, chunk := 0, released := false }]
    jobs := [job 0 .copy [seg 0 (2 ^ 60 + 3 * 2 ^ 48) 0 64 1]] }

theorem witness_window_open :
    let b := sealed 0x0105 [(1, 1, 3), (2, 1, 15), (8, 8, 0x1000), (16, 8, 2 ^ 48)]
    let c := sealed 0x0105 [(1, 1, 3), (2, 1, 15), (8, 8, 0x1008), (16, 8, 2 ^ 48)]
    Taken (mail ready b) slot0 .dmaOpen b ∧ dmaOpenBody (slotBody b) ∧ (mail ready b).window? 0 3 = none ∧
      ready.wr = [] ∧ Taken (mail (windowed []) b) slot0 .dmaOpen b ∧ ((windowed []).window? 0 3).isSome = true ∧
      Taken (mail ready c) slot0 .dmaOpen c ∧ ¬dmaOpenBody (slotBody c) ∧
      gives (.dmaWindowOpen slot0) (mail ready b) (fun t => (t.port 0).windows.length == 1) = true ∧
      gives (.dmaWindowOpen slot0) (mail (windowed []) b) (fun t => replied t slot0 0x0106) = true ∧
      gives (.dmaWindowOpen slot0) (mail ready c) (fun t => replied t slot0 0x0106) = true := by
  refine ⟨taken_of (by decide +kernel), ?_, by decide +kernel, by decide +kernel, taken_of (by decide +kernel),
    by decide +kernel, taken_of (by decide +kernel), ?_, by decide +kernel⟩
  · unfold dmaOpenBody; decide +kernel
  · unfold dmaOpenBody; decide +kernel

theorem witness_window_close :
    let b := sealed 0x0105 [(0, 1, 1), (1, 1, 3)]
    Taken (mail (windowed []) b) slot0 .dmaClose b ∧ Taken (mail toward b) slot0 .dmaClose b ∧
      Taken (mail ready b) slot0 .dmaClose b ∧ (windowed []).towardWindow 0 3 = false ∧ toward.towardWindow 0 3 = true ∧
      (toward.window? 0 3).isSome = true ∧ (windowed [1]).towardWindow 0 3 = false ∧ (windowed [1]).running = true ∧
      ((windowed [1]).window? 0 3).any (fun y => y.closing != []) = true ∧
      gives (.dmaWindowClose slot0) (mail (windowed []) b) (fun t => (t.window? 0 3).isNone) = true ∧
      gives (.dmaWindowClose slot0) (mail toward b) (fun t => (t.window? 0 3).isSome && t.ccx.msgs.length == 1) = true ∧
      gives (.dmaWindowClose slot0) (mail ready b) (fun t => replied t slot0 0x0106) = true ∧
      gives (.dmaWindowCloseDone 0 3) (windowed [1]) (fun t => (t.window? 0 3).isNone) = true :=
  ⟨taken_of (by decide +kernel), taken_of (by decide +kernel), taken_of (by decide +kernel), by decide +kernel⟩
/-- An aperture segment staged with a legal base, and with an illegal one. -/
def staged (base : Nat) : State :=
  withCtx.updPort 0 fun q =>
    { q with segs := q.segs.set 2 { Segment.reset with baseLo := BitVec.ofNat 32 base, baseHi := BitVec.ofNat 32 (base / 2 ^ 32) } }

theorem witness_arm :
    let s := staged (2 ^ 48 - 2 ^ 32)
    let v : Word := 0xC0000001
    s.phase = .ready ∧ (s.port 0).reaches = true ∧ (s.port 0).frozen = false ∧ 2 < (s.port 0).segs.length ∧ s.wr = [] ∧
      v.getLsbD 31 = true ∧ s.holds 0 (v.toNat % 1024) = true ∧
      gives (.apertureArm 0 2 v) s (fun t => (t.seg 0 2).valid && (t.seg 0 2).armedCtx == 1) = true ∧
      (staged (2 ^ 20)).holds 0 1 = true ∧ 2 ^ 20 % 2 ^ 21 ≠ 0 ∧
      gives (.apertureArm 0 2 v) (staged (2 ^ 20)) (fun t => !(t.seg 0 2).valid && (t.seg 0 2).refused) = true ∧
      (0x3FF : Word).getLsbD 31 = false ∧
      gives (.apertureDisarm 0 2 0x3FF) s (fun t => (t.seg 0 2).ctx == 0x3FF) = true := by decide +kernel

/-- Segment 0 armed for context 1 at address 0. -/
def armed : State :=
  withCtx.updPort 0 fun q =>
    { q with segs := q.segs.set 0 { Segment.reset with valid := true, armedCtx := 1, armedWrite := true } }

theorem witness_aperture :
    armed.phase = .ready ∧ (armed.port 0).reaches = true ∧ armed.wr = [] ∧ armed.mem.wf = true ∧
      (armed.port 0).frozen = false ∧ armed.apertureRun 0 8 2 true = some [8, 9] ∧ [8, 9].Nodup ∧
      armed.apertureRun 0 (2 ^ 21) 1 true = none ∧ armed.apertureRun 0 8 2 false = some [8, 9] ∧
      armed.apertureRun 0 (2 ^ 21 - 1) 2 false = none ∧
      gives (.apertureWrite 0 8 [1, 2]) armed (fun t => t.mem.get 9 == 2) = true ∧
      gives (.apertureWrite 0 (2 ^ 21) [1]) armed (fun t => (t.port 0).frozen) = true ∧
      gives (.apertureRead 0 8 2) armed (fun t => t.out == [.readData 0 [0, 0]]) = true ∧
      gives (.apertureRead 0 (2 ^ 21 - 1) 2) armed (fun t => t.out.contains (.readData 0 [0xFF, 0xFF])) = true ∧
      (let f := armed.updPort 0 fun q => { q with frozen := true }
       (f.port 0).frozen = true ∧ gives (.apertureWrite 0 8 [1]) f (fun t => (t.port 0).discards == 1) = true ∧
         gives (.apertureRead 0 8 1) f (fun t => t.out == [.readData 0 [0xFF]]) = true) := by decide +kernel

/-- Registers with rows of their own. -/
def service : State := { ready with ccx := { Ccx.reset with service := true } }

theorem witness_registers :
    ready.phase = .ready ∧ (ready.port 0).reaches = true ∧ (ready.port 0).frozen = false ∧ ready.wr = [] ∧
      isCounter 0x11E088 = true ∧ ready.hasFabric = true ∧ service.armInvalid 0xA50BFF00 = false ∧
      service.armInvalid 0xA50B0501 = false ∧
      ready.own.owner = some 0 ∧ service.ccx.service = true ∧ ready.ccx.service = false ∧ ready.own.owner ≠ some 1 ∧
      gives (.hpcEventsClear 0 0xFFFFFFFF) ready (fun t => (t.port 0).events == 0) = true ∧
      gives (.registerWrite (some 0) 0x1014 [0xFF, 0, 0, 0]) ready (fun t => (t.port 0).eventEn == 0x1F) = true ∧
      gives (.msixUnmask 0 2047) (ready.updPort 0 fun q => { q with pba := [2047] }) (fun t => t.out == [.msix 0 2047]) =
        true ∧
      gives (.fabPrbsCtlWrite 0 23 0xFFFFFFFF) service (fun t => (t.fport 23).staged == some 0xFE00FFFF) = true ∧
      gives (.fabPrbsCtlWrite 0 23 0) ready (fun t => t.ccx.dbgCode == Err.debugLocked) = true ∧
      gives (.debugArm 0 0xA50BFF00) service (fun t => t.ccx.dbgWaiting == [0, 1, 2, 3, 4, 5]) = true ∧
      gives (.debugDiscard 0 0xA50B0501) (service.updFport 20 fun f => { f with staged := some 1 }) (fun t => (t.fport 20).staged == none) =
        true ∧
      gives (.counterLowRead 0 0x11E088) ready (fun t => t.out == [.readData 0 [0, 0, 0, 0]]) = true ∧
      gives (.debugArm 1 2) ready (fun t => (t.port 1).frozen) = true := by decide +kernel

/-! ### Contexts, lists and capabilities -/

theorem witness_ctx_create :
    let b := sealed 0x0302 [(0, 4, 1023), (14, 2, 9), (16, 8, 2 ^ 21), (24, 8, 0)]
    let s := mail withCtx b
    Taken s slot0 .ctxCreate b ∧ s.createOk (slotBody b) = true ∧ s.ctx? 1023 = none ∧ s.grantCount 0 < 256 ∧
      (byteAt (slotBody b) 6).getLsbD 1 = false ∧ s.wr = [] ∧
      gives (.ctxCreate slot0) s (fun t => ctxIs t 1023 fun c => c.state == .idle && c.grants == [(0, 9)]) = true :=
  ⟨taken_of (by decide +kernel), by decide +kernel⟩

/-- Context 1 is also granted to port 2. -/
def granted2 : State :=
  { withCtx with ctxs := [{ ctx 1 with grants := [(0, 0), (2, 4)] }]
                 ports := withCtx.ports.mapIdx fun i q =>
                   if i = 2 then { q with boxes := [(1, List.replicate 4 Slot.zero)] } else q }

/-- 255 other contexts granted to port 3, and one more. -/
def full3 : State :=
  { withCtx with ctxs := ctx 1 :: (List.range 256).map fun i => { ctx (i + 2) with home := 3, grants := [(3, 0)] } }

theorem witness_grant :
    let b := sealed 0x0303 [(0, 4, 1), (4, 1, 3), (6, 2, 2047)]
    let b0 := sealed 0x0303 [(0, 4, 1)]
    Taken (mail withCtx b) slot0 .ctxGrant b ∧ Taken (mail full3 b) slot0 .ctxGrant b ∧
      Taken (mail withCtx b0) slot0 .ctxGrant b0 ∧ withCtx.wr = [] ∧ withCtx.ctx? 1 = some (ctx 1) ∧
      (withCtx.port 3).present = true ∧ (ctx 1).granted 3 = false ∧ withCtx.grantCount 3 < 256 ∧
      256 ≤ full3.grantCount 3 ∧ full3.ctx? 1 = some (ctx 1) ∧ (ctx 1).granted 0 = true ∧
      gives (.ctxGrant slot0) (mail withCtx b) (fun t => ctxIs t 1 fun c => c.grants == [(0, 0), (3, 2047)]) = true ∧
      gives (.ctxGrant slot0) (mail full3 b) (fun t => replied t slot0 0x0303) = true ∧
      gives (.ctxGrant slot0) (mail withCtx b0) (fun t => replied t slot0 0x0302) = true :=
  ⟨taken_of (by decide +kernel), taken_of (by decide +kernel), taken_of (by decide +kernel), by decide +kernel⟩

theorem witness_revoke :
    let b := sealed 0x0303 [(0, 4, 1), (4, 1, 2), (5, 1, 1)]
    let b0 := sealed 0x0303 [(0, 4, 1), (5, 1, 1)]
    Taken (mail granted2 b) slot0 .ctxRevoke b ∧ Taken (mail granted2 b0) slot0 .ctxRevoke b0 ∧
      granted2.ctx? 1 = some { ctx 1 with grants := [(0, 0), (2, 4)] } ∧
      gives (.ctxRevoke slot0) (mail granted2 b) (fun t => ctxIs t 1 fun c => c.grants == [(0, 0)]) = true ∧
      gives (.ctxRevoke slot0) (mail granted2 b0) (fun t => replied t slot0 0x0302) = true :=
  ⟨taken_of (by decide +kernel), taken_of (by decide +kernel), by decide +kernel⟩

theorem witness_destroy :
    let b := sealed 0x0304 [(0, 4, 1)]
    let dead : State := { withCtx with ctxs := [{ ctx 1 with state := .dead, mailbox := false, list := none }] }
    let ending : State := { withCtx with ctxs := [{ ctx 1 with state := .closing }] }
    Taken (mail withCtx b) slot0 .ctxDestroy b ∧ Taken (mail dead b) slot0 .ctxDestroy b ∧ withCtx.wr = [] ∧
      ctxIs withCtx 1 (fun c => c.live) = true ∧ ctxIs dead 1 (fun c => c.state == .dead) = true ∧
      ending.running = true ∧ ending.readsOut 1 = false ∧ ending.openReqs 1 = false ∧ ending.ordsBegun 1 [] = false ∧
      ending.ccx.msgs = [] ∧
      gives (.ctxDestroy slot0) (mail withCtx b) (fun t => (ctxIs t 1 fun c => c.state == .closing) && t.ctxEpoch 1 == 2) =
        true ∧
      gives (.ctxDestroy slot0) (mail dead b) (fun t => t.ctxs.isEmpty) = true ∧
      gives (.teardownFinish 1) ending (fun t => (ctxIs t 1 fun c => c.state == .dead) && t.maps.isEmpty) = true :=
  ⟨taken_of (by decide +kernel), taken_of (by decide +kernel), by decide +kernel⟩

theorem witness_list_set :
    let b := sealed 0x0202 [(0, 4, 1), (8, 8, 0x1FE000), (16, 4, 64), (20, 4, 0xFFFFFFFF)]
    let s := mail { withCtx with ctxs := [{ ctx 1 with list := none }] } b
    Taken s slot0 .listSet b ∧ s.wr = [] ∧ ctxIs s 1 (fun c => c.begun == [] && c.list == none) = true ∧
      leAt (slotBody b) 8 8 % 4096 = 0 ∧ leAt (slotBody b) 8 8 < 2 ^ 48 ∧ capOk (leAt (slotBody b) 16 4) = true ∧
      s.mapped 1 (leAt (slotBody b) 8 8) (leAt (slotBody b) 16 4 * 128) = true ∧
      gives (.listSet slot0) s (fun t => ctxIs t 1 fun c => c.list.any fun l => l.stop == 0xFFFFFFFF) = true :=
  ⟨taken_of (by decide +kernel), by decide +kernel⟩

theorem witness_list_extend :
    let b := sealed 0x0203 [(0, 4, 1), (4, 4, 69)]
    let c := sealed 0x0203 [(0, 4, 1), (4, 4, 70)]
    let none' : State := { withCtx with ctxs := [{ ctx 1 with list := none }] }
    Taken (mail withCtx b) slot0 .listExtend b ∧ Taken (mail withCtx c) slot0 .listExtend c ∧
      Taken (mail none' b) slot0 .listExtend b ∧ (ctx 1).list = some list1 ∧
      ((69 : Word) - list1.done).toNat ≤ list1.cap ∧ ((69 : Word) - list1.stop).toNat ≤ list1.cap ∧
      list1.cap < ((70 : Word) - list1.done).toNat ∧
      gives (.listExtend slot0) (mail withCtx b) (fun t => ctxIs t 1 fun c => c.list.any fun l => l.stop == 69) = true ∧
      gives (.listExtend slot0) (mail withCtx c) (fun t => replied t slot0 0x0205) = true ∧
      gives (.listExtend slot0) (mail none' b) (fun t => replied t slot0 0x0204) = true :=
  ⟨taken_of (by decide +kernel), taken_of (by decide +kernel), taken_of (by decide +kernel), by decide +kernel⟩

theorem witness_caps :
    let b := sealed 0x0201 [(0, 1, 17)]
    let c := sealed 0x0201 [(0, 1, 18)]
    Taken (mail ready b) slot0 .queryCaps b ∧ Taken (mail ready c) slot0 .queryCaps c ∧ ready.wr = [] ∧
      gives (.queryCaps slot0) (mail ready b) (fun t => replied t slot0 0) = true ∧
      gives (.queryCaps slot0) (mail ready c) (fun t => replied t slot0 0x0207) = true :=
  ⟨taken_of (by decide +kernel), taken_of (by decide +kernel), by decide +kernel⟩

/-- A begun command of context 1. -/
def begun1 (op : Byte) (i : Word) (core : Bool) : Begun :=
  { index := i, ord := 1, opcode := op, desc := desc op.toNat [], core := core, transfer := !core, long := false,
    preempted := false, irq := false, policy := 0, outs := [], tensors := [], waiting := false,
    record := { index := i, opcode := op, mode := 0, plan := 0, p := 1, cores := 0, busiest := 0, chainTag := 0,
                partLo := List.replicate 8 0, busy := 0, core := 0, stall := List.replicate 7 0, interfere := 0, nan := 0,
                freq := 0 },
    cls := 0, unitMode := 0, cores := [], build := none, hw := { coreSram := none, expSram := none } }

theorem witness_partitions :
    let b := sealed 0x0301 [(0, 1, 2), (8, 16, 0xF), (24, 16, 0xF0)]
    let x := sealed 0x0301 [(0, 1, 9)]
    let begun : State := { withCtx with ctxs := [{ ctx 1 with begun := [begun1 1 4 true] }] }
    let p : PendingPartition := { seq := 1, masks := [0xF], affected := [1] }
    let waits : State := { withCtx with partWait := some p }
    Taken (mail withCtx b) slot0 .partitionSet b ∧ Taken (mail withCtx x) slot0 .partitionSet x ∧
      Taken (mail begun b) slot0 .partitionSet b ∧ withCtx.wr = [] ∧ withCtx.partitionBad (slotBody b) = false ∧
      withCtx.partitionBad (slotBody x) = true ∧ (ctx 1).savePages = [] ∧ withCtx.coreBegun 1 = false ∧
      begun.coreBegun 1 = true ∧ begun.partitionBad (slotBody b) = false ∧
      (begun.partitions.getD 0 0 != ((List.range 2).map (bodyMask (slotBody b))).getD 0 0) = true ∧
      waits.running = true ∧ waits.partWait = some p ∧
      gives (.partitionSet slot0) (mail withCtx b) (fun t => t.partitions == [0xF, 0xF0]) = true ∧
      gives (.partitionSet slot0) (mail withCtx x) (fun t => replied t slot0 0x0305) = true ∧
      gives (.partitionSet slot0) (mail begun b) (fun t => t.partWait.isSome) = true ∧
      gives .partitionApply waits (fun t => t.partitions == [0xF]) = true :=
  ⟨taken_of (by decide +kernel), taken_of (by decide +kernel), taken_of (by decide +kernel), by decide +kernel⟩
/-! ### Memory -/

/-- Contexts 1 and 2, a step context, both home to port 0, each on a page of its own. -/
def two : State :=
  { withCtx with ctxs := [ctx 1, { ctx 2 with step := true, list := none, state := .idle, resident := false }],
                 maps := [map1 1 0, map1 2 (2 ^ 21)], nextMap := 3, fwPages := [2 ^ 23] }

/-- A position that passes is found, wherever the search starts. -/
theorem findFrom_some {n c j : Nat} {ok : Nat → Bool} (hj : j < n) (h : ok j = true) : ∃ k, findFrom n c ok = some k := by
  unfold findFrom
  split
  · exact ⟨_, rfl⟩
  · next hn =>
    rw [List.find?_eq_none] at hn
    have hc : c % n < n := Nat.mod_lt _ (by omega)
    have := hn ((j + (n - c % n)) % n) (List.mem_range.2 (Nat.mod_lt _ (by omega)))
    have hm : (c + (j + (n - c % n)) % n) % n = j := by
      rw [Nat.add_mod_mod]
      have h1 := Nat.div_add_mod c n
      have h2 : c + (j + (n - c % n)) = j + n * (c / n + 1) := by
        rw [Nat.mul_add, Nat.mul_one]; omega
      rw [h2, Nat.add_mul_mod_self_left, Nat.mod_eq_of_lt hj]
    rw [hm] at this
    exact absurd h this

/-- One stack page of site 0 is found while one is free. -/
theorem alloc_one (s : State) (j : Nat) (hj : j < 32768)
    (hf : firstUnits [0] 1 (s.freeIn .stack 2097152) = [0])
    (ho : s.usedStack.contains (stackAddr 0 (j * bigPage)) = false) :
    ∃ a, s.allocPages .stack 2097152 0 1 = some ([a], { s with free := s.free + 1 }) := by
  obtain ⟨k, hk⟩ := findFrom_some (n := sitePages) (c := Config.choice s.free % sitePages)
    (ok := fun i => !s.usedStack.contains (stackAddr 0 (i * bigPage))) hj (by rw [ho]; rfl)
  refine ⟨stackAddr 0 (k * bigPage), ?_⟩
  unfold State.allocPages
  rw [show (if (0 : Nat) ≠ 0xFF then [0] else match Tier.stack with
    | .stack => s.siteList
    | .bulk => s.pkgList) = [0] from rfl]
  simp only [hf]
  have h1 : s.takePage .stack 2097152 0 = some (stackAddr 0 (k * bigPage), { s with free := s.free + 1 }) := by
    simp only [State.takePage, State.choose, if_neg (show ¬ sitePages ≤ 1 by decide), hk, Option.map_some]
  simp [State.choose, State.takePages, h1, List.range_succ]

def allocMail : Bytes := sealed 0x0901 [(4, 1, 0), (8, 4, 1), (16, 8, 2 ^ 30), (24, 8, 2 ^ 21)]
def allocState : State := mail two allocMail

theorem witness_map_allocate :
    Taken allocState slot0 .mapAllocate allocMail ∧ allocState.wr = [] ∧ mapAllocateOk (slotBody allocMail) = true ∧
      allocState.overlaps 1 (2 ^ 30) (2 ^ 21) = false ∧ allocState.fits 1 (8 + 2 ^ 21) 0 = true ∧
      ∃ ps u v, (allocState.markTaken slot0 allocMail false).allocPages .stack 2097152 0 1 = some (ps, u) ∧
        ({ u with maps := u.maps ++
            [{ id := u.nextMap, ctx := 1, base := 2 ^ 30, length := 2 ^ 21, tier := .stack, psize := 2 ^ 21,
               readOnly := false, pages := ps, charged := 1, source := none }], nextMap := u.nextMap + 1 } : State).fitFw =
          some v := by
  refine ⟨taken_of (by decide +kernel), by decide +kernel, by decide +kernel, by decide +kernel, by decide +kernel, ?_⟩
  obtain ⟨a, ha⟩ := alloc_one (allocState.markTaken slot0 allocMail false) 5 (by decide) (by decide +kernel)
    (by decide +kernel)
  refine ⟨_, _, _, ha, if_pos ?_⟩
  have : ∀ (m : Mapping) (k : Nat), m.pages.length = 1 →
      ({ allocState with maps := allocState.maps ++ [m], nextMap := k } : State).fwBytes = 24 := by
    intro m k hm
    have h0 : allocState.maps = [map1 1 0, map1 2 (2 ^ 21)] := by decide +kernel
    have h1 : allocState.seqs = [] := by decide +kernel
    have h2 : allocState.entries = [] := by decide +kernel
    simp [State.fwBytes, h0, h1, h2, hm, map1]
  have h3 : (allocState.markTaken slot0 allocMail false).maps = allocState.maps := by decide +kernel
  have h4 : (allocState.markTaken slot0 allocMail false).fwPages = [2 ^ 23] := by decide +kernel
  have h5 : (allocState.markTaken slot0 allocMail false).seqs = allocState.seqs := by decide +kernel
  have h6 : (allocState.markTaken slot0 allocMail false).entries = allocState.entries := by decide +kernel
  have h7 := this { id := (allocState.markTaken slot0 allocMail false).nextMap, ctx := 1, base := 2 ^ 30, length := 2 ^ 21,
                    tier := .stack, psize := 2 ^ 21, readOnly := false, pages := [a], charged := 1, source := none } 0 rfl
  simp only [State.fwBytes] at h7 ⊢
  simp only [h3, h4, h5, h6]
  rw [h7]; decide

theorem witness_map_share :
    let b := sealed 0x0901 [(0, 1, 1), (8, 4, 2), (12, 4, 1), (16, 8, 2 ^ 47), (24, 8, 2 ^ 21)]
    let s := mail two b
    let ps := [(map1 1 0, 0, 2 ^ 21)]
    Taken s slot0 .mapShare b ∧ s.wr = [] ∧ s.shareParts 1 (s.maps.length + 1) 0 (2 ^ 21) = some ps ∧
      partsAligned (2 ^ 47) ps = true ∧ s.overlaps 2 (2 ^ 47) (2 ^ 21) = false ∧ s.fits 2 8 0 = true ∧
      ({ s.markTaken slot0 b false with maps := s.maps ++ shareMaps 2 false s.nextMap (2 ^ 47) ps,
                                        nextMap := s.nextMap + 1 } : State).fitFw.isSome = true ∧
      gives (.memMapShare slot0) s (fun t => t.maps.length == 3 && t.physOf 2 (2 ^ 47 + 7) == 7) = true :=
  ⟨taken_of (by decide +kernel), by decide +kernel⟩

def unmapMail : Bytes := sealed 0x0902 [(0, 4, 1), (8, 8, 0), (16, 8, 2 ^ 21)]

/-- Context 1 has a command begun. -/
def withBegun : State := { withCtx with ctxs := [{ ctx 1 with begun := [begun1 5 4 false] }] }

theorem witness_unmap :
    let bad := sealed 0x0902 [(0, 4, 1), (8, 8, 0), (16, 8, 65537)]
    let u : PendingUnmap := { ctx := 1, ids := [1], pages := 1, waits := [], affected := [1], seq := 1 }
    let pend : State := { withCtx with unmaps := [u] }
    Taken (mail withCtx unmapMail) slot0 .memUnmap unmapMail ∧ Taken (mail withBegun unmapMail) slot0 .memUnmap unmapMail ∧
      Taken (mail withCtx bad) slot0 .memUnmap bad ∧ withCtx.wr = [] ∧ withCtx.holdersOf [1] = [1] ∧
      withCtx.begunOf 1 = [] ∧ withBegun.begunOf 1 ≠ [] ∧ 65537 % 65536 ≠ 0 ∧ pend.running = true ∧
      pend.readyUnmap 1 = some u ∧
      gives (.memUnmap slot0) (mail withCtx unmapMail) (fun t => t.maps.isEmpty) = true ∧
      gives (.memUnmap slot0) (mail withBegun unmapMail) (fun t => t.maps.length == 1 && t.unmaps.length == 1) = true ∧
      gives (.memUnmap slot0) (mail withCtx bad) (fun t => replied t slot0 0x0905) = true ∧
      gives (.memUnmapApply 1) pend (fun t => t.maps.isEmpty && t.unmaps.isEmpty) = true :=
  ⟨taken_of (by decide +kernel), taken_of (by decide +kernel), taken_of (by decide +kernel), by decide +kernel⟩

theorem witness_repair_query :
    let b := sealed 0x0903 [(0, 1, 7), (1, 1, 31)]
    let c := sealed 0x0903 [(0, 1, 7), (1, 1, 32)]
    Taken (mail ready b) slot0 .repairQuery b ∧ Taken (mail ready c) slot0 .repairQuery c ∧ ready.wr = [] ∧
      7 < ready.sites.length ∧ (ready.site 7).present = true ∧
      gives (.repairQuery slot0) (mail ready b) (fun t => (t.slot? slot0).any fun x => byteAt x 16 == 0xAA) = true ∧
      gives (.repairQuery slot0) (mail ready c) (fun t => replied t slot0 0x0908) = true ∧
      gives (.scrubRead false 7 8192 .corrected) ready (fun t => (t.site 7).reads ⟨7, 0, 1, 0⟩ == 1) = true :=
  ⟨taken_of (by decide +kernel), taken_of (by decide +kernel), by decide +kernel⟩

theorem witness_row_remap :
    ready.running = true ∧ (ready.site 7).present = true ∧ 0 < (ready.site 7).spares 31 63 ∧ ready.store.room 1 = true ∧
      gives (.stackRowRemap ⟨7, 31, 63, 32767⟩ true) ready (fun t => (t.site 7).spares 31 63 == 1) = true ∧
      8 ≤ ((ready.updSite 7 fun x => { x with rowReads := [(31, 63, 1, 8)] }).site 7).reads ⟨7, 31, 63, 1⟩ := by
  decide +kernel

theorem witness_repair_apply :
    let b := sealed 0x0904 [(0, 1, 7), (1, 1, 31), (2, 1, 63), (4, 4, 32767)]
    let worn := ready.updSite 7 fun x => { x with used := [(31, 63, 1), (31, 63, 2)] }
    Taken (mail ready b) slot0 .repairApply b ∧ Taken (mail worn b) slot0 .repairApply b ∧
      0 < (ready.site 7).spares 31 63 ∧ (worn.site 7).spares 31 63 = 0 ∧ ready.store.reserveOnly = false ∧
      ready.store.room 1 = true ∧ 7 < ready.sites.length ∧
      gives (.repairApply slot0) (mail ready b) (fun t => (t.site 7).spares 31 63 == 1) = true ∧
      gives (.repairApply slot0) (mail worn b) (fun t => replied t slot0 0x0909) = true :=
  ⟨taken_of (by decide +kernel), taken_of (by decide +kernel), by decide +kernel⟩

theorem witness_page_replace :
    let p : PendingPage := { old := 0, new := 2 ^ 25, size := 2 ^ 21, copied := true }
    let s : State := { withCtx with pageMoves := [p] }
    s.wr = [] ∧ s.phase = .ready ∧ s.begunOf 1 = [] ∧
      (s.pageMoves.find? fun x => x.old == 0 && x.copied) = some p ∧ p.new ≠ p.old ∧
      gives (.pageReplace 1 0) s (fun t => t.physOf 1 7 == 2 ^ 25 + 7) = true := by decide +kernel

theorem witness_loopback :
    let b := sealed 0x0905 [(0, 1, 7), (1, 1, 3), (2, 1, 2), (4, 4, 2 ^ 24)]
    let m : Msg := { port := 0, box := none, slot := 0, seq := 1, tag := 7, notify := false, opcode := 0x0905,
                     body := slotBody b, state := .waiting, discard := false }
    let l : LoopRun := { seq := 1, site := 7, mask := 1 }
    let r : State := { mail service (sealed 0x0905 []) with loop := some l, ccx := { service.ccx with msgs := [m] } }
    Taken (mail service b) slot0 .loopback b ∧ service.wr = [] ∧ r.running = true ∧ r.loop = some l ∧
      (r.ccx.msgs.find? fun y => y.seq == l.seq && y.state == .waiting) = some m ∧ m.port < r.ports.length ∧
      (r.slot? slot0).isSome = true ∧
      gives (.loopback slot0) (mail service b) (fun t => t.loop.isSome) = true ∧
      gives (.loopbackDone (List.replicate 128 300)) r (fun t => (t.slot? slot0).any fun x =>
        byteAt x 16 == 255 && byteAt x 80 == 0) = true :=
  ⟨taken_of (by decide +kernel), by decide +kernel⟩

/-! ### Sequences and the step table -/

/-- A sequence of context 1. -/
def seq1 : Sequence :=
  { handle := 1, ctx := 1, fmt := 2, hkv := 1, d := 64, cap := 1, kld := 128, vld := 128, ringShare := false,
    bound := none, current := { version := 1, entries := [], length := 0, kscales := [], vscales := [] }, pending := none,
    retiring := [], walks := [], gone := false }

def withSeq : State := { two with seqs := [seq1], nextSeq := 2 }

theorem witness_pt_create :
    let b := sealed 0x0601 [(1, 1, 2), (4, 4, 1), (16, 2, 1), (18, 2, 64), (20, 4, 1), (24, 4, 0xFFFFFFFF), (32, 4, 128),
      (36, 4, 128)]
    let x := parsePt (slotBody b)
    let s := mail two b
    let q := { s.newSeq x with current := s.applyChange (s.newSeq x) { edits := [], length := none, scales := none } emptyVersion }
    Taken s slot0 .ptCreate b ∧ s.wr = [] ∧ x.flags ≤ 7 ∧ x.seq = 0 ∧ x.base = 0 ∧ s.ptShapeBad x = false ∧
      s.ptChange x (s.newSeq x) = some { edits := [], length := none, scales := none } ∧ x.fmt < 4 ∧
      s.fits x.ctx (48 * x.hkv * x.cap) 0 = true ∧
      ({ s.markTaken slot0 b false with seqs := s.seqs ++ [q], nextSeq := s.nextSeq + 1 } : State).fitFw.isSome = true ∧
      gives (.ptCommitCreate slot0) s (fun t => t.seqs.length == 1 && t.nextSeq == 2) = true :=
  ⟨taken_of (by decide +kernel), by decide +kernel⟩

theorem witness_pt_edit :
    let b := sealed 0x0601 [(0, 1, 1), (2, 1, 2), (4, 4, 1), (8, 4, 1), (12, 4, 1), (28, 4, 256)]
    let late := sealed 0x0601 [(0, 1, 1), (4, 4, 1), (8, 4, 1), (12, 4, 2)]
    let unknown := sealed 0x0601 [(0, 1, 1), (4, 4, 1), (8, 4, 9), (12, 4, 1)]
    Taken (mail withSeq b) slot0 .ptEdit b ∧ Taken (mail withSeq late) slot0 .ptEdit late ∧
      Taken (mail withSeq unknown) slot0 .ptEdit unknown ∧ withSeq.wr = [] ∧
      withSeq.ptNamed (parsePt (slotBody b)) = some seq1 ∧ (parsePt (slotBody b)).base = seq1.latest.version ∧
      withSeq.ptChange (parsePt (slotBody b)) seq1 = some { edits := [], length := some 256, scales := none } ∧
      seq1.hasFree = true ∧ withSeq.ptNamed (parsePt (slotBody late)) = some seq1 ∧
      (parsePt (slotBody late)).base ≠ seq1.latest.version ∧ withSeq.ptNamed (parsePt (slotBody unknown)) = none ∧
      gives (.ptCommitEdit slot0) (mail withSeq b) (fun t => (t.seq? 1).any fun q => q.pending.any fun v =>
        v.version == 2 && v.length == 256) = true ∧
      gives (.ptCommitEdit slot0) (mail withSeq late) (fun t => replied t slot0 0x060A) = true ∧
      gives (.ptCommitEdit slot0) (mail withSeq unknown) (fun t => replied t slot0 0x0603) = true :=
  ⟨taken_of (by decide +kernel), taken_of (by decide +kernel), taken_of (by decide +kernel), by decide +kernel⟩

theorem witness_pt_destroy :
    let b := sealed 0x0601 [(0, 1, 2), (4, 4, 1), (8, 4, 1), (12, 4, 1)]
    Taken (mail withSeq b) slot0 .ptDestroy b ∧ withSeq.ptNamed (parsePt (slotBody b)) = some seq1 ∧
      (parsePt (slotBody b)).changes = false ∧ (parsePt (slotBody b)).base = seq1.latest.version ∧
      gives (.ptCommitDestroy slot0) (mail withSeq b) (fun t => (t.seq? 1).isNone) = true :=
  ⟨taken_of (by decide +kernel), by decide +kernel⟩

/-- A step-table entry of contexts 1 and 2, in a state. -/
def entry1 (st : EntryState) : Entry :=
  { index := 0, model := 0, shape := 0, kind := 0, state := st, last := 0, reason := 0, retireReq := false, noroom := 0,
    stepIndex := 0, stepCount := 4, noise := 0, guidance := 0, priority := 1, condCount := 0, latent := 0, condAddr := 0,
    adapter := 0, ctx := 1, stepCtx := 2, user := zeros 48, list := 0, item := 0, buildSeq := 0, mark := false,
    itemFault := false, update := none }

def withEntry (st : EntryState) : State := { two with entries := [entry1 st] }

theorem witness_step_add :
    let b := sealed 0x0307 [(4, 4, 1), (8, 4, 2), (20, 4, 65535), (58, 2, 1)]
    let x := parseStep (slotBody b)
    let s := mail (withEntry .active) b
    Taken s slot0 .stepAdd b ∧ s.wr = [] ∧ x.addBad = false ∧ s.stepOwnerOk x.ctx = true ∧ s.stepCtxOk x.stepCtx = true ∧
      s.stepMapped x.ctx x.latent x.condAddr x.conds x.adapter = true ∧ s.fits x.ctx 128 0 = true ∧
      s.freeEntry = some 1 ∧ ((s.markTaken slot0 b false).addEntry (x.newEntry 1 s.ord)).fitFw.isSome = true ∧
      gives (.stepAdd slot0) s (fun t => (t.entry? 1).any fun e => e.stepCount == 65535) = true :=
  ⟨taken_of (by decide +kernel), by decide +kernel⟩

theorem witness_step_update :
    let b := sealed 0x0307 [(0, 1, 1), (4, 4, 1), (58, 2, 9)]
    let x := parseStep (slotBody b)
    let s := mail (withEntry .active) b
    Taken s slot0 .stepUpdate b ∧ x.updateBad = false ∧ s.stepOwnerOk x.ctx = true ∧
      s.entry? x.entry = some (entry1 .active) ∧ s.adapterMapped x = true ∧
      gives (.stepAddUpdate slot0) s (fun t => (t.entry? 0).any fun e => e.update.isSome) = true :=
  ⟨taken_of (by decide +kernel), by decide +kernel⟩

def retireMail : Bytes := sealed 0x0308 [(0, 4, 1)]

theorem witness_step_retire :
    Taken (mail (withEntry .active) retireMail) slot0 .stepRetire retireMail ∧
      Taken (mail (withEntry .finished) retireMail) slot0 .stepRetire retireMail ∧
      Taken (mail (withEntry .closing) retireMail) slot0 .stepRetire retireMail ∧
      (withEntry .closing).entry? 0 = some (entry1 .closing) ∧
      gives (.stepRetire slot0) (mail (withEntry .active) retireMail) (fun t => (t.entry? 0).any fun e => e.retireReq) =
        true ∧
      gives (.stepRetire slot0) (mail (withEntry .finished) retireMail) (fun t => (t.entry? 0).isNone) = true ∧
      gives (.stepRetire slot0) (mail (withEntry .closing) retireMail) (fun t => replied t slot0 0x0306) = true :=
  ⟨taken_of (by decide +kernel), taken_of (by decide +kernel), taken_of (by decide +kernel), by decide +kernel⟩

/-- A STEP_BUILD of context 1, a step context. -/
def buildDesc : Bytes := desc 10 [(22, 2, 256), (24, 8, 0x20000), (32, 8, 0x100000)]
def buildState : State :=
  let s := cmd buildDesc [] []
  { s with ctxs := [{ ctx 1 with step := true }] }

theorem witness_step_build :
    Fetched buildState 1 { ctx 1 with step := true } list1 buildDesc ∧ isOpcode 10 buildDesc = true ∧
      buildState.wr = [] ∧ (parseBuild buildDesc).bad buildDesc = false ∧
      buildState.buildRange 1 (parseBuild buildDesc) = none ∧
      gives (.stepBuild 1) buildState (fun t => t.lastSeq 1 == 1) = true :=
  ⟨fetched_of (by decide +kernel), by decide +kernel⟩

/-! ### Resets, the start and recovery -/

def unpowered : State :=
  { State.reset with phase := .unpowered, pins := { State.reset.pins with pwrOk := false } }

theorem witness_resets :
    ready.wr = [] ∧ ready.phase ≠ .unpowered ∧ unpowered.wr = [] ∧ unpowered.phase = .unpowered ∧
      gives (.fundamentalReset 100) ready (fun t => t.phase == .inReset && t.own.owner == none) = true ∧
      gives (.fundamentalReset 99) ready (fun t => t == ready) = true ∧
      gives (.hotswapOpen (.under 43999 100)) ready (fun t => t.phase == .unpowered && !t.pins.pwrOk) = true ∧
      gives (.hotswapOpen (.over 60001)) ready (fun t => t.phase == .unpowered) = true ∧
      gives (.hotswapOpen (.current 111 50)) ready (fun t => t.phase == .unpowered) = true ∧
      gives (.hotswapOpen (.under 44000 100)) ready (fun t => t.phase == .ready) = true ∧
      gives (.hotswapClose 46000 true) unpowered (fun t => t.phase == .inReset && t.pins.pwrOk) = true ∧
      gives (.hotswapClose 58001 true) unpowered (fun t => t.phase == .unpowered) = true ∧
      gives (.hotswapClose 48000 false) unpowered (fun t => t.phase == .unpowered) = true ∧
      gives (.fundamentalReset 7) unpowered (fun t => t.pins.resetSeen) = true := by decide +kernel

/-- A start at which every self-test passes, with the link of port 0 trained. -/
def start : StartInputs :=
  { split := 0, recoverLow := false, board := none, essential := true, badCores := [127], badExps := [], badSites := [],
    badPkgs := [], badFabs := [], badRows := [], badPages := [], badSensors := [], badFieldSensors := [],
    links := [(0, { speed := 6, width := 16, flit := true })], margins := [], idleW := 1100, noBase := false,
    missing := none, badCheck := none, perst := [0, 1] }

theorem witness_start :
    State.reset.phase = .inReset ∧ State.reset.pins.pwrOk = true ∧ State.reset.wr = [] ∧ start.recoverLow = false ∧
      State.reset.store.fw0.state ≠ .trial ∧ State.reset.store.fw1.state ≠ .trial ∧
      (State.reset.store.slot State.reset.store.preferred).state = .good ∧
      State.reset.store.slotValid State.reset.store.preferred = true ∧ State.reset.coreFails start 0 = false ∧
      State.reset.store.find Kind.coreWithdraw [0] = none ∧ State.reset.cores.length = 128 ∧
      State.reset.cores[0]? = some (Core.reset true) ∧ State.reset.sites[0]? = some (Site.reset true) ∧
      gives (.moduleStart start) State.reset (fun t => t.phase == .ready && t.store.running == some 0 &&
        t.partitions == [BitVec.allOnes 128 >>> 1] && (t.port 0).linkUp && !(t.port 1).linkUp) = true := by decide +kernel

theorem witness_start_halts :
    let s : State := { State.reset with store := { Store.shipped with fw0 := FwSlot.empty } }
    s.phase = .inReset ∧ s.store.fw0.valid = false ∧ s.store.fw1.valid = false ∧
      gives (.moduleStart start) s (fun t => t.phase == .startHalted && t.ccx.haltCode == 0x0C0D) = true ∧
      gives (.moduleStart { start with essential := false }) State.reset (fun t => t.ccx.haltCode == 0x0C0E) = true := by
  decide +kernel

/-- The module in recovery, and with an image judged. -/
def recovering : State :=
  { State.reset with
    phase := .recovery, ports := (List.replicate 4 (Port.reset false)).mapIdx fun i q =>
      if i = 0 then { Port.reset true with linkUp := true } else q }

theorem witness_recovery :
    let f : FwSlot := { image1 with state := .trial }
    let served (k : Nat) : State := { recovering with
      rcv := { control := 0x80000002, status := 0, serving := true, outcome := 0, target := some (k, f) } }
    gives (.moduleStart { start with recoverLow := true }) State.reset (fun t => t.phase == .recovery) = true ∧
      recovering.recovers 0 = true ∧ recovering.wr = [] ∧ (0x80000001 : Word).getLsbD 31 = true ∧
      recovering.recoveryJudge 1 = (Err.fwImageInvalid, none) ∧ recovering.rcv.serving = false ∧
      gives (.recoveryGo 0x80000001) recovering (fun t => t.rcv.serving) = true ∧
      gives (.recoveryGo 0x80000001) (served 1) (fun t => t.rcv.control == 0x80000002) = true ∧
      gives .recoveryDone (served 1) (fun t => t.store.fw1 == f && t.rcv.status == 0x80000000) = true ∧
      gives .recoveryDone (served 0) (fun t => t.store.fw0 == f) = true ∧
      gives .recoveryDone { recovering with rcv := { recovering.rcv with serving := true, outcome := 0x0C07 } }
        (fun t => t.rcv.status == 0x80000C07) = true := by decide +kernel

/-! ### Service mode and aging -/

def enterMail : Bytes := sealed 0x0C06 []
def leaveMail : Bytes := sealed 0x0C06 [(0, 1, 1)]

theorem witness_service_enter :
    Taken (mail ready enterMail) slot0 .serviceEnter enterMail ∧
      Taken (mail withCtx enterMail) slot0 .serviceEnter enterMail ∧
      Taken (mail service enterMail) slot0 .serviceEnter enterMail ∧ ready.wr = [] ∧ ready.ccx.service = false ∧
      ready.ctxs = [] ∧ ready.fab.peers = [] ∧ withCtx.ctxs ≠ [] ∧
      gives (.serviceModeEnter slot0) (mail ready enterMail) (fun t => t.ccx.service) = true ∧
      gives (.serviceModeEnter slot0) (mail withCtx enterMail) (fun t => !t.ccx.service && replied t slot0 0x0C0C) = true ∧
      gives (.serviceModeEnter slot0) (mail service enterMail) (fun t => t.ccx.service && replied t slot0 0) = true :=
  ⟨taken_of (by decide +kernel), taken_of (by decide +kernel), taken_of (by decide +kernel), by decide +kernel⟩

theorem witness_service_leave :
    let first : State := { service with plt := { service.plt with noBase := true } }
    let one := service.updFport 20 fun f => { f with staged := some 1 }
    Taken (mail one leaveMail) slot0 .serviceLeave leaveMail ∧ Taken (mail first leaveMail) slot0 .serviceLeave leaveMail ∧
      Taken (mail ready leaveMail) slot0 .serviceLeave leaveMail ∧ first.store.committed = false ∧ one.plt.noBase = false ∧
      gives (.serviceModeLeave slot0) (mail one leaveMail) (fun t => !t.ccx.service && (t.fport 20).staged == none) = true ∧
      gives (.serviceModeLeave slot0) (mail first leaveMail) (fun t => t.ccx.service && replied t slot0 0x0C0C) = true ∧
      gives (.serviceModeLeave slot0) (mail ready leaveMail) (fun t => replied t slot0 0) = true :=
  ⟨taken_of (by decide +kernel), taken_of (by decide +kernel), taken_of (by decide +kernel), by decide +kernel⟩

/-- A core of a state. -/
def coreOf (s : State) (n : Nat) : Core := s.cores.getD n (Core.reset true)

/-- Core 5 changed. -/
def withCore (f : Core → Core) : State := { ready with cores := ready.cores.set 5 (f (coreOf ready 5)) }

theorem witness_aging :
    let r := withCore fun c => { c with fusedMax := 4, curMax := 4 }
    let s : State := { r with plt := { r.plt with hours := 999 } }
    s.phase = .ready ∧ s.ccx.halted = false ∧ s.store.room 4 = true ∧ ([5, 6] : List Nat).Nodup ∧ (coreOf s 5).here = true ∧
      (coreOf s 5).nextOff = false ∧ 2 < ((coreOf s 5).nextMax.getD (coreOf s 5).curMax).toNat ∧
      gives (.poweredHourTick []) s (fun t => t.plt.hours == 1000 && !t.ccx.halted) = true ∧
      gives (.poweredHourTick [(5, some 2)]) ready (fun t => (coreOf t 5).nextMax == none) = true := by decide +kernel

/-- The module at its 1,000th hour. -/
def aged : State :=
  let r := withCore fun c => { c with fusedMax := 4, curMax := 4 }
  { r with plt := { r.plt with hours := 999 } }

/-- Where no NAND block fails in the record of the hour, the core's own record follows. -/
theorem witness_lowered (h : Config.nandFailures 0 = 0) :
    gives (.poweredHourTick [(5, some 2)]) aged (fun t => (coreOf t 5).nextMax == some 2 && !t.ccx.halted) = true ∧
      gives (.poweredHourTick [(6, none)]) aged (fun t => (coreOf t 6).nextOff && !t.ccx.halted) = true := by
  have hn : aged.store.nand = { aged.store with ops := 1 } := by
    have : aged.store.failures = 0 := h
    simp only [Store.nand, this]; rfl
  have hr : aged.store.room 4 = true := by decide +kernel
  have hp : aged.platformRuns = true := by decide +kernel
  constructor <;>
  · simp only [gives, exec, execPoweredHourTick, done, State.hourTick, State.moduleRecord, Store.write, hn, hp, hr, leBytes_length]
    decide +kernel

theorem witness_core_apply :
    let s := withCore fun c => { c with nextMax := some 2, nextOff := true }
    let b := withCore fun c => { c with nextMax := some 2, nextOff := true, busy := true }
    s.phase = .ready ∧ s.cores[5]? = some (coreOf s 5) ∧
      gives (.configApply (.core 5)) s (fun t => (coreOf t 5).curMax == 2 && (coreOf t 5).withdrawn) = true ∧
      gives (.configApply (.core 5)) b (fun t => (coreOf t 5).nextMax == some 2) = true := by decide +kernel

/-! ### Power and heat -/

theorem witness_power_policy :
    let b := sealed 0x0C01 [(0, 1, 7), (1, 1, 7), (2, 2, 3600)]
    let c := sealed 0x0C01 [(0, 1, 1), (2, 2, 3601)]
    let full : State := { ready with store := { ready.store with journal := [], unerased := 65536 } }
    Taken (mail ready b) slot0 .powerPolicy b ∧ Taken (mail ready c) slot0 .powerPolicy c ∧
      Taken (mail full b) slot0 .powerPolicy b ∧ ready.wr = [] ∧ ready.store.reserveOnly = false ∧
      ready.store.room 3 = true ∧ (full.store.reserveOnly = true ∨ full.store.room 3 = false) ∧
      gives (.powerPolicy slot0) (mail ready b) (fun t => t.plt.policyWait == [(3600, 7, 1)] && t.store.lastSeq == 1) =
        true ∧
      gives (.powerPolicy slot0) (mail ready c) (fun t => replied t slot0 0x0C02) = true ∧
      gives (.powerPolicy slot0) (mail full b) (fun t => replied t slot0 0x0C05) = true :=
  ⟨taken_of (by decide +kernel), taken_of (by decide +kernel), taken_of (by decide +kernel), by decide +kernel⟩

/-- The module with its duties and its window changed. -/
def heated (f : Heat → Heat) : State := { ready with heat := f ready.heat }

theorem witness_brake :
    ready.platformRuns = true ∧ ready.heat.sample < 1000 ∧ ready.heat.stopped = false ∧
      gives (.powerSample 2400000 true) (heated fun h => { h with dp := 60 }) (fun t => t.heat.dp == 4) = true ∧
      gives (.powerSample 1500000000 true) ready (fun t => t.heat.dp == 0) = true ∧
      gives (.powerSample 1100000 true) (heated fun h => { h with dp := 0 }) (fun t => t.heat.dp == 1) = true ∧
      gives (.powerSample 1100000 true) (heated fun h => { h with dp := 63, sinceRise := 9 }) (fun t => t.heat.dp == 64) =
        true ∧
      gives (.powerSample 1100000 true) (heated fun h => { h with dp := 63, sinceRise := 8 }) (fun t => t.heat.dp == 63) =
        true ∧
      gives (.powerSample 2400000 false) ready (fun t => t.heat.dp == 64) = true ∧
      gives (.powerSample 2400000 true) (heated fun h => { h with sample := 999 }) (fun t => t.heat.sample == 1000) = true := by
  decide +kernel

theorem witness_window_end :
    let m : Msg := { port := 0, box := none, slot := 0, seq := 4, tag := 7, notify := false, opcode := 0x0C01,
                     body := zeros 240, state := .waiting, discard := false }
    let s : State := { heated fun h => { h with sample := 1000, energyNj := 1300000000 } with
      plt := { ready.plt with ctxUj := [(1, 5), (2, 6)], destroyed := [2], policyWait := [(1000, 3, 4)] }
      ccx := { ready.ccx with msgs := [m] } }
    s.platformRuns = true ∧ 1000 ≤ s.heat.sample ∧ s.wr = [] ∧ s.ccx.halted = false ∧
      gives (.powerWindowEnd [(.ctx 1, 1), (.ctx 2, 3)]) s (fun t => t.plt.inputUj == 1300000 &&
        t.plt.ctxUj == [(1, 50005), (2, 6)] && t.plt.exceeded == 1 && t.plt.capInForce == 1000 &&
        t.ccx.msgs.isEmpty) = true := by decide +kernel

theorem witness_readings :
    let s := heated fun h => { h with dj := h.dj.set 3 12 }
    s.platformRuns = true ∧ 3 < s.part.cores ∧ s.heat.dj[3]? = some 12 ∧ 3 ∉ s.heat.djFailed ∧ s.heat.stopped = false ∧
      gives (.sensorReading (.core 3) (.celsius 106)) s (fun t => t.heat.dj[3]? == some 8) = true ∧
      gives (.sensorReading (.core 3) (.celsius 105)) s (fun t => t.heat.dj[3]? == some 12) = true ∧
      gives (.sensorReading (.core 3) (.celsius 102)) s (fun t => t.heat.dj[3]? == some 20) = true ∧
      gives (.sensorReading (.core 3) .failed) s (fun t => t.heat.dj[3]? == some 32) = true ∧
      gives (.sensorReading (.field 3) .failed) s (fun t => t.heat.df[3]? == some 32) = true ∧
      gives (.sensorReading (.core 127) (.celsius 115)) s (fun t => t.heat.stopped && t.pins.thermTrip) = true ∧
      gives (.sensorReading (.bulk 31) (.celsius 106)) s (fun t => t.heat.stopped) = true ∧
      gives (.sensorReading .coolant (.celsius 61)) s (fun t => t.heat.stopped) = true ∧
      gives (.stackTempReading 7 110) s (fun t => t.heat.stopped) = true := by decide +kernel

theorem witness_stack_readings :
    let s : State := { heated fun h => { h with hotFields := [3] } with
      sites := (ready.sites.set 6 { Site.reset true with temp := 101, refresh := 3 }).set 7 { Site.reset true with temp := 98 } }
    s.platformRuns = true ∧ 6 < s.part.sites ∧ s.heat.stopped = false ∧ 3 ∉ s.heat.dfFailed ∧
      s.heat.df[3]? = some 64 ∧ (s.site 6).refresh ≤ 3 ∧ s.sites[6]? = some (s.site 6) ∧ s.sites[7]? = some (s.site 7) ∧
      s.paceSite 3 = 6 ∧
      gives (.stackTempReading 6 97) s (fun t => (t.site 6).refresh == 2 && t.heat.hotFields == [3] &&
        t.heat.df[3]? == some 64) = true ∧
      gives (.stackTempReading 6 101) s (fun t => (t.site 6).refresh == 3 && t.heat.df[3]? == some 56) = true ∧
      gives (.stackTempReading 7 97) s (fun t => (t.site 7).refresh == 2 && t.heat.df[3]? == some 64) = true := by
  decide +kernel

theorem witness_sideband :
    let wet (v : Nat) : State := { ready with plt := { ready.plt with coolantFresh := true, coolantVal := v } }
    ready.platformRuns = true ∧ (0x80000FFF : Word).getLsbD 31 = true ∧ (0x80000FFF : Word).toNat / 2 ^ 16 % 2 ^ 15 = 0 ∧
      (wet 601).plt.coolantFresh = true ∧ (wet 600).heat.stopped = false ∧
      gives (.sbBoardLimitWrite 0x80000FFF) ready (fun t => t.plt.boardW == 3600) = true ∧
      gives (.sbBoardLimitWrite 0xFFF) ready (fun t => t.plt.boardW == 1200) = true ∧
      gives .sbStatusRead ready (fun t => t.out == [.sideband 0x80000000] && t.alertN) = true ∧
      gives .coolantReading (wet 601) (fun t => t.heat.stopped) = true ∧
      gives .coolantReading (wet 600) (fun t => !t.heat.stopped && !t.plt.coolantFresh) = true := by decide +kernel

/-! ### The store and the root of trust -/

/-- Context 1's one page lies where its addresses say. -/
theorem phys_of_ctx1 {s : State} (h : s.maps = [map1 1 0]) {v : Nat} (hv : v < 2 ^ 21) : s.physOf 1 v = v := by
  have hv' : v < 2097152 := hv
  simp [State.physOf, State.translate, State.mapping?, h, map1, Mapping.phys, Nat.mod_eq_of_lt hv', Nat.div_eq_of_lt hv',
    hv']

theorem range_of_ctx1 {s : State} (h : s.maps = [map1 1 0]) {v n : Nat} {w : Bool} (hv : v + n ≤ 2 ^ 21) :
    s.accessFault 1 v n w = none := by
  have hv' : v + n ≤ 2097152 := hv
  by_cases hn : n = 0
  · simp [State.accessFault, State.rangeFault, hn]
  · have h1 : v < 2097152 := by omega
    have h2 : n ≤ 2097152 - v := by omega
    obtain ⟨k, rfl⟩ := Nat.exists_eq_succ_of_ne_zero hn
    simp [State.accessFault, State.rangeFault, State.mapping?, h, map1, h1]; omega

theorem apart_of_ctx1 {s : State} (h : s.maps = [map1 1 0]) {v n : Nat} (hv : v + n ≤ 2 ^ 21) :
    ((List.range n).map fun i => s.physOf 1 (v + i)).Nodup := by
  have : ((List.range n).map fun i => s.physOf 1 (v + i)) = (List.range n).map fun i => v + i :=
    List.map_congr_left fun i hi => phys_of_ctx1 h (by have := List.mem_range.1 hi; omega)
  rw [this]
  exact List.nodup_range.map fun a b hab => by simpa using hab

def stageMail : Bytes := sealed 0x0C02 [(0, 4, 1), (8, 8, 0x1000), (16, 4, 8192)]

/-- An image without a header, read from memory nothing has written. -/
def blank : Bytes := (List.range 8192).map fun i => withCtx.loadByte (withCtx.physOf 1 (0x1000 + i))

theorem blank_read : withCtx.vread 1 0x1000 8192 = .ok blank := by
  rw [State.vread, range_of_ctx1 rfl (by omega)]; rfl

theorem blank_header : fwHeaderOk withCtx.part (sliceBytes blank 0 4096) = false := by decide +kernel

theorem judge_bad (s : State) (img : Bytes) (h : fwHeaderOk s.part (sliceBytes img 0 4096) = false) :
    s.judgeImage img = .error 0x0C07 := by
  unfold State.judgeImage
  simp [h]; rfl

theorem witness_stage :
    let small := sealed 0x0C02 [(0, 4, 1), (8, 8, 0x1000), (16, 4, 4096)]
    let g : Staging :=
      { seq := 1, slot := 1, image := { image1 with state := .staged } }
    let s : State := { ready with store := { ready.store with staging := some g } }
    Taken (mail withCtx stageMail) slot0 .fwStage stageMail ∧ Taken (mail withCtx small) slot0 .fwStage small ∧
      withCtx.wr = [] ∧ (∃ img, withCtx.vread 1 0x1000 8192 = .ok img ∧ withCtx.judgeImage img = .error 0x0C07) ∧ s.running = true ∧ s.store.staging = some g ∧
      gives (.fwStage slot0) (mail withCtx stageMail) (fun t => replied t slot0 0x0C07) = true ∧
      gives (.fwStage slot0) (mail withCtx small) (fun t => replied t slot0 0x0C07) = true ∧
      gives .fwStageDone s (fun t => t.store.fw1 == g.image && t.store.staging == none) = true := by
  refine ⟨taken_of (by decide +kernel), taken_of (by decide +kernel), rfl,
    ⟨blank, blank_read, judge_bad _ _ blank_header⟩, by decide +kernel⟩

/-- An image in the memory of context 1. -/
def imaged (img : Bytes) : State := { mail withCtx stageMail with mem := memOf [(0x1000, img)] }

theorem taken_apart_from_memory (s : State) (m : Memory) (r : SlotRef) (b : Bytes) :
    takenCheck { s with mem := m } r .fwStage b = takenCheck s r .fwStage b := rfl

/-- No byte string is known to pass R702, since the fused hash of the signer is left open; one that passed would be staged. -/
theorem witness_stage_accepted (img : Bytes) (f : FwSlot)
    (h : (imaged img).vread 1 0x1000 8192 = .ok img) (hj : (imaged img).judgeImage img = .ok f) :
    Taken (imaged img) slot0 .fwStage stageMail ∧ (imaged img).wr = [] ∧
      (imaged img).store.runningSlot.state ≠ .trial ∧ (imaged img).vread 1 0x1000 8192 = .ok img ∧
      (imaged img).judgeImage img = .ok f :=
  ⟨taken_of ((taken_apart_from_memory _ _ _ _).trans (by decide +kernel)), rfl,
    (by decide +kernel : withCtx.store.runningSlot.state ≠ .trial), h, hj⟩

/-- The module with images in its slots. -/
def slots (a b : SlotState) : State :=
  { ready with store := { ready.store with
      fw0 := { FwSlot.shipped with state := a, svn := 4 }, fw1 := { FwSlot.shipped with state := b, svn := 3 } } }

def actMail (op n : Nat) : Bytes := sealed 0x0C03 [(0, 1, op), (1, 1, n)]

theorem witness_activate :
    Taken (mail (slots .good .staged) (actMail 0 1)) slot0 .fwTry (actMail 0 1) ∧
      Taken (mail (slots .trial .good) (actMail 1 0)) slot0 .fwConfirm (actMail 1 0) ∧
      Taken (mail (slots .good .good) (actMail 2 0)) slot0 .fwRaise (actMail 2 0) ∧ ready.wr = [] ∧
      (slots .good .staged).store.otherSlot = 1 ∧ (slots .good .staged).store.runningSlot.state = .good ∧
      (slots .trial .good).store.running = some 0 ∧
      gives (.fwActivateTry slot0) (mail (slots .good .staged) (actMail 0 1)) (fun t => t.store.fw1.state == .trial) = true ∧
      gives (.fwActivateConfirm slot0) (mail (slots .trial .good) (actMail 1 0)) (fun t =>
        t.store.fw0.state == .good && t.store.preferred == 0) = true ∧
      gives (.fwActivateRaiseSvn slot0) (mail (slots .good .good) (actMail 2 0)) (fun t =>
        t.store.minSvn == 4 && t.store.fw1.state == .bad) = true :=
  ⟨taken_of (by decide +kernel), taken_of (by decide +kernel), taken_of (by decide +kernel), by decide +kernel⟩

theorem witness_activate_refused :
    Taken (mail (slots .good .staged) (actMail 0 0)) slot0 .fwTry (actMail 0 0) ∧
      Taken (mail (slots .good .good) (actMail 1 0)) slot0 .fwConfirm (actMail 1 0) ∧
      Taken (mail (slots .trial .good) (actMail 2 0)) slot0 .fwRaise (actMail 2 0) ∧
      gives (.fwActivateTry slot0) (mail (slots .good .staged) (actMail 0 0)) (fun t => replied t slot0 0x0C0A) = true ∧
      gives (.fwActivateConfirm slot0) (mail (slots .good .good) (actMail 1 0)) (fun t => replied t slot0 0x0C0A) = true ∧
      gives (.fwActivateRaiseSvn slot0) (mail (slots .trial .good) (actMail 2 0)) (fun t => replied t slot0 0x0C0A) = true :=
  ⟨taken_of (by decide +kernel), taken_of (by decide +kernel), taken_of (by decide +kernel), by decide +kernel⟩

def attMail (form va : Nat) : Bytes := sealed 0x0C04 [(0, 1, form), (4, 4, 1), (8, 8, va)]

/-- For whatever identity chain the vendor gave the module. -/
theorem witness_attest :
    Taken (mail withCtx (attMail 0 0x1000)) slot0 .attestReport (attMail 0 0x1000) ∧
      Taken (mail withCtx (attMail 1 0x1000)) slot0 .attestChain (attMail 1 0x1000) ∧
      Taken (mail withCtx (attMail 0 0x1020)) slot0 .attestReport (attMail 0 0x1020) ∧
      withCtx.wr = [] ∧ withCtx.mem.wf = true ∧ withCtx.accessFault 1 0x1000 352 true = none ∧
      ((List.range 352).map fun i => withCtx.physOf 1 (0x1000 + i)).Nodup ∧
      withCtx.accessFault 1 0x1000 (Config.identityChain.take 4096).length true = none ∧
      ((List.range (Config.identityChain.take 4096).length).map fun i => withCtx.physOf 1 (0x1000 + i)).Nodup ∧
      gives (.attestReport slot0) (mail withCtx (attMail 0 0x1020)) (fun t => replied t slot0 0x0C0B) = true := by
  have hk : (Config.identityChain.take 4096).length ≤ 4096 := List.length_take_le _ _
  refine ⟨taken_of (by decide +kernel), taken_of (by decide +kernel), taken_of (by decide +kernel), by decide +kernel,
    by decide +kernel, range_of_ctx1 rfl (by omega), apart_of_ctx1 rfl (by omega), range_of_ctx1 rfl (by omega),
    apart_of_ctx1 rfl (by omega), by decide +kernel⟩

/-- A store with two records of one key and one past S, and a message that waits. -/
def folding : State :=
  let r (q : Nat) : JRec := { seq := q, kind := 6, key := [3], baseGen := 1, body := [] }
  { ready with store := { ready.store with journal := [r 1, r 2, r 3], lastSeq := 3, compacting := true, compactS := 2, compactWait := [9] } }

theorem witness_compaction :
    let b := sealed 0x0C05 []
    Taken (mail ready b) slot0 .journalCompact b ∧ Taken (mail folding b) slot0 .journalCompact b ∧ folding.wr = [] ∧
      folding.phase = .ready ∧ folding.store.compacting = true ∧ ready.store.compacting = false ∧
      folding.store.journal.Pairwise (fun x y => x.seq < y.seq) ∧
      (∀ x ∈ folding.store.journal, x.seq ≤ folding.store.lastSeq) ∧
      folding.store.compactS ≤ folding.store.lastSeq ∧ folding.ccx.halted = false ∧
      gives (.journalCompact slot0) (mail folding b) (fun t => t.store.compactWait == [9, 1]) = true ∧
      gives .compaction folding (fun t => (t.store.base.any fun x => x.gen == 2 && x.image.length == 1) &&
        t.store.journal.length == 2) = true :=
  ⟨taken_of (by decide +kernel), taken_of (by decide +kernel), by decide +kernel⟩

/-! ### The commands of a list -/

/-- The descriptor opcode 15, 13, 11, 12 and 14. -/
def nopDesc : Bytes := desc 15 []
def semDesc (op va v fl : Nat) : Bytes := desc op [(16, 8, va), (24, 8, v), (32, 1, fl)]

/-- Context 1 with a list where nothing is mapped. -/
def lostList : State :=
  { withCtx with ctxs := [{ ctx 1 with list := some { list1 with base := 2 ^ 30 } }] }

theorem witness_fetch_fault :
    let far : CmdList := { list1 with base := 2 ^ 30 }
    let e := desc 15 [(4, 2, 129)]
    lostList.running = true ∧ lostList.wr = [] ∧ lostList.ctx? 1 = some { ctx 1 with list := some far } ∧
      lostList.canBegin { ctx 1 with list := some far } = true ∧
      (match lostList.vread 1 (far.place far.next) 128 with
        | .error _ => true
        | .ok _ => false) = true ∧
      (cmd e [] []).vread 1 (list1.place list1.next) 128 = .ok e ∧ headerOk e = false ∧
      (cmd e [] []).canBegin (ctx 1) = true ∧
      gives (.nop 1) lostList (fun t => faulted t 0x0902) = true ∧
      gives (.nop 1) (cmd e [] []) (fun t => faulted t 0x0206) = true := by decide +kernel

theorem witness_nop_phase :
    let n' := desc 15 [(127, 1, 1)]
    let p := desc 13 [(16, 1, 7)]
    let p' := desc 13 [(16, 1, 8)]
    Fetched (cmd nopDesc [] []) 1 (ctx 1) list1 nopDesc ∧ Fetched (cmd n' [] []) 1 (ctx 1) list1 n' ∧
      Fetched (cmd p [] []) 1 (ctx 1) list1 p ∧ Fetched (cmd p' [] []) 1 (ctx 1) list1 p' ∧
      isOpcode 15 nopDesc = true ∧ zeroRange nopDesc 16 128 = true ∧ zeroRange n' 16 128 = false ∧
      gives (.nop 1) (cmd nopDesc [] []) ended5 = true ∧ gives (.nop 1) (cmd n' [] []) (fun t => faulted t 0x0206) = true ∧
      gives (.phase 1) (cmd p [] []) (fun t => ended5 t && ctxIs t 1 fun c => c.cls == 7) = true ∧
      gives (.phase 1) (cmd p' [] []) (fun t => faulted t 0x0C03) = true :=
  ⟨fetched_of (by decide +kernel), fetched_of (by decide +kernel), fetched_of (by decide +kernel),
    fetched_of (by decide +kernel), by decide +kernel⟩

/-- The count at 0x2000 after a step. -/
def countIs (t : State) (k : Nat) : Bool := leVal ((List.range 8).map fun i => t.mem.get (0x2000 + i)) == k

/-- Context 2, which waits for the count at 0x2000 to reach 9. -/
def waiter : Waiter := { ctx := 2, index := 3, addr := 0x2000, value := 9, peek := false, timeout := 1000 }
def ctx2 : Ctx := { ctx 2 with state := .blocked, begun := [{ begun1 12 3 false with waiting := true }], list := some { list1 with next := 4, begun := 3, done := 3 } }
def awaited (s : State) : State := { s with ctxs := s.ctxs ++ [ctx2], waiters := [waiter] }

theorem witness_signal :
    let d := semDesc 11 0x2000 (2 ^ 32 - 1) 0
    let s := cmd d [(0x2000, [5])] []
    let f := cmd d [(0x2000, List.replicate 7 0xFF ++ [0x7F])] []
    Fetched s 1 (ctx 1) list1 d ∧ Fetched f 1 (ctx 1) list1 d ∧ Fetched (awaited s) 1 (ctx 1) list1 d ∧ s.wr = [] ∧
      s.mem.wf = true ∧ isSignal d = true ∧ semReservedOk d = true ∧ s.physOf 1 0x2000 = 0x2000 ∧
      s.accessFault 1 0x2000 8 true = none ∧ s.waiters = [] ∧ (awaited s).ctx? 2 = some ctx2 ∧
      ((awaited s).waiters.filter fun y => y.addr == 0x2000) = [waiter] ∧
      gives (.semSignal 1) s (fun t => ended5 t && countIs t (2 ^ 32 + 4)) = true ∧
      gives (.semSignal 1) f (fun t => faulted t 0x030B) = true ∧
      gives (.semSignal 1) (awaited s) (fun t => t.waiters.isEmpty && countIs t (2 ^ 32 - 5) &&
        ctxIs t 2 fun c => c.begun.isEmpty) = true :=
  ⟨fetched_of (by decide +kernel), fetched_of (by decide +kernel), fetched_of (by decide +kernel), by decide +kernel⟩

theorem witness_signal_init :
    let d := semDesc 11 0x2000 (2 ^ 63 - 1) 1
    let s := cmd d [(0x2000, [5])] []
    Fetched s 1 (ctx 1) list1 d ∧ isSignalInit d = true ∧ semReservedOk d = true ∧
      gives (.semSignalInit 1) s (fun t => ended5 t && countIs t (2 ^ 63 - 1)) = true :=
  ⟨fetched_of (by decide +kernel), by decide +kernel⟩

theorem witness_wait :
    let d := semDesc 12 0x2000 5 0
    let p := semDesc 12 0x2000 5 1
    let s := cmd d [(0x2000, [5])] []
    let q := cmd p [(0x2000, [5])] []
    let u := cmd d [(0x2000, [4])] []
    let r : State := awaited { withCtx with mem := memOf [(0x2000, [9])] }
    Fetched s 1 (ctx 1) list1 d ∧ Fetched q 1 (ctx 1) list1 p ∧ Fetched u 1 (ctx 1) list1 d ∧ semReservedOk d = true ∧
      s.accessFault 1 0x2000 8 true = none ∧ r.phase = .ready ∧ r.waiters = [waiter] ∧ r.ctx? 2 = some ctx2 ∧
      r.running = true ∧ ctx2.state = .blocked ∧
      (r.waiters.find? fun y => y.ctx == 2 && y.timeout != 0) = some waiter ∧
      (ctx2.begun.find? fun y => y.index == 3) = some { begun1 12 3 false with waiting := true } ∧
      gives (.semWait 1) s (fun t => ended5 t && countIs t 0) = true ∧
      gives (.semWait 1) q (fun t => ended5 t && countIs t 5) = true ∧
      gives (.semWait 1) u (fun t => t.waiters.length == 1 && ctxIs t 1 fun c => c.state == .blocked) = true ∧
      gives .semWaitRecheck r (fun t => t.waiters.isEmpty && countIs t 0) = true ∧
      gives .semWaitRecheck (awaited withCtx) (fun t => t == awaited withCtx) = true ∧
      gives (.semTimeout 2) r (fun t => t.waiters.isEmpty && ctxIs t 2 fun c => c.fault.code == 0x030C) = true :=
  ⟨fetched_of (by decide +kernel), fetched_of (by decide +kernel), fetched_of (by decide +kernel), by decide +kernel⟩

theorem witness_stats :
    let d := desc 14 [(16, 8, 0x2000), (24, 1, 3), (28, 4, 4), (32, 2, 2)]
    let e := desc 14 [(16, 8, 0x2000), (24, 1, 4)]
    let s := cmd d [] []
    Fetched s 1 (ctx 1) list1 d ∧ Fetched (cmd e [] []) 1 (ctx 1) list1 e ∧ s.accessFault 1 0x2000 128 true = none ∧
      s.accessFault 1 0x2100 128 true = none ∧ ((List.range 384).map fun i => s.physOf 1 (0x2000 + i)).Nodup ∧
      gives (.stats 1) s (fun t => ended5 t && t.mem.get 0x2100 == 5) = true ∧
      gives (.stats 1) (cmd e [] []) (fun t => faulted t 0x030D) = true :=
  ⟨fetched_of (by decide +kernel), fetched_of (by decide +kernel), range_of_ctx1 rfl (by omega),
    range_of_ctx1 rfl (by omega), apart_of_ctx1 rfl (by omega), by decide +kernel⟩

/-- Counts a unit reports. -/
def counts : Meas := { busiest := 3, busy := 10, core := 40, stall := List.replicate 7 1, interfere := 2, freq := 600000, others := [] }

/-- A core command of context 1 that occupies core 5, at the index that began last. -/
def atWork : State :=
  { withCtx with
    ctxs := [{ ctx 1 with begun := [{ begun1 1 4 true with cores := [5] }], list := some { list1 with done := 4 } }]
    cores := ready.cores.set 5 { coreOf ready 5 with busy := true, ctx := 1, mode := 1 } }

theorem witness_complete :
    let b : Begun := { begun1 1 4 true with cores := [5] }
    let w : State := { atWork with ctxs := [{ ctx 1 with begun := [{ b with preempted := true }] }] }
    atWork.phase = .ready ∧ atWork.wr = [] ∧ atWork.tensorWaits = [] ∧
      ((atWork.ctx? 1).any fun c => (c.begun.find? fun x => x.index == 4) == some b) = true ∧ b.live = true ∧
      atWork.moveDone 1 4 = true ∧ atWork.fabricDone 1 4 = true ∧ atWork.heat.stopped = false ∧
      ({ b with preempted := true } : Begun).live = false ∧ w.tensorWaits = [] ∧
      gives (.commandComplete 1 4 counts) atWork (fun t => !(coreOf t 5).busy &&
        ctxIs t 1 fun c => c.begun.isEmpty && c.busy == 40 && c.interfere == 2 && c.list.any fun l => l.done == 5) = true ∧
      gives (.commandComplete 1 4 counts) w (fun t => t == w) = true := by decide +kernel

/-- Contexts 1, which holds the turn, and 2, which is READY. -/
def rivals : State :=
  { atWork with ctxs := atWork.ctxs ++ [{ ctx 2 with state := .ready }] }

/-- Nobody holds the turn; contexts 1 and 2 are READY, 1 with a debt. -/
def idleTurn (debt : Nat) : State :=
  { withCtx with
    ctxs := [{ ctx 1 with state := .ready, debtUs := debt }, { ctx 2 with state := .ready }]
    turns := [{ holder := none, last := 0, overran := false }] }

theorem witness_turns :
    let t0 := idleTurn 3999
    let t1 := idleTurn 4000
    rivals.running = true ∧ (rivals.turn 0).holder = some 1 ∧ rivals.readyOf 0 ≠ [] ∧ withCtx.readyOf 0 = [] ∧
      rivals.wr = [] ∧ (t0.turn 0).holder = none ∧ 0 < t0.turns.length ∧ (t0.turn 0).overran = false ∧
      t0.partitionFree 0 = true ∧ t0.tensorWaits = [] ∧ t0.turnOrder 0 = [1, 2] ∧ t1.turnOrder 0 = [1, 2] ∧
      (t0.ctx? 1).any (fun c => t0.canBegin c) = true ∧ (t1.ctx? 2).any (fun c => t1.canBegin c) = true ∧
      gives (.sliceEnd 0) rivals (fun t => (t.turn 0).holder == none && ctxIs t 1 fun c => c.state == .ready) = true ∧
      gives (.sliceEnd 0) withCtx (fun t => t == withCtx) = true ∧
      gives (.turnTake 0 0) t0 (fun t => (t.turn 0).holder == some 1 && ctxIs t 1 fun c => c.debtUs == 0) = true ∧
      gives (.turnTake 0 0) t1 (fun t => (t.turn 0).holder == some 2 && ctxIs t 1 fun c => c.debtUs == 0) = true := by
  decide +kernel

/-- Sixty-five READY contexts, all but the last resident, the first the one that last began a command longest ago. -/
def crowd : State :=
  { withCtx with
    ctxs := ((List.range 64).map fun i => { ctx i with state := .ready, lastBegan := i }) ++
      [{ ctx 64 with state := .ready, resident := false }]
    maps := (List.range 65).map fun i => map1 i (i * 2 ^ 21)
    turns := [{ holder := none, last := 0, overran := false }] }

theorem witness_evict :
    crowd.running = true ∧ crowd.wr = [] ∧ crowd.residents.length = 64 ∧ (crowd.ctxs.map fun x => x.num).Nodup ∧
      (∀ x ∈ crowd.ctxs, x.state.ordinary = true → crowd.wish x = x.state ∨ (crowd.wish x = .ready ∧ x.state = .running)) ∧
      (∀ x ∈ crowd.residents, x.state ≠ .blocked ∧ x.state ≠ .paused ∧ x.state ≠ .halted) ∧
      { ctx 0 with state := .ready, lastBegan := 0 } ∈ crowd.residents ∧
      (∀ x ∈ crowd.residents, x ≠ { ctx 0 with state := .ready, lastBegan := 0 } → 0 < x.lastBegan) ∧
      gives (.evictionWaitTimeout 64) crowd (fun t => (ctxIs t 64 fun c => c.resident) && ctxIs t 0 fun c => !c.resident) =
        true := by decide +kernel

/-! ### The movers -/

/-- Two rows of four bytes from 0x2000 to 0x3000, as a segment of a list. -/
def rawSeg (src : Nat) : Bytes := pack 64 [(0, 8, src), (8, 8, 0x3000), (16, 4, 4), (20, 4, 2), (24, 4, 1), (56, 2, 0xFFFF)]

def moveDesc (op es : Nat) : Bytes := desc 5 [(16, 8, 0x20000), (24, 2, 1), (26, 1, op), (27, 1, es)]

theorem witness_move :
    let d := moveDesc 0 1
    let e := moveDesc 1 2
    let f := moveDesc 2 4
    let x := moveDesc 0 2
    let s := cmd d [] [(0x20000, rawSeg 0x2000)]
    Fetched s 1 (ctx 1) list1 d ∧ Fetched (cmd x [] []) 1 (ctx 1) list1 x ∧ s.wr = [] ∧ isMove .copy d = true ∧
      moveOk d = true ∧ isMove .transpose e = true ∧ moveOk e = true ∧ isMove .fill f = true ∧ moveOk f = true ∧
      isMove .copy x = true ∧ moveOk x = false ∧
      (match s.vread 1 0x20000 64 with
        | .ok raw => raw == rawSeg 0x2000
        | .error _ => false) = true ∧
      (s.judgeSeg (ctx 1) .copy 1 0 (rawSeg 0x2000)).code = none ∧
      (s.judgeSeg (ctx 1) .transpose 2 0 (rawSeg 0x2000)).code = none ∧
      (s.judgeSeg (ctx 1) .fill 4 0 (rawSeg 0)).code = none ∧
      gives (.moveCopy 1) s (fun t => t.jobs.length == 1 && ctxIs t 1 fun c => c.begun.length == 1) = true ∧
      gives (.moveCopy 1) (cmd x [] []) (fun t => faulted t 0x0802) = true :=
  ⟨fetched_of (by decide +kernel), fetched_of (by decide +kernel), by decide +kernel⟩

/-- A MOVE of context 1 begun, with a job of one segment of two rows of four elements. -/
def moving (k : JobKind) (es src : Nat) : State :=
  let g : MoveSeg := { seg 0 src 0x3000 4 2 with ss1 := 0, ds1 := 0 }
  { withCtx with
    ctxs := [{ ctx 1 with begun := [begun1 5 5 false], list := some { list1 with next := 6 } }]
    mem := memOf [(0x2000, [1, 2, 3, 4, 5, 6, 7, 8])]
    jobs := [{ job 0 k [g] with epoch := 1, esize := es, fill := 0x090A }], nextJob := 1 }

/-- The bytes at 0x3000. -/
def at3000 (t : State) (b : Bytes) : Bool := ((List.range b.length).map fun i => t.mem.get (0x3000 + i)) == b

theorem witness_chunks :
    let s := moving .copy 1 0x2000
    s.phase = .ready ∧ s.wr = [] ∧ s.mem.wf = true ∧ s.heat.dp ≠ 0 ∧ s.moverBusy 3 = false ∧
      (s.jobs.findSome? fun j => (s.nextOfJob j).map fun r => (r.2.1, r.2.2)) = some (0, false) ∧
      (s.jobs.all fun j => j.segs.all fun g => (s.windowClosing j.kind g).isNone && (s.holdFor j.kind g).isNone &&
        (s.runsFault 1 g.src (g.reads .copy 1 0) false).isNone && (s.runsFault 1 g.dst (g.writes .copy 1 0) true).isNone &&
        !maHost g.dst && !maHost g.src && g.writes .copy 1 0 == [(0, 4), (4, 4)] && g.writes .transpose 1 0 == [(0, 2), (2, 2), (4, 2), (6, 2)] &&
        g.writes .fill 2 0 == [(0, 8), (8, 8)]) = true ∧
      gives (.moverChunk ⟨3, []⟩) s (fun t => at3000 t [1, 2, 3, 4, 5, 6, 7, 8]) = true ∧
      gives (.moverChunk ⟨3, []⟩) (moving .transpose 1 0x2000) (fun t => at3000 t [1, 5, 2, 6, 3, 7, 4, 8]) = true ∧
      gives (.moverChunk ⟨3, []⟩) (moving .fill 2 0) (fun t => at3000 t [10, 9, 10, 9, 10, 9, 10, 9]) = true ∧
      gives (.moverChunk ⟨3, []⟩) { s with heat := { s.heat with dp := 0 } } (fun t => t.mem == s.mem) = true := by decide +kernel

/-- A host window of port 0, and a read of it by context 1's MOVE. -/
def fromHost (up : Bool) : State :=
  (moving .copy 1 (2 ^ 60 + 3 * 2 ^ 48)).updPort 0 fun q =>
    { q with linkUp := up,
             windows := [{ index := 3, read := true, write := false, noSnoop := true, relaxed := false, hostAddr := 0x7000,
                           length := 0x2000, closing := [] }] }

theorem witness_host_chunks :
    (fromHost true).moverBusy 0 = false ∧
      ((fromHost true).jobs.all fun j => j.segs.all fun g => ((fromHost true).holdFor .copy g).isNone && maHost g.src &&
        ((fromHost true).windowFault g.src (g.reads .copy 1 0) false).isNone &&
        (fromHost false).holdFor .copy g == some (0, 3)) = true ∧ ((fromHost true).window? 0 3).isSome = true ∧
      gives (.moverChunk ⟨0, []⟩) (fromHost true) (fun t => t.hostReads.length == 1 &&
        t.out == [.hostRead 0 0 0x7000 4 true false, .hostRead 0 0 0x7004 4 true false]) = true ∧
      gives (.moverChunk ⟨0, []⟩) (fromHost false) (fun t => t.held.length == 1 && t.out.isEmpty) = true := by decide +kernel

/-- The read outstanding, of the port's epoch or an older one. -/
def reading (old : Bool) : State :=
  { fromHost true with
    hostReads := [{ tag := 4, port := 0, win := 3, epoch := if old then 1 else 0, job := 0, seg := 0, chunk := 0, mover := 0 }]
    jobs := (fromHost true).jobs.map fun j => { j with segs := j.segs.map fun g => { g with next := 1, total := 1 } } }

theorem witness_host_reads :
    let s := reading false
    s.phase = .ready ∧ s.mem.wf = true ∧ s.wr = [] ∧ (s.hostReads.all fun r => r.current s) = true ∧
      ((reading true).hostReads.all fun r => !r.current (reading true)) = true ∧
      (s.jobs.all fun j => j.epoch == s.ctxEpoch 1 && (s.jobCmd? j).isSome && j.segs.all fun g => !g.stopped &&
        runBytes (g.reads .copy 1 0) == 8 && !maHost g.dst && (s.runsFault 1 g.dst (g.writes .copy 1 0) true).isNone &&
        (g.image j 0 [8, 7, 6, 5, 4, 3, 2, 1]).length == 8) = true ∧
      ctxIs s 1 (fun c => !c.step && c.live && c.state != .halted) = true ∧
      gives (.hostReadCompletion 4 (.data [8, 7, 6, 5, 4, 3, 2, 1])) s (fun t => at3000 t [8, 7, 6, 5, 4, 3, 2, 1] &&
        t.hostReads.isEmpty) = true ∧
      gives (.hostReadCompletion 4 (.error 0)) s (fun t => faulted t 0x0804) = true ∧
      gives (.hostCompletionTimeout ⟨4, 0⟩) s (fun t => faulted t 0x0804) = true ∧
      gives (.hostCompletionTimeout ⟨4, 0⟩) (reading true) (fun t => t.stale == 1 && t.hostReads.isEmpty) = true := by
  decide +kernel

/-! ### The cores and the expanders -/

/-- No unit meets an uncorrectable word. -/
def sound : RunHw := { coreSram := none, expSram := none }

/-- The checks of `CleanRun` with what the rest of its clause asks, and one of the run itself. -/
def cleanCheck (s : State) (c : Ctx) (p : Except Code CoreRun) (f : CoreRun → Bool) : Bool :=
  match p with
  | .error _ => false
  | .ok r => !r.wait && r.begun.hw.coreSram.isNone && r.begun.hw.expSram.isNone &&
      (r.begun.hw.reads.all fun h => h.found != .uncorrectable) &&
      (r.items.all fun it => match it.work with
        | .ok w => w.pushes.isEmpty && (w.writes.all fun x => (r.state.accessFault c.num x.1 x.2.length true).isNone) &&
            (w.events.isEmpty || (s.ctx? (c.itemOwner it.item)).all fun y => !y.nanTrap)
        | .error _ => false) &&
      f r

/-- The checks say `CleanRun`. -/
theorem clean_of {s : State} {c : Ctx} {p : Except Code CoreRun} {f : CoreRun → Bool} (h : cleanCheck s c p f = true) :
    ∃ r, p = .ok r ∧ r.wait = false ∧ CleanRun s c r ∧ f r = true := by
  unfold cleanCheck at h
  split at h
  · exact absurd h (by decide)
  · next r =>
    simp only [Bool.and_eq_true, Bool.not_eq_true', Option.isNone_iff_eq_none, bne_iff_ne, List.all_eq_true] at h
    obtain ⟨⟨⟨⟨⟨h1, h2⟩, h3⟩, h4⟩, h5⟩, h6⟩ := h
    refine ⟨r, rfl, h1, ⟨h2, h3, h4, fun it hi => ?_⟩, h6⟩
    have := h5 it hi
    split at this
    · next w hw =>
      simp only [Bool.and_eq_true, Bool.or_eq_true, List.isEmpty_iff, List.all_eq_true, Option.isNone_iff_eq_none,
        Option.all_eq_true, Bool.not_eq_true'] at this
      exact ⟨w, hw, this.1.1, fun x hx => this.1.2 x hx, fun he y hy => (this.2.resolve_left he) y hy⟩
    · exact absurd this (by decide)

/-- The plan of a row for the command next in the list of context 1, whose partition is the first quad. -/
def quad0 (s : State) : State := { s with partitions := [0xF] }
def planOf (run : State → Ctx → Cmd → Except Code CoreRun) (s : State) (d : Bytes) : Except Code CoreRun :=
  run s (ctx 1) (s.cmdAt 1 (ctx 1) list1 d)

/-- Little-endian halves and words. -/
def halves (l : List Nat) : Bytes := (l.map (leBytes 2)).flatten
def words (l : List Nat) : Bytes := (l.map (leBytes 4)).flatten

/-- A MATMUL of two rows of four BF16 elements by two columns, and the same descriptor element by element. -/
def matDesc (fl m n k : Nat) : Bytes :=
  desc 1 [(16, 8, 0x1000), (24, 2, 1), (26, 1, 2), (27, 1, 2), (28, 1, 1), (30, 2, fl), (32, 4, m), (36, 4, n), (40, 4, k)]
def matRuns (m : Nat) : List (Nat × Bytes) :=
  [(0x1000, pack 64 [(0, 8, 0x2000), (16, 8, 0x3000), (40, 8, 0x4000), (48, 4, m), (60, 2, 0xFFFF)]),
   (0x2000, halves [0x3F80, 0x4000, 0x4040, 0x4080, 0xBF80, 0, 0, 0]), (0x3000, halves [0x3F80, 0x3F80, 0x3F80, 0x3F80, 0x4000, 0, 0, 0])]

/-- An entry of CONV and of ELTWISE. -/
def entryRun (y : Nat) : List (Nat × Bytes) := [(0x1000, pack 32 [(0, 8, 0x2000), (16, 8, y), (28, 2, 0xFFFF)])]

def convDesc (kind y : Nat) (fs : List (Nat × Nat × Nat)) : Bytes :=
  desc 2 ([(16, 8, 0x1000), (24, 2, 1), (26, 1, 2), (28, 1, y), (29, 1, kind), (32, 4, 1), (36, 4, 1), (40, 2, 2), (42, 2, 1),
    (44, 2, 1), (46, 3, 0x010101), (49, 3, 0x010101), (52, 3, 0x010101)] ++ fs)

def eltDesc : Bytes := desc 4 [(16, 8, 0x1000), (24, 2, 1), (26, 1, 2), (32, 4, 1), (36, 4, 2), (48, 8, 0x5000)]
def storeChain : Bytes := pack 16 [(0, 1, 1)] ++ pack 48 [(0, 1, 11), (2, 1, 1)]
def xs : Nat × Bytes := (0x2000, halves [0x3F80, 0xC000])
def expandDesc : Bytes := desc 6 [(16, 8, 0x1000), (32, 8, 0x4000), (60, 4, 1)]
def packRec : Bytes := pack 128 [(0, 1, 2), (4, 4, 4), (8, 4, 1), (16, 8, 0x2000)]

/-- A Saffron tensor of one column of four BF16 elements, its table of version A, and PACKPASS of each operation. -/
def saffron (stop : Nat) : Bytes :=
  pack 128 [(0, 1, 2), (1, 1, 1), (4, 4, 4), (8, 4, 1), (12, 4, 1), (16, 8, 0x7000), (32, 8, 0x5800), (40, 8, 0x6000),
    (48, 4, stop), (52, 4, 1025)]
def codesA : Nat × Bytes := (0x6000, pack 160 [(1, 1, 1), (2, 2, 1), (31, 1, 0), (47, 1, 0x10), (80, 1, 1)])
def ones : Nat × Bytes := (0x2000, halves [0x3F80, 0x3F80, 0x3F80, 0x3F80])
def packDesc (op : Nat) (fs : List (Nat × Nat × Nat)) : Bytes := desc 7 ([(16, 1, op), (24, 8, 0x1000)] ++ fs)

/-- One query row of zeros over one key, of a sequence of one block. -/
def attDesc : Bytes :=
  desc 3 [(16, 8, 0x1000), (24, 2, 1), (26, 1, 2), (27, 1, 1), (30, 2, 64), (32, 2, 1), (34, 2, 1), (40, 4, 0x3F800000)]
def attRuns : List (Nat × Bytes) :=
  [(0x1000, pack 80 [(0, 8, 0x2000), (8, 8, 0x4000), (40, 4, 1), (44, 4, 1), (56, 4, 1), (64, 2, 0xFFFF)]),
   (0x9000, halves [0x4000, 0x3F80])]
def attSeq : Sequence :=
  { seq1 with current := { version := 1, entries := [(0, 0x8000000000000800), (1, 0x8000000000000900)], length := 1,
                           kscales := [], vscales := [] } }
def attState : State := { quad0 (cmd attDesc attRuns []) with seqs := [attSeq], nextSeq := 2 }

/-- A plan runs cleanly, from a command fetched, and what it writes lies apart. -/
def RunsCleanly (run : State → Ctx → Cmd → Except Code CoreRun) (s : State) (d : Bytes) (out : List (Nat × Bytes)) : Prop :=
  Fetched s 1 (ctx 1) list1 d ∧ s.wr = [] ∧ s.mem.wf = true ∧
    (∃ r, planOf run s d = .ok r ∧ r.wait = false ∧ CleanRun s (ctx 1) r ∧ runWrites r = out) ∧
    ((out.map fun w => (List.range w.2.length).map fun i => s.physOf 1 (w.1 + i)).flatten).Nodup

theorem runs_of {run : State → Ctx → Cmd → Except Code CoreRun} {s : State} {d : Bytes} {out : List (Nat × Bytes)}
    (h1 : fetchedCheck s 1 (ctx 1) list1 d = true) (h2 : (decide (s.wr = []) && s.mem.wf && decide (s.maps = [map1 1 0])) = true)
    (h3 : cleanCheck s (ctx 1) (planOf run s d) (fun r => decide (runWrites r = out)) = true)
    (h4 : (decide ((out.map fun w => (List.range w.2.length).map fun i => w.1 + i).flatten.Nodup) &&
      out.all fun w => decide (w.1 + w.2.length ≤ 2 ^ 21)) = true) : RunsCleanly run s d out := by
  simp only [Bool.and_eq_true, decide_eq_true_eq, List.all_eq_true] at h2 h4
  obtain ⟨⟨h21, h22⟩, h23⟩ := h2
  refine ⟨fetched_of h1, h21, h22, ?_, ?_⟩
  · obtain ⟨r, hr, hw, hc, ho⟩ := clean_of h3
    exact ⟨r, hr, hw, hc, of_decide_eq_true ho⟩
  have : (out.map fun w => (List.range w.2.length).map fun i => s.physOf 1 (w.1 + i)) =
      out.map fun w => (List.range w.2.length).map fun i => w.1 + i :=
    List.map_congr_left fun w hw => List.map_congr_left fun i hi =>
      phys_of_ctx1 h23 (by have := h4.2 w hw; have := List.mem_range.1 hi; omega)
  rw [this]; exact h4.1

theorem witness_matmul :
    isMatmul false (matDesc 0 2 2 4) = true ∧ isMatmul true (matDesc 0x40 1 2 1) = true ∧
      RunsCleanly (State.matRun sound) (quad0 (cmd (matDesc 0 2 2 4) (matRuns 2) [])) (matDesc 0 2 2 4)
        [(0x4000, words [0x41200000, 0x40000000]), (0x4008, words [0xBF800000, 0xC0000000])] ∧
      RunsCleanly (State.matRun sound) (quad0 (cmd (matDesc 0x40 1 2 1) (matRuns 1) [])) (matDesc 0x40 1 2 1)
        [(0x4000, words [0x3F800000, 0x40000000])] :=
  ⟨by decide +kernel, by decide +kernel,
    runs_of (by decide +kernel) (by decide +kernel) (by decide +kernel) (by decide +kernel),
    runs_of (by decide +kernel) (by decide +kernel) (by decide +kernel) (by decide +kernel)⟩

def convolveDesc : Bytes := convDesc 0 1 [(27, 1, 2), (80, 8, 0x3000)]
def poolDesc (kind : Nat) : Bytes := convDesc kind 1 [(46, 3, 0x010102)]
def upDesc (kind : Nat) : Bytes := convDesc kind 1 [(114, 2, 0x0112)]

theorem witness_convolve :
    isConvKind 0 convolveDesc = true ∧
      RunsCleanly (State.convRun sound)
        (quad0 (cmd convolveDesc (entryRun 0x4000 ++ [xs, (0x3000, halves [0x4040])]) [])) convolveDesc
        [(0x4000, words [0x40400000]), (0x4004, words [0xC0C00000])] :=
  ⟨by decide +kernel, runs_of (by decide +kernel) (by decide +kernel) (by decide +kernel) (by decide +kernel)⟩

theorem witness_pools :
    isConvKind 1 (poolDesc 1) = true ∧ isConvKind 2 (poolDesc 2) = true ∧
      RunsCleanly (State.convRun sound) (quad0 (cmd (poolDesc 1) (entryRun 0x4000 ++ [xs]) [])) (poolDesc 1)
        [(0x4000, words [0x3F800000])] ∧
      RunsCleanly (State.convRun sound) (quad0 (cmd (poolDesc 2) (entryRun 0x4000 ++ [xs]) [])) (poolDesc 2)
        [(0x4000, words [0xBF000000])] :=
  ⟨by decide +kernel, by decide +kernel,
    runs_of (by decide +kernel) (by decide +kernel) (by decide +kernel) (by decide +kernel),
    runs_of (by decide +kernel) (by decide +kernel) (by decide +kernel) (by decide +kernel)⟩

theorem witness_upsample :
    isConvKind 3 (upDesc 3) = true ∧ isConvKind 4 (upDesc 4) = true ∧
      RunsCleanly (State.convRun sound) (quad0 (cmd (upDesc 3) (entryRun 0x4000 ++ [xs]) [])) (upDesc 3)
        [(0x4000, words [0x3F800000]), (0x4004, words [0x3F800000]), (0x4008, words [0xC0000000]),
         (0x400C, words [0xC0000000])] ∧
      RunsCleanly (State.convRun sound) (quad0 (cmd (upDesc 4) (entryRun 0x4000 ++ [xs]) [])) (upDesc 4)
        [(0x4000, words [0x3F800000]), (0x4004, words [0x3E800000]), (0x4008, words [0xBFA00000]),
         (0x400C, words [0xC0000000])] :=
  ⟨by decide +kernel, by decide +kernel,
    runs_of (by decide +kernel) (by decide +kernel) (by decide +kernel) (by decide +kernel),
    runs_of (by decide +kernel) (by decide +kernel) (by decide +kernel) (by decide +kernel)⟩

def statsDesc : Bytes := convDesc 6 0 [(104, 8, 0x4000), (112, 2, 1), (116, 4, 0x3727C5AC)]
def statsState : State := quad0 (cmd statsDesc (entryRun 0 ++ [xs]) [])
def applyDesc : Bytes := convDesc 7 1 [(104, 8, 0x3000), (112, 2, 1), (120, 8, 0x3100)]

theorem witness_regroup_norm :
    isConvKind 5 (convDesc 5 2 []) = true ∧ isConvKind 6 statsDesc = true ∧ isConvKind 7 applyDesc = true ∧
      RunsCleanly (State.convRun sound) (quad0 (cmd (convDesc 5 2 []) (entryRun 0x4000 ++ [xs]) [])) (convDesc 5 2 [])
        [(0x4000, halves [0x3F80]), (0x4002, halves [0xC000])] ∧
      fetchedCheck statsState 1 (ctx 1) list1 statsDesc = true ∧
      cleanCheck statsState (ctx 1) (planOf (State.convRun sound) statsState statsDesc) (fun r =>
        (runWrites r).head? == some (0x4000, words [0xBF000000, 0x3F2AAA92]) &&
          decide (((runWrites r).map fun w => (List.range w.2.length).map fun i => w.1 + i).flatten.Nodup)) = true ∧
      RunsCleanly (State.convRun sound)
        (quad0 (cmd applyDesc (entryRun 0x4000 ++
          [xs, (0x3000, words [0, 0x3F800000]), (0x3100, words [0x40000000, 0x3F800000])]) [])) applyDesc
        [(0x4000, words [0x40400000]), (0x4004, words [0xC0400000])] :=
  ⟨by decide +kernel, by decide +kernel, by decide +kernel,
    runs_of (by decide +kernel) (by decide +kernel) (by decide +kernel) (by decide +kernel), by decide +kernel,
    by decide +kernel, runs_of (by decide +kernel) (by decide +kernel) (by decide +kernel) (by decide +kernel)⟩

theorem witness_eltwise :
    isOpcode 4 eltDesc = true ∧
      RunsCleanly (State.eltRun sound) (quad0 (cmd eltDesc (entryRun 0x4000 ++ [xs, (0x5000, storeChain)]) [])) eltDesc
        [(0x4000, words [0x3F800000, 0xC0000000])] :=
  ⟨by decide +kernel, runs_of (by decide +kernel) (by decide +kernel) (by decide +kernel) (by decide +kernel)⟩

theorem witness_expand :
    isOpcode 6 expandDesc = true ∧
      RunsCleanly (State.expandRun sound) (quad0 (cmd expandDesc [(0x1000, packRec), xs] [])) expandDesc
        [(0x4000, halves [0x3F80, 0xC000, 0, 0]), (0, [])] :=
  ⟨by decide +kernel, runs_of (by decide +kernel) (by decide +kernel) (by decide +kernel) (by decide +kernel)⟩

theorem witness_packpass :
    let b := packDesc 0 [(32, 8, 0x2000)]
    let e := packDesc 1 [(32, 8, 0x2000)]
    let r := packDesc 2 []
    isPackpass 0 b = true ∧ isPackpass 1 e = true ∧ isPackpass 2 r = true ∧
      RunsCleanly (State.packpassRun sound) (quad0 (cmd b [(0x1000, saffron 0), ones] [])) b
        [(0x6000, pack 160 [(1, 1, 1), (2, 2, 1), (47, 1, 0x10), (80, 1, 1)])] ∧
      fetchedCheck (quad0 (cmd e [(0x1000, saffron 0), ones, codesA] [])) 1 (ctx 1) list1 e = true ∧
      RunsCleanly (State.packpassRun sound) (quad0 (cmd r [(0x1000, saffron 0)] [])) r [] :=
  ⟨by decide +kernel, by decide +kernel, by decide +kernel,
    runs_of (by decide +kernel) (by decide +kernel) (by decide +kernel) (by decide +kernel), by decide +kernel,
    runs_of (by decide +kernel) (by decide +kernel) (by decide +kernel) (by decide +kernel)⟩

theorem witness_attend :
    isOpcode 3 attDesc = true ∧
      RunsCleanly (State.attRun sound []) attState attDesc [(0x4000, pack 256 [(0, 4, 0x40000000), (4, 4, 0x3F800000)])] :=
  ⟨by decide +kernel, runs_of (by decide +kernel) (by decide +kernel) (by decide +kernel) (by decide +kernel)⟩

/-- EXPAND of a tensor that context 2's ENCODE builds, and a MATMUL without columns. -/
def behind : State :=
  let s := quad0 (cmd expandDesc [(0x1000, packRec), xs] [])
  { s with ctxs := s.ctxs ++ [{ ctx 2 with begun := [{ begun1 7 3 false with ord := 0, desc := packDesc 1 [], tensors := [0x1000] }] }] }

theorem witness_waits_and_errors :
    let d := matDesc 0 1 0 1
    let s := quad0 (cmd d [] [])
    fetchedCheck behind 1 (ctx 1) list1 expandDesc = true ∧
      (match planOf (State.expandRun sound) behind expandDesc with
        | .ok r => r.wait
        | .error _ => false) = true ∧
      fetchedCheck s 1 (ctx 1) list1 d = true ∧
      (match planOf (State.matRun sound) s d with
        | .ok _ => false
        | .error code => decide (code = 0x0402)) = true ∧
      gives (.expand 1 sound) behind (fun t => ctxIs t 1 fun c => c.begun.any fun b => b.waiting) = true ∧
      gives (.matmul 1 sound) s (fun t => faulted t 0x0402) = true := by decide +kernel

/-- Products of the worked example of 02: one of 448 x 448, four of 1.125 x 2^-9. -/
def products : List Val := .fin false 200704 0 :: List.replicate 4 (.fin false 9 (-12)) ++ List.replicate 27 (.fin false 0 0)

theorem witness_arithmetic :
    groupSum 0 products = 0x48440000 ∧ Val.nan ∈ [Val.nan, .inf true] ∧ Val.inf true ∈ [Val.inf true, .inf false] ∧
      Val.inf false ∈ [Val.inf true, .inf false] ∧ (∀ z ∈ [Val.fin true 0 5], z.isZero = true) ∧
      roundMag e4m3 27 (-2) false ≤ e4m3.maxFinite ∧ encodeVal e4m3 .saturate (.fin false 27 (-2)) = 0x4E ∧
      encodeVal e4m3 .saturate (.fin false 25 (-1)) = 0x54 ∧ 0x4E < 2 ^ e4m3.width ∧ decodeVal e4m3 0x4E ≠ .nan := by
  decide +kernel

theorem witness_conv_rules :
    let r : Ext := { w := 2, h := 1, t := 1 }
    let e : Ext := { w := 1, h := 1, t := 1 }
    let x := parseConv (poolDesc 1)
    let y := parseConv (upDesc 3)
    depthToSpace r e 1 (spaceToDepth r e [[5], [6]]) = [[5], [6]] ∧ [[5], [6]].length = (e.mul r).count ∧ x.kind = 1 ∧
      some (0x3F800000 : Word) ∈ [some 0x3F800000, none] ∧ x.pool 0 [some 0x3F800000, none] = 0x3F800000 ∧
      y.nearest (0, 0, 3) = 1 ∧ 3 < y.inExt.w * y.up.w ∧ bilinearDim 2 2 3 = [(1, 3), (1, 1)] := by decide +kernel

/-! ### The fabric -/

/-- Device 7, its settings applied by every group. -/
def glob7 : FabGlobal := { FabGlobal.reset with device := some 7 }

/-- A session with nothing outstanding, and a peer, device 9, on link 0. -/
def sess : Session :=
  { id := 5, epoch := 2, initiator := true, keys := zeros 38, chain := [], prevOk := false, home := 0, pn := [], windows := [],
    nextTsn := 1, reqs := [], consumed := 0, seen := 100, srtt := 0, rttvar := 0, samples := [], rate := 1000000000,
    alpha := 1, quiet := 0, eceIn := false, ceNote := false, retx := 0, cum := 0, beyond := [], returned := 0, issued := 0,
    faCache := [], refused := 0, inbox := [], toSend := [] }

def peer9 : Peer :=
  { device := 9, pin := none, mac := 0x020000000900, ipv6 := 0, subports := 1, frozen := none, session := none, waiting := [],
    hs := none, admitIn := [] }

/-- Context 1 beside a fabric whose port 0 is enabled, its one subport up, and one peer. -/
def hall (p : Peer) : State :=
  { withCtx with fab := { Fabric.reset with
      glob := glob7, groups := List.replicate 6 glob7, ports := (Fabric.reset.ports).set 0 { FabPort.reset true with mode := 1 }
      subs := Fabric.reset.subs.set 0 { Subport.reset with up := true }, peers := [p] } }

/-- The same, with the link of some other subport. -/
def withSub (x : Subport) : State := (hall peer9).updFab fun f => { f with subs := f.subs.set 0 x }

def up9 (q : Session) : Peer := { peer9 with session := some q }

theorem witness_forms :
    let g := sealed 0x0B01 [(4, 2, 4095), (6, 2, 0x0600), (8, 2, 1024), (10, 1, 1), (11, 1, 63), (12, 2, 1024)]
    let bad := sealed 0x0B01 [(4, 2, 4096), (6, 2, 0x0600), (8, 2, 1024), (10, 1, 1), (11, 1, 63), (12, 2, 1024)]
    let p := sealed 0x0B01 [(0, 1, 1), (1, 1, 23), (2, 1, 1), (3, 1, 3), (4, 1, 2), (5, 1, 1), (6, 2, 4094), (8, 1, 7)]
    let q := sealed 0x0B01 [(0, 1, 1), (1, 1, 24)]
    let u := sealed 0x0B01 [(0, 1, 2), (4, 1, 1)]
    let v := sealed 0x0B01 [(0, 1, 2), (2, 1, 1)]
    let s := hall peer9
    let t := hall (up9 sess)
    Taken (mail s g) slot0 .fabGlobal g ∧ Taken (mail t g) slot0 .fabGlobal g ∧ Taken (mail s bad) slot0 .fabGlobal bad ∧
      Taken (mail s p) slot0 .fabPort p ∧ Taken (mail s q) slot0 .fabPort q ∧ Taken (mail s u) slot0 .fabSubport u ∧
      Taken (mail s v) slot0 .fabSubport v ∧ s.wr = [] ∧ s.store.reserveOnly = false ∧ s.store.room 10 = true ∧
      s.fabSubportOk (slotBody u) = true ∧ s.fabSubportOk (slotBody v) = false ∧
      gives (.fabricConfigGlobal slot0) (mail s g) (fun t => t.fab.glob.device == some 4095 && t.fab.pending.length == 1) =
        true ∧
      gives (.fabricConfigGlobal slot0) (mail t g) (fun t => replied t slot0 0x0B03) = true ∧
      gives (.fabricConfigGlobal slot0) (mail s bad) (fun t => replied t slot0 0x0B02) = true ∧
      gives (.fabricConfigPort slot0) (mail s p) (fun t => t.fab.pending.any fun f => f.groups == [5]) = true ∧
      gives (.fabricConfigPort slot0) (mail s q) (fun t => replied t slot0 0x0B02) = true ∧
      gives (.fabricConfigSubport slot0) (mail s u) (fun t => t.fab.pending.any fun f => f.groups == [0]) = true ∧
      gives (.fabricConfigSubport slot0) (mail s v) (fun t => replied t slot0 0x0B02) = true :=
  ⟨taken_of (by decide +kernel), taken_of (by decide +kernel), taken_of (by decide +kernel), taken_of (by decide +kernel),
    taken_of (by decide +kernel), taken_of (by decide +kernel), taken_of (by decide +kernel), by decide +kernel⟩

/-- A form that waits for groups. -/
def formed (body : Bytes) (gs : List Nat) : State :=
  let m : Msg := { port := 0, box := none, slot := 0, seq := 4, tag := 7, notify := false, opcode := 0x0B01, body := body,
                   state := .waiting, discard := false }
  let s := (hall peer9).updFab fun f => { f with pending := [{ body := body, groups := gs, seq := 4 }] }
  { mail s (sealed 0x0B01 []) with ccx := { Ccx.reset with msgs := [m] } }

/-- Port 0 with a test word armed, and a removed peer. -/
def armedTest : State := (hall peer9).updFport 0 fun f => { f with armed := some 0xC00000FF }
def removed : State := (hall peer9).updFab fun f => { f with removing := [(4, 9, [0])] }

theorem witness_apply_forms :
    let g := pack 240 [(4, 2, 11), (6, 2, 0x0600), (8, 2, 1024), (10, 1, 1), (12, 2, 1024)]
    let p := pack 240 [(0, 1, 1), (2, 1, 1), (3, 1, 1)]
    let u := pack 240 [(0, 1, 2), (4, 1, 1)]
    (formed p [0]).phase = .ready ∧ (formed p [0]).wr = [] ∧ (formed p [0]).fab.removing = [] ∧
      (∀ i, i < 4 → ((formed p [0]).fport (4 * 0 + i)).armed = none) ∧ (formed p [0]).ccx.dbgWaiting = [] ∧
      ((formed g [0, 1]).fab.pending.find? fun y => y.groups.contains 0 && (formed g [0, 1]).formReady y.body).isSome = true ∧
      fabPortOk p = true ∧ (armedTest.fport 0).armed = some 0xC00000FF ∧ armedTest.fab.pending = [] ∧
      gives (.configApply (.portGroup 0)) (formed g [0, 1]) (fun t => t.fab.groups[0]?.any (fun y => y.device == some 11) &&
        t.ccx.msgs.length == 1) = true ∧
      gives (.configApply (.portGroup 0)) (formed p [0]) (fun t => t.fab.subs[0]?.any (fun x => !x.up && x.training) &&
        t.fab.subs[1]?.any (fun x => x.training) && t.ccx.msgs.isEmpty) = true ∧
      gives (.configApply (.portGroup 0)) (formed u [0]) (fun t => t.fab.subs[0]?.any fun x => x.up && x.noLldp) = true ∧
      gives (.configApply (.portGroup 0)) armedTest (fun t => (t.fport 0).prbs == 0xC00000FF && (t.fport 0).armed == none) =
        true ∧
      gives (.configApply (.portGroup 0)) removed (fun t => t.fab.peers.isEmpty && t.fab.removing.isEmpty) = true := by
  decide +kernel

theorem witness_subports :
    let t := withSub { Subport.reset with training := true }
    let u := hall peer9
    let n := withSub { Subport.reset with up := true, noLldp := true, badRun := 7 }
    t.linkExists 0 = true ∧ t.wr = [] ∧ (t.sub 0).counters.length = 27 ∧ t.heat.stopped = false ∧
      u.heat.stopped = false ∧
      gives (.subportUp 0) t (fun s => (s.sub 0).up && s.out == [.frame 0 (t.lldpFrame 0)]) = true ∧
      gives (.subportUp 0) u (fun s => s == u) = true ∧
      gives (.subportBringupRetry 0) (withSub Subport.reset) (fun s => (s.sub 0).training) = true ∧
      gives (.subportFecLockLoss 0) u (fun s => !(s.sub 0).up && (s.sub 0).training) = true ∧
      gives (.subportErrorWindow 0 65 1 2) n (fun s => !(s.sub 0).up) = true ∧
      gives (.subportErrorWindow 0 64 1 2) n (fun s => (s.sub 0).up && (s.sub 0).badRun == 0) = true ∧
      gives (.lldpTimer 0) u (fun s => s.out == [.frame 0 (u.lldpFrame 0)]) = true ∧
      gives (.lldpTimer 0) n (fun s => s == n) = true := by decide +kernel

theorem witness_checkers :
    let s := (hall peer9).updFport 0 fun f => { f with prbs := 0x800000FF }
    let l := s.updFab fun f => { f with lanes := f.lanes.set 3 (true, 0x7FFFFFFE) }
    s.laneChecks 3 0 = true ∧ s.fab.lanes[3]? = some (false, 0) ∧ l.fab.lanes[3]? = some (true, 0x7FFFFFFE) ∧
      gives (.prbsCheckerLock 3 0) s (fun t => t.fab.lanes[3]? == some (true, 0)) = true ∧
      gives (.prbsCheckerLockLoss 3 2) l (fun t => t.fab.lanes[3]? == some (false, 0x7FFFFFFF)) = true ∧
      gives (.prbsCheckerLockLoss 3 2) s (fun t => t == s) = true := by decide +kernel

/-- A frame to subport 0 as it stood on the wire: destination, source, EtherType, Beykai header and payload. -/
def header (cls src dev sess epoch pn n : Nat) : Bytes :=
  [1, BitVec.ofNat 8 cls, 0, 0] ++ beBytes 2 n ++ beBytes 2 src ++ beBytes 2 dev ++ zeros 2 ++ beBytes 4 sess ++
    beBytes 4 epoch ++ beBytes 8 pn ++ zeros 4
def frame (dst cls src dev sess epoch pn : Nat) (body : Bytes) : WireFrame :=
  let b := beBytes 6 dst ++ beBytes 6 0x020000000901 ++ beBytes 2 0x88B5 ++ header cls src dev sess epoch pn body.length ++ body
  { fecOk := true, fcsOk := true, bytes := b ++ zeros 4, at_ms := 0 }

/-- A response record of type STATUS, and the frame that carries it. -/
def statusRec : Bytes := pack 32 [(0, 1, 0x13), (2, 2, 0x0902), (8, 4, 3)]
def dataFrame (sess pn : Nat) (body : Bytes) : WireFrame := frame 0x020000000001 2 9 7 sess 2 pn body

/-- The body that protects 32 bytes under the keys of the session of these tests. -/
def guarded (plain : Bytes) : Bytes :=
  sm4GcmSeal (zeros 16) (frameNonce (zeros 3) 0 1) (header 2 9 7 5 2 1 48) plain

/-- The counter of subport 0 at a place of Table 13 of 12. -/
def counted (t : State) (k : Nat) : Bool := (t.sub 0).counters.getD k 0 == 1

theorem witness_frames_lost :
    let s := hall peer9
    let f := dataFrame 5 1 (zeros 48)
    let short : WireFrame := { f with bytes := zeros 63 }
    s.linkExists 0 = true ∧ (s.sub 0).counters.length = 27 ∧ s.addressed 0 0x020000000001 = true ∧
      parseBeykai (some 7) ((f.bytes.take (f.bytes.length - 4)).drop 14) =
        some { cls := 2, flags := 0, link := 0, src := 9, session := 5, epoch := 2, pn := 1, head := header 2 9 7 5 2 1 48,
               body := zeros 48 } ∧
      gives (.frameReceive 0 f) (withSub Subport.reset) (fun t => t == withSub Subport.reset) = true ∧
      gives (.frameReceive 0 { f with fcsOk := false }) s (fun t => counted t 7) = true ∧
      gives (.frameReceive 0 short) s (fun t => counted t 8) = true ∧
      gives (.frameReceive 0 (frame 0x0A0000000001 2 9 7 5 2 1 (zeros 48))) s (fun t => counted t 10) = true ∧
      gives (.frameReceive 0 (frame 0x020000000001 2 9 8 5 2 1 (zeros 48))) s (fun t => counted t 14) = true ∧
      gives (.frameReceive 0 (frame 0x020000000001 2 10 7 5 2 1 (zeros 48))) s (fun t => counted t 15) = true ∧
      gives (.frameReceive 0 f) (hall { peer9 with frozen := some 0x0B0E }) (fun t => counted t 16) = true ∧
      gives (.frameReceive 0 f) s (fun t => counted t 19) = true := by decide +kernel

/-- A certificate of device 9 that its own key signs, made by OpenSSL, and an admission payload that carries it. -/
def cert9 : Bytes :=
  beBytes 48 0x3082018230820127a00302010202142833bb06253671c73ffbcf89cdb73b6df9cfd165300a06082a811ccf5501837530 ++
  beBytes 48 0x163114301206035504030c0b6265796b61692d30303039301e170d3236313132363133313435315a170d333631313233 ++
  beBytes 48 0x3133313435315a30163114301206035504030c0b6265796b61692d303030393059301306072a8648ce3d020106082a81 ++
  beBytes 48 0x1ccf5501822d0342000435f1135efc51e1289bc24d523026ee304321e48223a501c5d8691a4142c3e7b5e934ae8f8db4 ++
  beBytes 48 0x7474050e77dbddb0f3a88554e855d2d04f139150e43de2da2054a3533051301d0603551d0e04160414c81b5b1971160d ++
  beBytes 48 0x30e751978a74e370ec9b04979d301f0603551d23041830168014c81b5b1971160d30e751978a74e370ec9b04979d300f ++
  beBytes 48 0x0603551d130101ff040530030101ff300a06082a811ccf550183750349003046022100bdfd302f2fc624972b941d39f7 ++
  beBytes 48 0x3a5df2bbfd46494ecc442bdac80fc508110bd8022100d942e08812604019a53f9fa91dfccb95895e3ce908220df42c36 ++
  beBytes 6 0x05db307c7d42
def helloBody (sub : Nat) : Bytes := admitPayload sub (if sub = 3 then [] else cert9) [] [] []
def helloFrame : WireFrame := frame 0x020000000001 1 9 7 5 1 0 (helloBody 1)

theorem witness_frames_kept :
    let q := hall (up9 sess)
    admitOk (helloBody 1) = true ∧ q.admitted1s 0 0 = 0 ∧ sess.current 2 = true ∧
      (sess.window 2 0).replay 1 = false ∧ statusRec.length + 16 = 48 ∧
      ((parseRecords 2 statusRec).any fun l => l.all fun r => !isRequest r.kind) = true ∧
      parseRecords 2 (zeros 32) = none ∧
      gives (.frameReceive 0 helloFrame) (hall peer9) (fun t => counted t 18 && (t.peer? 9).any fun p =>
        p.admitIn.length == 1) = true ∧
      gives (.frameReceive 0 helloFrame) { hall peer9 with fab := { (hall peer9).fab with admits := List.replicate 100 (0, 0) } }
        (fun t => counted t 17) = true ∧
      gives (.frameReceive 0 (dataFrame 6 1 (zeros 48))) q (fun t => counted t 19) = true ∧
      gives (.frameReceive 0 (dataFrame 5 1 (zeros 48))) q (fun t => counted t 21) = true ∧
      gives (.frameReceive 0 (dataFrame 5 1 (guarded statusRec))) q (fun t => counted t 22 && (t.session? 9).any fun y =>
        y.inbox.length == 1 && (y.window 2 0).replay 1) = true ∧
      gives (.frameReceive 0 (dataFrame 5 1 (guarded (zeros 32)))) q (fun t => (t.peer? 9).any fun p =>
        p.frozen == some 0x0B0E && p.session.isNone) = true := by decide +kernel

/-! ### Admission and handshakes -/

/-- FABRIC_ADMIT of an operation, with fields of its body. -/
def admMail (op : Nat) (fs : List (Nat × Nat × Nat)) : Bytes := sealed 0x0B02 ((0, 1, op) :: fs)

/-- Certificates in the memory of context 1: what the parser and the chain check answer is left open, so both outcomes
stand as hypotheses. -/
def addAnchorMail : Bytes := admMail 0 [(1, 1, 7), (8, 4, 1), (16, 8, 0x3000), (24, 4, 4096)]
def ownChainMail : Bytes := admMail 2 [(8, 4, 1), (16, 8, 0x3000), (24, 4, 1)]

theorem witness_anchors :
    let s := hall peer9
    let rm := admMail 1 [(1, 1, 7)]
    let u := s.updFab fun f => { f with anchors := [(7, [1])] }
    let bad := admMail 0 [(1, 1, 8), (8, 4, 1), (16, 8, 0x3000), (24, 4, 4096)]
    let none' := admMail 2 [(8, 4, 1), (16, 8, 2 ^ 30), (24, 4, 1)]
    Taken (mail s addAnchorMail) slot0 .addAnchor addAnchorMail ∧ Taken (mail s bad) slot0 .addAnchor bad ∧
      Taken (mail u rm) slot0 .removeAnchor rm ∧ Taken (mail s rm) slot0 .removeAnchor rm ∧
      Taken (mail s ownChainMail) slot0 .setOwnChain ownChainMail ∧ Taken (mail s none') slot0 .setOwnChain none' ∧
      s.wr = [] ∧ s.admitBodyOk (slotBody addAnchorMail) true false false true = true ∧
      (s.admitBuffer (slotBody addAnchorMail)).isSome = true ∧ s.store.reserveOnly = false ∧ s.store.room 4096 = true ∧
      s.admitBodyOk (slotBody rm) true false false false = true ∧
      s.admitBodyOk (slotBody ownChainMail) false false false true = true ∧
      (s.admitBuffer (slotBody ownChainMail)).isSome = true ∧ s.fab.glob.device = some 7 ∧
      gives (.fabricAdmitAddAnchor slot0) (mail s bad) (fun t => replied t slot0 0x0B04) = true ∧
      gives (.fabricAdmitRemoveAnchor slot0) (mail u rm) (fun t => t.fab.anchors.isEmpty) = true ∧
      gives (.fabricAdmitRemoveAnchor slot0) (mail s rm) (fun t => replied t slot0 0x0B04) = true ∧
      gives (.fabricAdmitSetOwnChain slot0) (mail s none') (fun t => replied t slot0 0x0B04) = true :=
  ⟨taken_of (by decide +kernel), taken_of (by decide +kernel), taken_of (by decide +kernel), taken_of (by decide +kernel),
    taken_of (by decide +kernel), taken_of (by decide +kernel), by decide +kernel⟩

/-- A handshake of the module's own, and of the peer. -/
def shake (own re : Bool) (tries : Nat) : Handshake :=
  { id := 5, rekey := re, initiator := own, tries := tries, nonce := zeros 32, eph := zeros 64, keys := zeros 38,
    link := some 0, chain := [1, 2, 3, 4], anchors := [cert9], expect := zeros 32, sent := helloBody 1 }

theorem witness_peers :
    let add (d fl : Nat) := admMail 3 [(2, 1, fl), (4, 2, d), (64, 1, 2), (88, 1, 1)]
    let rm := admMail 4 [(4, 2, 9)]
    let re := admMail 5 [(4, 2, 9)]
    let s := hall peer9
    let q := hall (up9 sess)
    let h := hall { up9 sess with hs := some (shake true true 1) }
    Taken (mail s (add 10 0)) slot0 .addPeer (add 10 0) ∧ Taken (mail s (add 9 0)) slot0 .addPeer (add 9 0) ∧
      Taken (mail s (add 9 2)) slot0 .addPeer (add 9 2) ∧ Taken (mail s (add 7 0)) slot0 .addPeer (add 7 0) ∧
      Taken (mail q rm) slot0 .removePeer rm ∧ Taken (mail q re) slot0 .rekey re ∧ Taken (mail h re) slot0 .rekey re ∧
      Taken (mail s re) slot0 .rekey re ∧
      s.admitBodyOk (slotBody (add 9 2)) false true true false = true ∧ s.addressMissing (peerOf (slotBody (add 9 2))) = false ∧
      s.store.room 110 = true ∧ s.peer? 10 = none ∧ s.peer? 9 = some peer9 ∧ s.leaving 9 = false ∧
      s.admitBodyOk (slotBody (add 7 0)) false true true false = false ∧
      q.admitBodyOk (slotBody rm) false true false false = true ∧ q.admitted 9 = true ∧ s.session? 9 = none ∧
      gives (.fabricAdmitAddPeer slot0) (mail s (add 10 0)) (fun t => t.fab.peers.length == 2) = true ∧
      gives (.fabricAdmitAddPeer slot0) (mail s (add 9 0)) (fun t => (t.peer? 9).any fun p => p.mac == 0x020000000000) =
        true ∧
      gives (.fabricAdmitAddPeer slot0) (mail s (add 7 0)) (fun t => replied t slot0 0x0B04) = true ∧
      gives (.fabricAdmitRemovePeer slot0) (mail q rm) (fun t => t.fab.removing.length == 1 && (t.session? 9).isNone) = true ∧
      gives (.fabricAdmitRekey slot0) (mail q re) (fun t => (t.peer? 9).any fun p => p.hs.any fun x => x.rekey) = true ∧
      gives (.fabricAdmitRekey slot0) (mail h re) (fun t => replied t slot0 0) = true ∧
      gives (.fabricAdmitRekey slot0) (mail s re) (fun t => replied t slot0 0x0B04) = true :=
  ⟨taken_of (by decide +kernel), taken_of (by decide +kernel), taken_of (by decide +kernel), taken_of (by decide +kernel),
    taken_of (by decide +kernel), taken_of (by decide +kernel), taken_of (by decide +kernel), taken_of (by decide +kernel),
    by decide +kernel⟩

theorem witness_peer_thaw :
    let b := sealed 0x0B03 [(0, 2, 9)]
    let s := hall { peer9 with frozen := some 0x0B0E }
    Taken (mail s b) slot0 .peerThaw b ∧ Taken (mail (hall peer9) b) slot0 .peerThaw b ∧ s.wr = [] ∧
      gives (.peerThaw slot0) (mail s b) (fun t => (t.peer? 9).any fun p => p.frozen.isNone) = true ∧
      gives (.peerThaw slot0) (mail (hall peer9) b) (fun t => replied t slot0 0x0B0C) = true :=
  ⟨taken_of (by decide +kernel), taken_of (by decide +kernel), by decide +kernel⟩

/-- An admission message of the peer, and the peer with it and a handshake, its certificate an anchor here or not. -/
def message (sub : Nat) : AdmitIn := { link := 0, session := 5, epoch := 1, payload := helloBody sub }
def told (sub : Nat) (q : Option Session) (h : Option Handshake) : State :=
  (hall { peer9 with session := q, hs := h, admitIn := [message sub] }).updFab fun f => { f with anchors := [(0, cert9)] }
def unanchored (s : State) : State := s.updFab fun f => { f with anchors := [] }

/-- The peer's session and handshake after a step. -/
def peerIs (t : State) (f : Peer → Bool) : Bool := (t.peer? 9).any f

theorem witness_hello :
    admitSub (helloBody 1) = 1 ∧ admitSub (helloBody 4) = 4 ∧ (told 1 none none).running = true ∧
      (told 1 none none).ownProceeds peer9 false = false ∧
      (told 1 none (some (shake true false 1))).ownProceeds { peer9 with hs := some (shake true false 1) } false = true ∧
      (told 1 none none).sendPaths peer9 = [0] ∧ sess.id = (message 4).session ∧
      peer9.chainOk (told 1 none none).anchorList (helloBody 1) = true ∧ peer9.chainOk [] (helloBody 1) = false ∧
      gives (.hello 9 5) (unanchored (told 1 none none)) (fun t => counted t 25 && peerIs t fun p => p.hs.isNone) = true ∧
      gives (.hello 9 5) (told 1 none none) (fun t => peerIs t fun p => p.hs.any fun h => !h.initiator) = true ∧
      gives (.hello 9 5) (told 1 none (some (shake true false 1))) (fun t => t.out.isEmpty) = true ∧
      gives (.rekeyHello 9 5) (unanchored (told 4 (some sess) none)) (fun t => counted t 25) = true ∧
      gives (.rekeyHello 9 5) (told 4 (some sess) none) (fun t => peerIs t fun p => p.hs.any fun h => h.rekey) = true ∧
      gives (.rekeyHello 9 5) (told 4 (some { sess with id := 6 }) none) (fun t => t.out.isEmpty) = true := by
  decide +kernel

/-- A peer that began the handshake here hears its HELLO again, and answers it as before. -/
def heard : Handshake := { shake false false 0 with heard := helloBody 1 }

theorem witness_heard_again :
    ({ peer9 with hs := some heard } : Peer).heardAgain (message 1) = some heard ∧
      (told 1 none (some heard)).ownProceeds { peer9 with hs := some heard } false = false ∧
      gives (.hello 9 5) (told 1 none (some heard)) (fun t => t.out.length == 1 && peerIs t fun p =>
        p.hs.any fun h => h.id == 5 && h.tries == 0) = true := by decide +kernel

/-- The payload of a REPLY that proves the handshake of a state, whatever the key exchange gives. -/
def proof (h : Handshake) : Bytes :=
  admitPayload 2 cert9 [] [] (confirmOf 2 (ownSide (admitChain h.sent) h.eph h.nonce) (peerSide (helloBody 2)))

theorem takePad_left : ∀ (n : Nat) (x y : Bytes), x.length = n → takePad n (x ++ y) = x
  | 0, x, y, h => by rw [List.length_eq_zero_iff.1 h]; rfl
  | n + 1, [], y, h => by simp at h
  | n + 1, a :: x, y, h => by
    rw [List.cons_append, takePad, takePad_left n x y (by simpa using h)]

/-- A part of a payload, cut where it begins. -/
theorem sliceBytes_part (a x y : Bytes) {o n : Nat} (ha : a.length = o) (hx : x.length = n) :
    sliceBytes (a ++ x ++ y) o n = x := by
  rw [sliceBytes, List.append_assoc, List.drop_left' ha, takePad_left n x y hx]

theorem beBytes_length (n v : Nat) : (beBytes n v).length = n := by
  simp [beBytes]

theorem payload_parts (sub : Nat) (c n e f : Bytes) :
    admitChain (admitPayload sub c n e f) = c ∧ admitNonce (admitPayload sub c n e f) = sliceBytes n 0 32 ∧
      admitEph (admitPayload sub c n e f) = sliceBytes e 0 64 ∧
      admitConfirm (admitPayload sub c n e f) = sliceBytes f 0 32 := by
  refine ⟨List.drop_left' (by simp [beBytes_length, zeros]), ?_, ?_, ?_⟩
  · have := sliceBytes_part (beBytes 1 sub ++ zeros 1 ++ beBytes 2 c.length ++ zeros 4) (sliceBytes n 0 32)
      (sliceBytes e 0 64 ++ sliceBytes f 0 32 ++ c) (o := 8) (n := 32) (by simp [beBytes_length, zeros]) (by simp)
    simpa [admitNonce, admitPayload, List.append_assoc] using this
  · have := sliceBytes_part (beBytes 1 sub ++ zeros 1 ++ beBytes 2 c.length ++ zeros 4 ++ sliceBytes n 0 32)
      (sliceBytes e 0 64) (sliceBytes f 0 32 ++ c) (o := 40) (n := 64) (by simp [beBytes_length, zeros]) (by simp)
    simpa [admitEph, admitPayload, List.append_assoc] using this
  · have := sliceBytes_part (beBytes 1 sub ++ zeros 1 ++ beBytes 2 c.length ++ zeros 4 ++ sliceBytes n 0 32 ++
      sliceBytes e 0 64) (sliceBytes f 0 32) c (o := 104) (n := 32) (by simp [beBytes_length, zeros]) (by simp)
    simpa [admitConfirm, admitPayload, List.append_assoc] using this

theorem peerSide_payload (sub : Nat) (c n e f g : Bytes) :
    peerSide (admitPayload sub c n e f) = peerSide (admitPayload sub c n e g) := by
  obtain ⟨h1, h2, h3, -⟩ := payload_parts sub c n e f
  obtain ⟨k1, k2, k3, -⟩ := payload_parts sub c n e g
  rw [peerSide, peerSide, h1, h2, h3, k1, k2, k3]

theorem witness_reply_proved :
    let h := shake true false 1
    admitSub (proof h) = 2 ∧ h.id = (message 2).session ∧ h.initiator = true ∧ peer9.chainOk h.anchors (proof h) = true ∧
      admitConfirm (proof h) = confirmOf 2 (ownSide (admitChain h.sent) h.eph h.nonce) (peerSide (proof h)) ∧
      (told 2 none (some h)).sendPaths peer9 = [0] :=
  ⟨rfl, by decide +kernel, rfl,
    by rw [Peer.chainOk, proof, (payload_parts _ _ _ _ _).1]; decide +kernel,
    by
      rw [proof, (payload_parts _ _ _ _ _).2.2.2, peerSide_payload 2 cert9 [] [] _ []]
      exact (congrArg (takePad 32) (List.append_nil _).symm).trans (takePad_left 32 _ [] (by simp [confirmOf])),
    by decide +kernel⟩

theorem witness_reply_failed :
    let h := { shake true false 1 with anchors := [] }
    let r := { shake true true 1 with anchors := [] }
    (told 2 none (some h)).running = true ∧ admitSub (helloBody 2) = 2 ∧ h.id = (message 2).session ∧
      peer9.chainOk h.anchors (helloBody 2) = false ∧
      gives (.reply 9 5) (told 2 none (some h)) (fun t => counted t 25) = true ∧
      gives (.reply 9 5) (told 2 (some sess) (some r)) (fun t => (t.session? 9).isNone) = true := by
  decide +kernel

theorem witness_confirm :
    let h := shake false false 0
    let bad := { h with expect := 1 :: zeros 31 }
    let badR := { shake false true 0 with expect := 1 :: zeros 31 }
    admitSub (helloBody 3) = 3 ∧ admitConfirm (helloBody 3) = h.expect ∧ admitConfirm (helloBody 3) ≠ bad.expect ∧
      gives (.confirm 9 5) (told 3 none (some h)) (fun t => peerIs t fun p =>
        p.session.any fun q => q.epoch == 1 && q.chain == [1, 2, 3, 4]) = true ∧
      gives (.confirm 9 5) (told 3 (some sess) (some (shake false true 0))) (fun t => peerIs t fun p =>
        p.session.any fun q => q.epoch == 3 && q.prevOk) = true ∧
      gives (.confirm 9 5) (told 3 none (some bad)) (fun t => peerIs t fun p => p.hs.isNone) = true ∧
      gives (.confirm 9 5) (told 3 (some sess) (some badR)) (fun t => (t.session? 9).isNone) = true := by
  decide +kernel

theorem witness_retry_grace :
    let h (n : Nat) (re : Bool) := hall { peer9 with hs := some (shake true re n), session := if re then some sess else none }
    gives (.handshakeRetryTimer 9) (h 9 false) (fun t => peerIs t fun p => p.hs.any fun y => y.tries == 10) = true ∧
      gives (.handshakeRetryTimer 9) (h 10 false) (fun t => counted t 25 && peerIs t fun p => p.hs.isNone) = true ∧
      gives (.handshakeRetryTimer 9) (h 10 true) (fun t => (t.session? 9).isNone) = true ∧
      gives (.epochGraceExpire 9) (hall (up9 { sess with prevOk := true, windows := [{ epoch := 1, link := 0, high := 3, seen := [3] }] }))
        (fun t => (t.session? 9).any fun q => !q.prevOk && q.windows.isEmpty) = true := by decide +kernel

/-! ### The hall memory space -/

/-- The hall address of a byte of context 1 of a device. -/
def hallAt (device va : Nat) : Nat := device * 2 ^ 52 + 2 ^ 48 + va

/-- A record received with TSN 1, and the session with records received. -/
def rec1 (kind : Nat) (aux : Word) (a : Nat) (b : Bytes) : InRec :=
  { kind := kind, ordered := true, status := 0, tsn := 1, aux := aux, addr := a, ld := 16, data := b, dup := false }
def received (rs : List InRec) : State := hall (up9 { sess with inbox := rs })
def words8 (t : State) (a : Nat) : Bytes := (List.range 8).map fun i => t.mem.get (a + i)

/-- A check of the session after a step. -/
def sessIs (t : State) (f : Session → Bool) : Bool := (t.session? 9).any f

/-- A sequence a ring peer may read. -/
def ringed (s : State) : State := { s with seqs := [{ seq1 with ringShare := true }], nextSeq := 2 }

theorem witness_hall_requests :
    let w := received [rec1 1 0 (hallAt 7 0x3000) [1, 2, 3, 4, 5, 6, 7, 8]]
    let p := received [rec1 2 0x00020004 (hallAt 7 0x3000) [1, 2, 3, 4, 5, 6, 7, 8]]
    let r := received [rec1 3 8 (hallAt 7 0x3000) []]
    let f := received [rec1 4 0 (hallAt 7 0x3000) (leBytes 8 (2 ^ 64 - 1))]
    let x := ringed (received [rec1 5 0 0 (pack 24 [(0, 4, 3), (4, 4, 1), (16, 4, 1)])])
    let l := ringed (received [rec1 6 0 0 (pack 8 [(0, 4, 3)])])
    w.phase = .ready ∧ w.wr = [] ∧ w.mem.wf = true ∧ ((w.session? 9).any fun q => q.cum + 1 == 1) = true ∧
      w.fab.glob.device = some (hallDevice (hallAt 7 0x3000)) ∧ hallWindow (hallAt 7 0x3000) = 1 ∧
      hallOffset (hallAt 7 0x3000) = 0x3000 ∧ ctxIs w 1 (fun c => c.live) = true ∧
      w.accessFault 1 0x3000 8 true = none ∧ (x.servedSeq? 9 1 3).isSome = true ∧
      gives (.writeRecord 9 1) w (fun t => words8 t 0x3000 == [1, 2, 3, 4, 5, 6, 7, 8] && sessIs t fun q => q.cum == 1) = true ∧
      gives (.pushRecord 9 1) p (fun t => words8 t 0x3000 == [1, 2, 3, 4, 0, 0, 0, 0] &&
        words8 t 0x3010 == [5, 6, 7, 8, 0, 0, 0, 0]) = true ∧
      gives (.readRecord 9 ⟨1, []⟩) r (fun t => sessIs t fun q => q.toSend.any fun y => y.data == zeros 8 && y.kind == 0x11) = true ∧
      gives (.fetchAddRecord 9 ⟨1, []⟩) f (fun t => words8 t 0x3000 == List.replicate 8 0xFF && sessIs t fun q =>
        q.toSend.any fun y => y.data == zeros 8) = true ∧
      gives (.seqReadRecord 9 ⟨1, []⟩) x (fun t => (t.seqs.any fun y => y.walks == [.peer 1 9 3]) && sessIs t fun q =>
        q.toSend.any fun y => y.data == zeros 8) = true ∧
      gives (.seqReleaseRecord 9 1) l (fun t => sessIs t fun q => q.cum == 1 && q.toSend.isEmpty) = true := by decide +kernel

theorem witness_hall_refusals :
    let w (n : Nat) := hall (up9 { sess with inbox := [rec1 1 0 (hallAt 8 0x3000) [1]], refused := n })
    let f := received [rec1 4 0 (hallAt 7 0x3001) (zeros 8)]
    let x := received [rec1 5 0 0 (pack 24 [(0, 4, 3), (4, 4, 1), (16, 4, 2)])]
    let p := received [rec1 2 0x00010004 (hallAt 7 (2 ^ 30)) [1, 2, 3, 4]]
    let r := received [rec1 3 8 (hallAt 8 0x3000) []]
    (match (w 0).hallTarget 9 (hallAt 8 0x3000) 1 false with
      | .ok _ => false
      | .error _ => true) = true ∧ x.servedSeq? 9 1 3 = none ∧
      (p.pushFault 9 (hallAt 7 (2 ^ 30)) [(0, [1, 2, 3, 4])]).isSome = true ∧
      gives (.writeRecord 9 1) (w 14) (fun t => sessIs t fun q => q.refused == 15 && q.toSend.any fun y => y.kind == 0x13) =
        true ∧
      gives (.writeRecord 9 1) (w 15) (fun t => peerIs t fun q => q.frozen == some 0x0B0F) = true ∧
      gives (.pushRecord 9 1) p (fun t => sessIs t fun q => q.refused == 1) = true ∧
      gives (.readRecord 9 ⟨1, []⟩) r (fun t => sessIs t fun q => q.refused == 1) = true ∧
      gives (.fetchAddRecord 9 ⟨1, []⟩) f (fun t => sessIs t fun q => q.refused == 1) = true ∧
      gives (.seqReadRecord 9 ⟨1, []⟩) x (fun t => sessIs t fun q => q.toSend.any fun y => y.status == 0x0607) = true := by
  decide +kernel

/-- A request of context 1's command of index 5, sent once. -/
def req1 (kind : Nat) : Req :=
  { tsn := 1, kind := kind, ordered := false, aux := 8, addr := hallAt 9 0, ld := 0, data := zeros 8, cost := 1, sent := 1,
    lastLink := 0, acked := false, got := [], ctx := 1, index := 5, epoch := 1, item := noItem, part := 0, localVa := 0x4000,
    after := false, dead := false }

/-- The peer with a request outstanding and a record received, and a command begun for it. -/
def answered (r : Req) (rs : List InRec) : State :=
  let s := hall (up9 { sess with inbox := rs, reqs := [r], nextTsn := 2 })
  { s with ctxs := [{ ctx 1 with begun := [begun1 8 5 false] }] }

theorem witness_responses :
    let rd := rec1 0x11 4 0 [9, 8, 7, 6]
    let fa := rec1 0x12 0 0 [9, 8, 7, 6, 5, 4, 3, 2]
    let st : InRec := { rec1 0x13 0 0 [] with status := 0x0902 }
    let ak := rec1 0x14 0 0 (zeros 8)
    let cr := rec1 0x15 200 0 []
    let s := answered (req1 3) [rd]
    s.phase = .ready ∧ s.wr = [] ∧ s.ctxEpoch 1 = 1 ∧ (s.session? 9).any (fun q => (q.req? 1).isSome) = true ∧
      s.accessFault 1 0x4004 4 true = none ∧ ackCovers ak 1 = true ∧ (req1 3).dead = false ∧
      ctxIs s 1 (fun c => !c.step && c.live && c.state != .halted) = true ∧
      gives (.readDataRecord 9) s (fun t => words8 t 0x4000 == [0, 0, 0, 0, 9, 8, 7, 6]) = true ∧
      gives (.faResultRecord 9) (answered (req1 4) [fa]) (fun t => words8 t 0x4000 == [9, 8, 7, 6, 5, 4, 3, 2]) = true ∧
      gives (.statusRecord 9) (answered (req1 1) [st]) (fun t => faulted t 0x0B08) = true ∧
      gives (.ackRecord 9) (answered (req1 3) [ak]) (fun t => sessIs t fun q => q.reqs.all fun y => y.acked) = true ∧
      gives (.creditRecord 9) (answered (req1 1) [cr]) (fun t => sessIs t fun q => q.seen == 200) = true ∧
      gives (.readDataRecord 9) (answered { req1 3 with epoch := 0 } [rd]) (fun t => t.stale == 1) = true ∧
      gives (.faResultRecord 9) (answered { req1 4 with epoch := 0 } [fa]) (fun t => t.stale == 1) = true ∧
      gives (.statusRecord 9) (answered { req1 1 with epoch := 0 } [st]) (fun t => t.stale == 1) = true := by decide +kernel

theorem witness_sessions :
    let s := hall (up9 sess)
    let r := hall (up9 { sess with toSend := [rec1 0x13 0 0 []] })
    let n := hall (up9 { sess with reqs := [{ req1 1 with sent := 0 }] })
    let poor := hall (up9 { sess with seen := 0, reqs := [{ req1 1 with sent := 0 }] })
    let down := withSub Subport.reset
    let o := answered (req1 1) []
    s.sendLinks (up9 sess) sess = [0] ∧ down.sendLinks (up9 sess) sess = [] ∧ s.wr = [] ∧ s.phase = .ready ∧
      n.nextNew { sess with reqs := [{ req1 1 with sent := 0 }] } = some 0 ∧ sess.mayAfford (req1 1) = true ∧
      ({ sess with seen := 0 } : Session).mayAfford (req1 1) = false ∧ (req1 1).finished = false ∧
      ({ req1 1 with acked := true } : Req).finished = true ∧ 1000000000 ≤ s.line (up9 sess) ∧
      gives (.frameTransmit 9) r (fun t => t.out.length == 1 && sessIs t fun q => q.toSend.isEmpty) = true ∧
      gives (.frameTransmit 9) n (fun t => t.out.length == 1 && sessIs t fun q => q.nextTsn == 2 && q.consumed == 1) = true ∧
      gives (.frameTransmit 9) poor (fun t => t == poor) = true ∧
      gives (.ackTimer 9) s (fun t => t.out.length == 1) = true ∧
      gives (.retransmitTimeout 9 1) o (fun t => t.out.length == 1 && sessIs t fun q => q.retx == 1) = true ∧
      gives (.retransmitTimeout 9 1) (answered { req1 1 with acked := true } []) (fun t => t.out.isEmpty) = true ∧
      gives (.sessionTimeout 9) o (fun t => (t.session? 9).isNone && faulted t 0x0B0A) = true ∧
      gives (.rateInterval 9) s (fun t => sessIs t fun q => q.quiet == 1) = true ∧
      gives (.rateInterval 9) (hall (up9 { sess with eceIn := true })) (fun t => sessIs t fun q => q.alpha == 1) = true := by
  decide +kernel

/-- A fabric command with one item. -/
def fabDesc (op b26 : Nat) : Bytes := desc op [(16, 8, 0x1000), (24, 2, 1), (26, 1, b26), (27, 1, 1)]
def fabItem (len : Nat) : Nat × Bytes := (0x1000, pack 32 [(0, 8, 0x2000), (8, 8, hallAt 9 0x8000), (16, 8, len), (24, 2, 0xFFFF)])
def fabState (d : Bytes) (len : Nat) : State :=
  { hall (up9 sess) with mem := memOf [fabItem len, (0x2000, [7]), (0x10000 + 128 * 5, d)] }

theorem witness_fabric_commands :
    let w := fabDesc 8 0
    let a := fabDesc 8 1
    let g := fabDesc 9 0
    let bad := fabDesc 9 1
    let s := fabState w 16
    let u := fabState g 70000
    Fetched s 1 (ctx 1) list1 w ∧ Fetched (fabState a 5) 1 (ctx 1) list1 a ∧ Fetched u 1 (ctx 1) list1 g ∧
      Fetched (fabState bad 16) 1 (ctx 1) list1 bad ∧ s.hasFabric = true ∧ isPut false w = true ∧ isPut true a = true ∧
      isOpcode 9 g = true ∧ s.fabricOk w false = true ∧ s.fabricOk a false = true ∧ u.fabricOk g true = true ∧
      s.fabricOk bad true = false ∧ (s.vread 1 0x1000 32).toOption = some (fabItem 16).2 ∧
      (s.judgeFab (ctx 1) 1 0 (fabItem 16).2).code = none ∧ (u.judgeFab (ctx 1) 3 0 (fabItem 70000).2).code = none ∧
      (s.judgeFab (ctx 1) 4 0 (fabItem 5).2).code = none ∧ hallDevice (hallAt 9 0x8000) = 9 ∧ s.peer? 9 = some (up9 sess) ∧
      gives (.fabricPutWrite 1) s (fun t => sessIs t fun q => q.reqs.any fun r => r.data == 7 :: zeros 15) = true ∧
      gives (.fabricPutFetchAdd 1) (fabState a 5) (fun t => sessIs t fun q => q.reqs.any fun r => r.data == leBytes 8 5) =
        true ∧
      gives (.fabricGet 1) u (fun t => sessIs t fun q => (q.reqs.map fun r => r.aux) == [65536, 4464]) = true ∧
      gives (.fabricGet 1) (fabState bad 16) (fun t => faulted t 0x0B06) = true :=
  ⟨fetched_of (by decide +kernel), fetched_of (by decide +kernel), fetched_of (by decide +kernel),
    fetched_of (by decide +kernel), by decide +kernel⟩

/-! ### Further clauses -/

/-- A resignation is held behind an owner-only message, and ownership lapses at once; a held compaction waits again. -/
theorem witness_held_resign :
    let b := sealed 0x0102 [(0, 1, 0xFF)]
    let s := mail busyCcx b
    Next s slot0 .handoverResign b ∧ s.takeRefusal b (msgAt s slot0 b) = none ∧
      s.mustHold (msgAt s slot0 b) s.ccx.msgs = true ∧ s.wr = [] ∧
      gives (.handoverResign slot0) s (fun t => t.own.owner == none && t.ccx.msgs.length == 2) = true :=
  ⟨next_of (by decide +kernel), by decide +kernel⟩

theorem witness_release_waits :
    let s := heldOne 0x0C05 (zeros 240)
    ∃ m u, s.releasable = some m ∧ carryOf .journalCompact
      { s with ccx := { s.ccx with msgs := s.ccx.msgs.filter fun y => y.seq != m.seq } } m = .wait u := ⟨_, _, rfl, rfl⟩

/-- A link goes down beside a home context and a read, comes back, and a port that is no home is reset. -/
theorem witness_link_events :
    let d := ready.updPort 0 fun q => { q with linkUp := false }
    let up : LinkState := { speed := 6, width := 16, flit := true }
    ((reading false).hostReads.all fun r => r.port == 0 && r.current (reading false)) = true ∧
      ctxIs (reading false) 1 (fun c => c.home == 0 && c.state.ordinary) = true ∧
      (d.port 0).linkUp = false ∧ (some up).isSome = true ∧
      gives (.portLinkDown 0) (reading false) (fun t => t.held.length == 1 && ctxIs t 1 fun c => c.state == .paused) = true ∧
      gives (.portHotReset 0 .linkReturn (some up)) d (fun t => (t.port 0).epoch == 1) = true ∧
      gives (.portHotReset 2 .flr none) granted2 (fun t => ctxIs t 1 fun c => c.live && !c.granted 2) = true ∧
      gives (.portHotReset 0 .perst none) withCtx (fun t => ctxIs t 1 fun c => !c.live) = true := by decide +kernel

/-- A chunk held toward port 3 is released by its thaw. -/
theorem witness_thaw_releases :
    let b := sealed 0x0104 [(0, 1, 3)]
    let h : Held := { port := 3, win := 0, job := 0, seg := 0, chunk := 0, released := false }
    let s := mail ({ moving .copy 1 0x2000 with held := [h] }.updPort 3 fun q => { q with frozen := true }) b
    Taken s slot0 .portThaw b ∧ s.heldRuns h = true ∧
      gives (.portThaw slot0) s (fun t => t.held.all fun x => x.released) = true :=
  ⟨taken_of (by decide +kernel), by decide +kernel⟩

/-- The last two bytes of BAR2, and two that it ends between. -/
theorem witness_bar2 :
    let n := (armed.port 0).cfg.bar2Gib * 2 ^ 30
    n - 2 + 2 ≤ n ∧ ¬n - 1 + 2 ≤ n ∧ armed.packUsers [8, 9] = [] ∧
      gives (.apertureWrite 0 (n - 1) [1, 2]) armed (fun t => t == armed) = true ∧
      gives (.apertureRead 0 (n - 1) 2) armed (fun t => t == armed) = true ∧
      gives (.apertureRead 0 (n - 2) 2) armed (fun t => (t.port 0).frozen) = true := by decide +kernel

/-- A vector the function mask holds back, and debug writes outside their rules. -/
theorem witness_register_refusals :
    let m := ready.updPort 0 fun q => { q with pba := [2047], cfg := { q.cfg with msixMask := true } }
    (m.port 0).pba.contains 2047 = true ∧ service.armInvalid 2 = true ∧ service.armInvalid 1 = true ∧
      ready.own.owner ≠ some 1 ∧
      gives (.msixUnmask 0 2047) m (fun t => t.out.isEmpty && (t.port 0).pba.contains 2047) = true ∧
      gives (.debugArm 0 2) service (fun t => t.ccx.dbgCode == Err.debugArmInvalid) = true ∧
      gives (.debugDiscard 0 1) service (fun t => t.ccx.dbgCode == Err.debugArmInvalid) = true ∧
      gives (.debugDiscard 0 0xA50B0501) ready (fun t => t.ccx.dbgCode == Err.debugLocked) = true ∧
      gives (.debugDiscard 1 1) ready (fun t => (t.port 1).frozen) = true ∧
      gives (.fabPrbsCtlWrite 1 0 0) service (fun t => (t.port 1).frozen) = true := by decide +kernel

/-- A context whose home is frozen begins PAUSED. -/
theorem witness_ctx_paused :
    let b := sealed 0x0302 [(0, 4, 0xFFFFFFFF), (12, 1, 3), (16, 8, 2 ^ 21)]
    let x := slotBody b
    let s := mail (withCtx.updPort 3 fun q => { q with frozen := true }) b
    let n := (s.freeCtx).getD 0
    let c0 := newCtx n x s.ord (!(s.port 3).answers)
    Taken s slot0 .ctxCreate b ∧ s.createOk x = true ∧ s.freeCtx = some 0 ∧ s.grantCount 3 < 256 ∧
      (s.port 3).answers = false ∧
      (({ s.markTaken slot0 b false with ctxs := s.ctxs ++ [c0] } : State).tick.growSave c0 0).isSome = true ∧
      gives (.ctxCreate slot0) s (fun t => ctxIs t 0 fun c => c.state == .paused) = true :=
  ⟨taken_of (by decide +kernel), by decide +kernel⟩

/-- The tear-down of a context whose CTX_DESTROY waits frees its number. -/
theorem witness_destroy_waiting :
    let m : Msg := { port := 0, box := none, slot := 0, seq := 1, tag := 7, notify := false, opcode := 0x0304,
                     body := pack 240 [(0, 4, 1)], state := .waiting, discard := false }
    let s : State := { mail withCtx (sealed 0x0304 [(0, 4, 1)]) with
      ctxs := [{ ctx 1 with state := .closing }], ccx := { Ccx.reset with msgs := [m] } }
    s.running = true ∧ s.readsOut 1 = false ∧ s.openReqs 1 = false ∧ s.ordsBegun 1 [] = false ∧ leAt m.body 0 4 = 1 ∧
      gives (.teardownFinish 1) s (fun t => t.ctxs.isEmpty && t.ccx.msgs.isEmpty) = true := by decide +kernel

/-- A row without a spare in its bank retires its page, and the pages mapped there go. -/
theorem witness_row_retired :
    let s := two.updSite 0 fun x => { x with used := [(0, 0, 1), (0, 0, 2)] }
    s.running = true ∧ (s.site 0).spares 0 0 = 0 ∧ s.store.room 0 = true ∧
      gives (.stackRowRemap ⟨0, 0, 0, 0⟩ true) s (fun t => t.retired.length == 1 && t.maps.length == 1) = true := by
  decide +kernel

/-- A STEP_BUILD of an ordinary context, and one whose lists are not mapped. -/
theorem witness_build_refused :
    let far := desc 10 [(22, 2, 256), (24, 8, 2 ^ 30), (32, 8, 0x100000)]
    let s := cmd buildDesc [] []
    let u : State := { cmd far [] [] with ctxs := [{ ctx 1 with step := true }] }
    Fetched s 1 (ctx 1) list1 buildDesc ∧ (ctx 1).step = false ∧ Fetched u 1 { ctx 1 with step := true } list1 far ∧
      (parseBuild far).bad far = false ∧ (u.buildRange 1 (parseBuild far)).isSome = true ∧
      gives (.stepBuild 1) s (fun t => faulted t 0x0309) = true ∧
      gives (.stepBuild 1) u (fun t => faulted t 0x0902) = true :=
  ⟨fetched_of (by decide +kernel), rfl, fetched_of (by decide +kernel), by decide +kernel⟩

/-- A start into a trial slot with one try left. -/
theorem witness_trial_start :
    let s : State := { State.reset with store := { Store.shipped with fw1 := { image1 with state := .trial, tries := 2 } } }
    s.phase = .inReset ∧ s.pins.pwrOk = true ∧ s.store.preferred < 2 ∧ s.store.slotValid 1 = true ∧
      (s.store.slot 0).state ≠ .trial ∧ (s.store.slot 1).tries < 3 ∧
      gives (.moduleStart start) s (fun t => t.phase == .ready && t.store.running == some 1 && t.store.fw1.tries == 3) = true := by
  decide +kernel

/-- Where the spare area is exhausted and a block of the next operation fails, the operation is not carried out. -/
def exhausted (s : State) : State := { s with store := { s.store with badBlocks := 1264, ops := 0 } }

theorem witness_exhausted (h : Config.nandFailures 0 ≠ 0) :
    let g : Staging := { seq := 1, slot := 1, image := { image1 with state := .staged } }
    let r := exhausted { recovering with
      rcv := { control := 0, status := 0, serving := true, outcome := 0, target := some (1, image1) } }
    let f := exhausted { ready with store := { ready.store with staging := some g } }
    let c := exhausted folding
    Taken (mail (exhausted (slots .good .staged)) (actMail 0 1)) slot0 .fwTry (actMail 0 1) ∧
      Taken (mail (exhausted (slots .trial .good)) (actMail 1 0)) slot0 .fwConfirm (actMail 1 0) ∧
      Taken (mail (exhausted (slots .good .good)) (actMail 2 0)) slot0 .fwRaise (actMail 2 0) ∧
      r.phase = .recovery ∧ r.store.holds = false ∧ f.running = true ∧ f.store.staging = some g ∧ f.store.holds = false ∧
      c.phase = .ready ∧ c.store.compacting = true ∧ c.store.holds = false ∧
      (mail (exhausted (slots .good .staged)) (actMail 0 1)).store.holds = false := by
  have hs : ∀ t : Store, t.badBlocks = 1264 → t.ops = 0 → t.holds = false := by
    intro t h1 h2
    simp [Store.holds, Store.failures, Store.spare, h1, h2, h, spareBlocks]
  exact ⟨taken_of (by decide +kernel), taken_of (by decide +kernel), taken_of (by decide +kernel), rfl, hs _ rfl rfl,
    by decide +kernel, rfl, hs _ rfl rfl, rfl, rfl, hs _ rfl rfl, hs _ rfl rfl⟩

/-- The activity of a command of step context 2, whose items of contexts 1 and 3 have one row and two. -/
theorem witness_window_items :
    let b := { begun1 5 1 true with record := { (begun1 5 1 true).record with shares := [(1, 1), (3, 2)] } }
    let s : State := { heated fun h => { h with sample := 1000, energyNj := 1300000000 } with
      ctxs := [ctx 1, { ctx 2 with step := true, begun := [{ b with index := 5 }] }, ctx 3]
      plt := { ready.plt with ctxUj := [(1, 0), (2, 0), (3, 0)] } }
    s.sharesOf 2 5 = [(1, 1), (3, 2)] ∧ s.platformRuns = true ∧ s.plt.destroyed = [] ∧
      gives (.powerWindowEnd [(.items 2 5, 7)]) s (fun t => t.plt.ctxUj == [(1, 66666), (2, 1), (3, 133333)]) = true := by
  decide +kernel

theorem witness_signal_init_wakes :
    let d := semDesc 11 0x2000 (2 ^ 63 - 1) 1
    let s := awaited (cmd d [(0x2000, [5])] [])
    Fetched s 1 (ctx 1) list1 d ∧ s.ctx? 2 = some ctx2 ∧ (s.waiters.filter fun y => y.addr == 0x2000) = [waiter] ∧
      waiter.value ≤ 2 ^ 63 - 1 ∧
      gives (.semSignalInit 1) s (fun t => t.waiters.isEmpty && countIs t (2 ^ 63 - 10) &&
        ctxIs t 2 fun c => c.begun.isEmpty) = true :=
  ⟨fetched_of (by decide +kernel), by decide +kernel⟩

/-- A LONG command of the context that holds the turn, and a context alone with a debt. -/
theorem witness_saves_and_debts :
    let b : Begun := { begun1 1 4 true with cores := [5], long := true }
    let c : Ctx := { ctx 1 with begun := [b], savePages := [2 ^ 24] }
    let s : State := { atWork with ctxs := [c, { ctx 2 with state := .ready }] }
    let a : State := { idleTurn 5000 with ctxs := [{ ctx 1 with state := .ready, debtUs := 5000 }] }
    s.ctx? 1 = some c ∧ c.coreCmd? = some b ∧ c.yields b = true ∧ s.readyOf 0 ≠ [] ∧ a.turnOrder 0 = [1] ∧
      a.partitionFree 0 = true ∧
      gives (.sliceEnd 0) s (fun t => t.cores == s.cores &&
        t.jobs.any fun j => j.fw == some { work := .save 1, total := 164, next := 0 }) = true ∧
      gives (.turnTake 0 0) a (fun t => (t.turn 0).holder == some 1 && ctxIs t 1 fun c => c.debtUs == 0) = true := by
  decide +kernel

/-- A MOVE whose segment names no space there is. -/
theorem witness_move_fault :
    let d := moveDesc 0 1
    let s := cmd d [] [(0x20000, rawSeg (2 ^ 62))]
    Fetched s 1 (ctx 1) list1 d ∧ (s.judgeSeg (ctx 1) .copy 1 0 (rawSeg (2 ^ 62))).code = some 0x0805 ∧ (ctx 1).step = false ∧
      gives (.moveCopy 1) s (fun t => faulted t 0x0805) = true :=
  ⟨fetched_of (by decide +kernel), by decide +kernel⟩

/-- A chunk of a page's copy, and one of a ZERO fill. -/
theorem witness_fw_chunks :
    let w : FwJob := { work := .copy 0 (2 ^ 25), total := 32, next := 1 }
    let z : FwJob := { work := .fill 1 [0] (2 ^ 21) 1 [], total := 32, next := 0 }
    let of (f : FwJob) : State :=
      { withCtx with mem := memOf [(5, [9]), (65541, [7])], jobs := [{ job 0 .copy [] with fw := some f }], nextJob := 1 }
    (of w).moverBusy 3 = false ∧ (of w).heat.dp ≠ 0 ∧
      (of w).nextTask = some ({ job 0 .copy [] with fw := some w }, .fw w) ∧
      (of z).nextTask = some ({ job 0 .copy [] with fw := some z }, .fw z) ∧
      ((of z).maps.any fun x => x.id == 1 && x.pages.contains 0) = true ∧
      gives (.moverChunk ⟨3, []⟩) (of w) (fun t => t.jobs.any fun j =>
        j.fw == some { w with next := 2 }) = true ∧
      gives (.moverChunk ⟨3, []⟩) (of z) (fun t => t.jobs.any fun j => j.fw == some { z with next := 1 }) = true := by
  decide +kernel

/-- A chunk sent to a host window of port 0, and a read of a host toward port 1, whose link is down. -/
theorem witness_host_writes :
    let g : MoveSeg := { seg 0 0x2000 (2 ^ 60 + 3 * 2 ^ 48) 4 2 with ss1 := 0, ds1 := 0 }
    let m : State := { moving .copy 1 0x2000 with jobs := [{ job 0 .copy [g] with epoch := 1 }] }
    let s := m.updPort 0 fun q =>
      { q with windows := [{ index := 3, read := false, write := true, noSnoop := false, relaxed := true,
                             hostAddr := 0x7000, length := 0x2000, closing := [] }] }
    let j1 (x : MoveSeg) : MoveSeg := { x with dst := 2 ^ 60 + 2 ^ 56 + 3 * 2 ^ 48 }
    let k : State := { reading false with jobs := (reading false).jobs.map fun j => { j with segs := j.segs.map j1 } }
    let r := k.updPort 1 fun q => { q with linkUp := false }
    (s.holdFor .copy g).isNone = true ∧ maHost g.dst = true ∧ (s.window? 0 3).isSome = true ∧
      (s.windowFault g.dst (g.writes .copy 1 0) true).isNone = true ∧ (r.port 1).answers = false ∧
      (r.jobs.all fun j => j.segs.all fun x => maHost x.dst && maPort x.dst == 1) = true ∧
      gives (.moverChunk ⟨3, []⟩) s (fun t => t.out == [.hostWrite 0 0x7000 false true [1, 2, 3, 4],
        .hostWrite 0 0x7004 false true [5, 6, 7, 8]]) = true ∧
      gives (.hostReadCompletion 4 (.data [8, 7, 6, 5, 4, 3, 2, 1])) r (fun t => t.held.length == 1 && t.hostReads.isEmpty) =
        true := by decide +kernel

/-- A test of port 0 armed before a form of the same port was issued. -/
theorem witness_test_first :
    let p := pack 240 [(0, 1, 1), (2, 1, 1), (3, 1, 1)]
    let s := (formed p [0]).updFab fun f => { f with pending := f.pending.map fun y => { y with ord := 2 } }
    let u := s.updFport 0 fun f => { f with armed := some 0x800000FF, armOrd := 1 }
    u.fab.removing = [] ∧ u.fab.pending.length = 1 ∧ (u.fport 0).testing = false ∧ prbsRuns 0x800000FF = true ∧
      byteAt p 0 = 1 ∧ (byteAt p 1).toNat = 0 ∧
      gives (.configApply (.portGroup 0)) u (fun t => t.fab.pending.length == 1 && (t.fport 0).prbs == 0x800000FF) = true := by
  decide +kernel

/-- A datagram to the subport's address, with a checksum, and the Beykai run it carries. -/
def udpFrame (sum dev : Nat) : WireFrame :=
  let run := header 2 9 dev 5 2 1 48 ++ zeros 48
  let ip := [0x60, 0, 0, 0] ++ beBytes 2 (8 + run.length) ++ [17, 64] ++ beBytes 16 9 ++ beBytes 16 7
  let udp := beBytes 2 1000 ++ beBytes 2 49511 ++ beBytes 2 (8 + run.length) ++ beBytes 2 sum ++ run
  { fecOk := true, fcsOk := true, bytes := beBytes 6 0x020000000001 ++ beBytes 6 0x020000000901 ++ beBytes 2 0x86DD ++ ip ++ udp ++ zeros 4,
    at_ms := 0 }

/-- The checksum that makes the ones' complement sum of the datagram whole. -/
def wholeSum (dev : Nat) : Nat :=
  let h := ((udpFrame 0 dev).bytes.take 142).drop 14
  0xFFFF - onesSum (beWords (pseudoHeader (sliceBytes h 8 16) (sliceBytes h 24 16) ((h.drop 40).length) ++ h.drop 40))

theorem witness_routed :
    let s := withSub { Subport.reset with up := true, ipv6 := 7, encap := true }
    (s.globOf 0).udpPort.toNat = 49511 ∧ (s.globOf 0).etherType ≠ 0x86DD ∧ (s.fport 0).mode ≠ 2 ∧
      gives (.frameReceive 0 (udpFrame (wholeSum 7 + 1) 7)) s (fun t => counted t 12) = true ∧
      gives (.frameReceive 0 (udpFrame (wholeSum 8) 8)) s (fun t => counted t 14) = true ∧
      gives (.frameReceive 0 (udpFrame (wholeSum 7) 7)) s (fun t => counted t 19) = true := by decide +kernel

/-- A FETCH_ADD heard twice, and a READ of a granule that fails. -/
theorem witness_hall_repeats :
    let r := { rec1 4 0 (hallAt 7 0x3000) (leBytes 8 1) with dup := true }
    let s := hall (up9 { sess with inbox := [r], faCache := [(1, leBytes 8 42)], cum := 1 })
    let h : MemHit := { bulk := false, unit := 0, offset := 0x3000, found := .uncorrectable }
    let u : State := { received [rec1 3 8 (hallAt 7 0x3000) []] with fwPages := [2 ^ 23] }
    (s.session? 9).any (fun q => q.cached 1 == some (leBytes 8 42)) = true ∧ hitAddr h = u.physOf 1 0x3000 ∧
      gives (.fetchAddRecord 9 ⟨1, []⟩) s (fun t => words8 t 0x3000 == zeros 8 && sessIs t fun q => q.inbox.isEmpty &&
        q.toSend.any fun y => y.data == leBytes 8 42) = true ∧
      gives (.readRecord 9 ⟨1, [h]⟩) u (fun t => sessIs t fun q => q.refused == 1 && q.toSend.any fun y =>
        y.kind == 0x13 && y.status == 0x0904) = true := by decide +kernel

/-- What waits for a path, what goes when one is there, and a WRITE too long for one frame. -/
theorem witness_paths :
    let o : AdmitOut := { session := 5, epoch := 1, payload := helloBody 1 }
    let a := hall { up9 sess with admitOut := [o] }
    let k := hall (up9 { sess with ackDue := true })
    let d := hall (up9 { sess with reqs := [{ req1 1 with due := true }] })
    let down (q : Session) := (hall (up9 q)).updFab fun f => { f with subs := f.subs.set 0 Subport.reset }
    let big := { req1 1 with sent := 0, data := zeros 1000, cost := 11 }
    let c := (hall (up9 { sess with reqs := [big], pn := [(0, 1)] })).updFab fun f =>
      { f with groups := List.replicate 6 { glob7 with maxPayload := 1024 } }
    a.sendPaths (up9 sess) = [0] ∧ (down sess).sendLinks (up9 sess) sess = [] ∧ (c.globOf 0).maxPayload = 1024 ∧
      ({ sess with pn := [(0, 1)] } : Session).lead = [] ∧ ({ sess with pn := [(0, 1)] } : Session).mayAfford { big with cost := recCost 992 } = true ∧
      gives (.frameTransmit 9) a (fun t => t.out.length == 1 && peerIs t fun p => p.admitOut.isEmpty) = true ∧
      gives (.frameTransmit 9) k (fun t => t.out.length == 1 && sessIs t fun q => !q.ackDue) = true ∧
      gives (.frameTransmit 9) d (fun t => t.out.length == 1 && sessIs t fun q => q.retx == 1) = true ∧
      gives (.frameTransmit 9) (down sess) (fun t => t == down sess) = true ∧
      gives (.ackTimer 9) (down sess) (fun t => t.out.isEmpty && sessIs t fun q => q.ackDue) = true ∧
      gives (.retransmitTimeout 9 1) (down { sess with reqs := [req1 1] }) (fun t => t.out.isEmpty && sessIs t fun q =>
        q.reqs.all fun r => r.due) = true ∧
      gives (.frameTransmit 9) c (fun t => sessIs t fun q => (q.reqs.map fun r => r.data.length) == [992, 8]) = true := by
  decide +kernel

/-- A PUT that ends in a fetch-and-add of one at the same peer. -/
theorem witness_done_addr :
    let d := desc 8 [(16, 8, 0x1000), (24, 2, 1), (27, 1, 1), (32, 8, hallAt 9 0x9000)]
    let s := fabState d 16
    Fetched s 1 (ctx 1) list1 d ∧ s.fabricOk d false = true ∧ isPut false d = true ∧ hallDevice (leAt d 32 8) = 9 ∧
      (s.judgeFab (ctx 1) 1 0 (fabItem 16).2).code = none ∧ 1024 ≤ s.payloadTo 9 ∧ s.payloadTo 9 ≤ 8192 ∧
      gives (.fabricPutWrite 1) s (fun t => sessIs t fun q => q.reqs.any fun r => r.after && r.kind == 4 &&
        r.addr == hallAt 9 0x9000 && r.data == leBytes 8 1) = true :=
  ⟨fetched_of (by decide +kernel), by decide +kernel⟩

end Sys2Proof.Tests
end

section
/-! SUPPORT. The groups of the dot-product pipeline (02, R66 to R72): a group's result is a function of the special
values among its products, of their largest exponent and of their aligned sums. -/
namespace Sys2Proof.Machine

open Sys2Proof

/-! ### Zero products -/

theorem Val.isZero_iff {v : Val} : v.isZero = true ↔ ∃ s e, v = .fin s 0 e := by
  cases v <;> simp [Val.isZero]

/-- A zero product takes no part in finding the largest exponent (R72). -/
theorem maxExp_zero {z : Val} (hz : z.isZero = true) (a : Option Int) : maxExp a z = a := by
  obtain ⟨s, e, rfl⟩ := Val.isZero_iff.1 hz
  cases a <;> rfl

theorem foldl_maxExp_zeros {zs : List Val} (hz : ∀ z ∈ zs, z.isZero = true) (a : Option Int) :
    zs.foldl maxExp a = a := by
  induction zs with
  | nil => rfl
  | cons z zs ih =>
    obtain ⟨hz, hzs⟩ := List.forall_mem_cons.1 hz
    rw [List.foldl_cons, maxExp_zero hz, ih hzs]

/-- A zero product is zero at every alignment. -/
theorem alignProduct_zero {z : Val} (hz : z.isZero = true) (emax : Int) : alignProduct emax z = 0 := by
  obtain ⟨s, e, rfl⟩ := Val.isZero_iff.1 hz
  simp [alignProduct, toInt]

theorem sum_alignProduct_zeros {zs : List Val} (hz : ∀ z ∈ zs, z.isZero = true) (emax : Int) :
    (zs.map (alignProduct emax)).sum = 0 :=
  List.sum_eq_zero (List.forall_mem_map.2 fun z h => alignProduct_zero (hz z h) emax)

/-! ### The result of a group -/

/-- The larger of exponents does not depend on their order. -/
theorem maxExp_right_comm (a : Option Int) (v w : Val) : maxExp (maxExp a v) w = maxExp (maxExp a w) v := by
  unfold maxExp
  cases a <;> cases v.log2? <;> cases w.log2? <;> simp [max_comm, max_left_comm]

theorem any_isNan_iff {ps : List Val} : ps.any Val.isNan = true ↔ Val.nan ∈ ps := by
  rw [List.any_eq_true]
  constructor
  · rintro ⟨v, hv, hn⟩
    cases v <;> simp_all [Val.isNan]
  · exact fun h => ⟨_, h, rfl⟩

/-- Two groups that hold the same special values, with one largest exponent and one aligned sum, have one result. -/
theorem groupSum_congr {ps qs : List Val} (xs : Int) (hspecial : ∀ v, v.isZero = false → (v ∈ ps ↔ v ∈ qs))
    (hexp : ps.foldl maxExp none = qs.foldl maxExp none)
    (hsum : ∀ emax, (ps.map (alignProduct emax)).sum = (qs.map (alignProduct emax)).sum) :
    groupSum xs ps = groupSum xs qs := by
  have hinf (b : Bool) : ps.contains (.inf b) = qs.contains (.inf b) := by
    simp [hspecial (.inf b) rfl]
  have hnan : ps.any Val.isNan = qs.any Val.isNan := by
    rw [Bool.eq_iff_iff, any_isNan_iff, any_isNan_iff, hspecial .nan rfl]
  simp only [groupSum, hinf, hnan, hexp, hsum]

theorem groupSum_perm (xs : Int) {ps qs : List Val} (h : ps.Perm qs) : groupSum xs ps = groupSum xs qs :=
  groupSum_congr xs (fun _ _ => h.mem_iff)
    (h.foldl_eq' (fun v _ w _ a => maxExp_right_comm a v w) none) fun _ => (h.map _).sum_eq

theorem groupSum_append_zeros (xs : Int) (ps : List Val) {zs : List Val} (hz : ∀ z ∈ zs, z.isZero = true) :
    groupSum xs (ps ++ zs) = groupSum xs ps := by
  refine groupSum_congr xs (fun v hv => ?_) ?_ fun emax => ?_
  · have : v ∉ zs := fun h => by simp [hz v h] at hv
    simp [this]
  · rw [List.foldl_append, foldl_maxExp_zeros hz]
  · rw [List.map_append, List.sum_append, sum_alignProduct_zeros hz, add_zero]

/-- Zeros alone are zeros beside no product at all. -/
theorem groupSum_zeros (xs : Int) {ps : List Val} (hz : ∀ p ∈ ps, p.isZero = true) : groupSum xs ps = 0 :=
  groupSum_append_zeros xs [] hz

theorem groupSum_of_nan_mem (xs : Int) {ps : List Val} (h : Val.nan ∈ ps) : groupSum xs ps = fnan := by
  simp [groupSum, any_isNan_iff.2 h]

theorem groupSum_of_both_infs (xs : Int) {ps : List Val} (hneg : Val.inf true ∈ ps) (hpos : Val.inf false ∈ ps) :
    groupSum xs ps = fnan := by
  simp [groupSum, hneg, hpos]

theorem groupSum_of_inf_mem (xs : Int) {ps : List Val} {neg : Bool} (hnan : Val.nan ∉ ps) (h : Val.inf neg ∈ ps)
    (hother : Val.inf (!neg) ∉ ps) : groupSum xs ps = infWord neg := by
  have hn : ps.any Val.isNan = false := by rwa [← Bool.not_eq_true, any_isNan_iff]
  cases neg <;> simp_all [groupSum]

end Sys2Proof.Machine
end

section
/-! SUPPORT. The one rounding (02, R48 to R50, R74, R75): what a magnitude's bits stand for, the significand that
`roundMag` takes, its distance from the exact value, and the way back from a decoded value to its bits. -/
namespace Sys2Proof.Machine

open Sys2Proof

/-! ### Magnitude bits and their value -/

/-- The integer significand of magnitude bits: the hidden bit joins where the exponent field is not zero (R48). -/
def Fmt.magSig (f : Fmt) (mag : Nat) : Nat :=
  if mag / 2 ^ f.mbits = 0 then mag % 2 ^ f.mbits else 2 ^ f.mbits + mag % 2 ^ f.mbits

/-- The power of two that goes with `Fmt.magSig`. -/
def Fmt.magExp (f : Fmt) (mag : Nat) : Int :=
  if mag / 2 ^ f.mbits = 0 then 1 - (f.bias : Int) - f.mbits
  else ((mag / 2 ^ f.mbits : Nat) : Int) - f.bias - f.mbits

section
variable {f : Fmt} {mag : Nat}

/-- In a format with infinities the finite magnitudes are those whose exponent field is not all ones. -/
theorem Fmt.le_maxFinite_ieee (hf : 1 ≤ f.ebits) (hs : f.spec = .ieee) :
    mag ≤ f.maxFinite ↔ mag / 2 ^ f.mbits < 2 ^ f.ebits - 1 := by
  have hmul : 0 < (2 ^ f.ebits - 1) * 2 ^ f.mbits :=
    Nat.mul_pos (Nat.sub_pos_of_lt (Nat.one_lt_two_pow (by omega))) (Nat.two_pow_pos _)
  rw [Nat.div_lt_iff_lt_mul (Nat.two_pow_pos _)]
  simp only [Fmt.maxFinite, hs]
  omega

/-- In E4M3 the finite magnitudes are those below the all-ones pattern. -/
theorem Fmt.le_maxFinite_e4m3 (hf : 1 ≤ f.ebits) (hs : f.spec = .e4m3) :
    mag ≤ f.maxFinite ↔ mag < 2 ^ (f.ebits + f.mbits) - 1 := by
  have : 1 < 2 ^ (f.ebits + f.mbits) := Nat.one_lt_two_pow (by omega)
  simp only [Fmt.maxFinite, hs]
  omega

/-- In a format without specials every magnitude is finite. -/
theorem Fmt.le_maxFinite_none (hs : f.spec = .none) : mag ≤ f.maxFinite ↔ mag < 2 ^ (f.ebits + f.mbits) := by
  simp only [Fmt.maxFinite, hs]
  have := Nat.two_pow_pos (f.ebits + f.mbits)
  omega

/-- A finite magnitude leaves the sign bit alone. -/
theorem Fmt.lt_of_le_maxFinite (hf : 1 ≤ f.ebits) (h : mag ≤ f.maxFinite) : mag < 2 ^ (f.ebits + f.mbits) := by
  cases hs : f.spec
  case ieee =>
    have hlt := ((Fmt.le_maxFinite_ieee hf hs).1 h).trans_le (Nat.sub_le _ _)
    rwa [Nat.div_lt_iff_lt_mul (Nat.two_pow_pos _), ← pow_add] at hlt
  case e4m3 => exact ((Fmt.le_maxFinite_e4m3 hf hs).1 h).trans_le (Nat.sub_le _ _)
  case none => exact (Fmt.le_maxFinite_none hs).1 h

/-- The sign and the magnitude of a pattern put together again. -/
theorem withSign_bitOf_mod {b : Nat} (hb : b < 2 ^ f.width) :
    withSign f (bitOf b (f.ebits + f.mbits)) (b % 2 ^ (f.ebits + f.mbits)) = b := by
  have hpos := Nat.two_pow_pos (f.ebits + f.mbits)
  have hlt : b / 2 ^ (f.ebits + f.mbits) < 2 := by
    rw [Nat.div_lt_iff_lt_mul hpos, ← pow_succ']
    rwa [Fmt.width, Nat.add_assoc, Nat.add_comm] at hb
  have hdiv := Nat.div_add_mod b (2 ^ (f.ebits + f.mbits))
  obtain hbit | hbit := Nat.le_one_iff_eq_zero_or_eq_one.1 (Nat.le_of_lt_succ hlt) <;>
    simpa [withSign, bitOf, hbit] using hdiv

theorem bitOf_withSign (neg : Bool) (h : mag < 2 ^ (f.ebits + f.mbits)) :
    bitOf (withSign f neg mag) (f.ebits + f.mbits) = neg := by
  cases neg <;> simp [bitOf, withSign, Nat.div_eq_of_lt h, Nat.add_div_left _ (Nat.two_pow_pos _)]

theorem withSign_mod (neg : Bool) (h : mag < 2 ^ (f.ebits + f.mbits)) :
    withSign f neg mag % 2 ^ (f.ebits + f.mbits) = mag := by
  cases neg <;> simp [withSign, Nat.mod_eq_of_lt h]

/-- Bits up to the largest finite value decode to sign, significand and exponent. -/
theorem decodeVal_withSign_finite (hf : 1 ≤ f.ebits) (neg : Bool) (h : mag ≤ f.maxFinite) :
    decodeVal f (withSign f neg mag) = .fin neg (f.magSig mag) (f.magExp mag) := by
  have hlt := Fmt.lt_of_le_maxFinite hf h
  have hieee : ¬ (f.spec = .ieee ∧ mag / 2 ^ f.mbits = 2 ^ f.ebits - 1) :=
    fun ⟨hs, hex⟩ => ((Fmt.le_maxFinite_ieee hf hs).1 h).ne hex
  have he4m3 : ¬ (f.spec = .e4m3 ∧ mag = 2 ^ (f.ebits + f.mbits) - 1) :=
    fun ⟨hs, hones⟩ => ((Fmt.le_maxFinite_e4m3 hf hs).1 h).ne hones
  simp only [decodeVal, bitOf_withSign neg hlt, withSign_mod neg hlt, hieee, he4m3, if_false, Fmt.magSig, Fmt.magExp]
  split <;> rfl

/-- A magnitude above the largest finite one is a NaN or, in a format that has it, the infinity that follows. -/
theorem decodeVal_withSign_special (hf : 1 ≤ f.ebits) (neg : Bool) (hlt : mag < 2 ^ (f.ebits + f.mbits))
    (h : ¬ mag ≤ f.maxFinite) (hnan : decodeVal f (withSign f neg mag) ≠ .nan) :
    decodeVal f (withSign f neg mag) = .inf neg ∧ f.spec = .ieee ∧ mag = f.maxFinite + 1 := by
  cases hs : f.spec
  case ieee =>
    have hup : mag / 2 ^ f.mbits < 2 ^ f.ebits := Nat.div_lt_of_lt_mul (by rwa [← pow_add, Nat.add_comm])
    have hex : mag / 2 ^ f.mbits = 2 ^ f.ebits - 1 := by
      rw [Fmt.le_maxFinite_ieee hf hs] at h
      omega
    have hman : mag % 2 ^ f.mbits = 0 := by
      by_contra hne
      simp [decodeVal, withSign_mod neg hlt, hs, hex, hne] at hnan
    have hmag := Nat.div_add_mod' mag (2 ^ f.mbits)
    simp only [hex, hman] at hmag
    simp only [Fmt.maxFinite, hs] at h ⊢
    exact ⟨by simp [decodeVal, bitOf_withSign neg hlt, withSign_mod neg hlt, hs, hex, hman], trivial, by omega⟩
  case e4m3 =>
    rw [Fmt.le_maxFinite_e4m3 hf hs] at h
    have hones : mag = 2 ^ (f.ebits + f.mbits) - 1 := by omega
    simp [decodeVal, withSign_mod neg hlt, hs, ← hones] at hnan
  case none => exact absurd ((Fmt.le_maxFinite_none hs).2 hlt) h

/-- Magnitude bits are those of a subnormal number or of zero, or have a hidden bit. -/
theorem Fmt.mag_cases (f : Fmt) (mag : Nat) :
    mag < 2 ^ f.mbits ∨ ∃ E r, r < 2 ^ f.mbits ∧ mag = (E + 1) * 2 ^ f.mbits + r := by
  refine (lt_or_ge mag (2 ^ f.mbits)).imp_right fun hge => ?_
  have hex : 1 ≤ mag / 2 ^ f.mbits := Nat.div_pos hge (Nat.two_pow_pos _)
  exact ⟨mag / 2 ^ f.mbits - 1, _, Nat.mod_lt mag (Nat.two_pow_pos _), by
    rw [Nat.sub_add_cancel hex, Nat.div_add_mod']⟩

variable {r : Nat}

theorem Fmt.magSig_subnormal (hr : r < 2 ^ f.mbits) : f.magSig r = r := by
  simp [Fmt.magSig, Nat.div_eq_of_lt hr, Nat.mod_eq_of_lt hr]

theorem Fmt.magExp_subnormal (hr : r < 2 ^ f.mbits) : f.magExp r = 1 - (f.bias : Int) - f.mbits := by
  simp [Fmt.magExp, Nat.div_eq_of_lt hr]

theorem Fmt.normal_div (E : Nat) (hr : r < 2 ^ f.mbits) : ((E + 1) * 2 ^ f.mbits + r) / 2 ^ f.mbits = E + 1 := by
  rw [Nat.add_comm, Nat.add_mul_div_right _ _ (Nat.two_pow_pos _), Nat.div_eq_of_lt hr, Nat.zero_add]

theorem Fmt.magSig_normal (E : Nat) (hr : r < 2 ^ f.mbits) :
    f.magSig ((E + 1) * 2 ^ f.mbits + r) = 2 ^ f.mbits + r := by
  rw [Fmt.magSig, Fmt.normal_div E hr, if_neg E.succ_ne_zero, Nat.mul_add_mod', Nat.mod_eq_of_lt hr]

theorem Fmt.magExp_normal (E : Nat) (hr : r < 2 ^ f.mbits) :
    f.magExp ((E + 1) * 2 ^ f.mbits + r) = (E : Int) + 1 - f.bias - f.mbits := by
  rw [Fmt.magExp, Fmt.normal_div E hr, if_neg E.succ_ne_zero, Nat.cast_succ]

end

/-! ### The nearest integer, ties to even -/

/-- The integer nearest to m / 2^k, the even one of two equally near. -/
def nearestEven (m k : Nat) : Nat :=
  if m % 2 ^ k > 2 ^ (k - 1) ∨ (m % 2 ^ k = 2 ^ (k - 1) ∧ m / 2 ^ k % 2 = 1) then m / 2 ^ k + 1 else m / 2 ^ k

section
variable {m k : Nat}

/-- At most half a unit away, and even at exactly half. -/
theorem nearestEven_error (hk : 1 ≤ k) : 2 * |(nearestEven m k : Int) * 2 ^ k - m| ≤ 2 ^ k ∧
    (2 * |(nearestEven m k : Int) * 2 ^ k - m| = 2 ^ k → nearestEven m k % 2 = 0) := by
  obtain ⟨j, rfl⟩ : ∃ j, k = j + 1 := ⟨k - 1, by omega⟩
  have hlt := Nat.mod_lt m (Nat.two_pow_pos (j + 1))
  have hdiv : (m : Int) = (m / 2 ^ (j + 1) : Nat) * 2 ^ (j + 1) + (m % 2 ^ (j + 1) : Nat) := by
    exact_mod_cast (Nat.div_add_mod' m (2 ^ (j + 1))).symm
  unfold nearestEven
  rw [Nat.add_sub_cancel]
  generalize m / 2 ^ (j + 1) = fl at *
  generalize m % 2 ^ (j + 1) = lo at *
  have hunit : (2 : Int) ^ (j + 1) = 2 * (2 ^ j : Nat) := by rw [pow_succ']; norm_cast
  rw [pow_succ'] at hlt
  split
  next hup =>
    have hdiff : ((fl + 1 : Nat) : Int) * 2 ^ (j + 1) - m = 2 ^ (j + 1) - lo := by rw [hdiv]; push_cast; ring
    rw [hdiff, hunit, abs_of_nonneg (by omega)]
    omega
  next hdown =>
    have hdiff : (fl : Int) * 2 ^ (j + 1) - m = -lo := by rw [hdiv]; ring
    rw [hdiff, hunit, abs_neg, abs_of_nonneg (by omega)]
    omega

theorem le_nearestEven {j : Nat} (h : 2 ^ (j + k) ≤ m) : 2 ^ j ≤ nearestEven m k := by
  have : 2 ^ j ≤ m / 2 ^ k := by rwa [Nat.le_div_iff_mul_le (Nat.two_pow_pos _), ← pow_add]
  unfold nearestEven
  split <;> omega

theorem nearestEven_le {j : Nat} (h : m < 2 ^ (j + k)) : nearestEven m k ≤ 2 ^ j := by
  have : m / 2 ^ k < 2 ^ j := by rwa [Nat.div_lt_iff_lt_mul (Nat.two_pow_pos _), ← pow_add]
  unfold nearestEven
  split <;> omega

end

/-! ### The significand that `roundMag` takes -/

/-- Exponent of the unit in the last place at m x 2^e. -/
def Fmt.ulpExp (f : Fmt) (m : Nat) (e : Int) : Int :=
  max ((Nat.log2 m : Int) + e) (1 - (f.bias : Int)) - f.mbits

/-- The significand of m x 2^e in units of 2^q: exact where the unit is no larger than 2^e, else the nearest. -/
def roundSig (m : Nat) (e q : Int) : Nat :=
  if q ≤ e then m * 2 ^ (e - q).toNat else nearestEven m (q - e).toNat

/-- Exponent field, less one in a normal number, of a value whose unit in the last place is 2^q. -/
def Fmt.expField (f : Fmt) (q : Int) : Nat := (q + f.mbits + f.bias - 1).toNat

section
variable {f : Fmt} {m : Nat} {e : Int}

theorem Fmt.expField_cast (m : Nat) (e : Int) :
    (f.expField (f.ulpExp m e) : Int) = f.ulpExp m e + f.mbits + f.bias - 1 :=
  Int.toNat_of_nonneg (by unfold Fmt.ulpExp; omega)

/-- The significand joins the exponent field by addition, so that a carry out of it raises the exponent. -/
theorem roundMag_eq (hm : m ≠ 0) : roundMag f m e false =
    f.expField (f.ulpExp m e) * 2 ^ f.mbits + roundSig m e (f.ulpExp m e) := by
  have hsig : (if f.ulpExp m e - e ≤ 0 then m * 2 ^ (-(f.ulpExp m e - e)).toNat
      else nearestEven m (f.ulpExp m e - e).toNat) = roundSig m e (f.ulpExp m e) := by
    simp only [roundSig, sub_nonpos, neg_sub]
  have hround : roundMag f m e false = ((f.ulpExp m e + f.mbits + f.bias - 1) * (2 ^ f.mbits : Nat) +
      (roundSig m e (f.ulpExp m e) : Nat)).toNat := by
    rw [← hsig]
    simp [roundMag, hm, Fmt.ulpExp, nearestEven]
  rw [hround, ← Fmt.expField_cast]
  norm_cast

/-- A normal value has a significand of full length. -/
theorem le_roundSig (hm : m ≠ 0) (hE : f.expField (f.ulpExp m e) ≠ 0) :
    2 ^ f.mbits ≤ roundSig m e (f.ulpExp m e) := by
  have hlog := Nat.log2_self_le hm
  have hq : f.ulpExp m e = Nat.log2 m + e - f.mbits := by
    have := Fmt.expField_cast (f := f) m e
    unfold Fmt.ulpExp at *
    omega
  unfold roundSig
  split
  next hle =>
    calc 2 ^ f.mbits = 2 ^ m.log2 * 2 ^ (e - f.ulpExp m e).toNat := by rw [← pow_add]; congr 1; omega
      _ ≤ _ := Nat.mul_le_mul_right _ hlog
  next => exact le_nearestEven (by rwa [show f.mbits + (f.ulpExp m e - e).toNat = m.log2 by omega])

/-- A significand rounds up at most to the next power of two. -/
theorem roundSig_le (f : Fmt) (m : Nat) (e : Int) : roundSig m e (f.ulpExp m e) ≤ 2 ^ (f.mbits + 1) := by
  have hlog : m < 2 ^ (m.log2 + 1) := Nat.lt_log2_self
  have hq : Nat.log2 m + e - f.mbits ≤ f.ulpExp m e := by unfold Fmt.ulpExp; omega
  unfold roundSig
  split
  next hle =>
    calc m * 2 ^ (e - f.ulpExp m e).toNat ≤ 2 ^ (m.log2 + 1) * 2 ^ (e - f.ulpExp m e).toNat :=
          Nat.mul_le_mul_right _ hlog.le
      _ = 2 ^ (m.log2 + 1 + (e - f.ulpExp m e).toNat) := (pow_add ..).symm
      _ ≤ 2 ^ (f.mbits + 1) := Nat.pow_le_pow_right (by omega) (by omega)
  next => exact nearestEven_le (hlog.trans_le (Nat.pow_le_pow_right (by omega) (by omega)))

/-- The rounded value is at most half a unit in the last place away, and has an even significand at exactly half. -/
theorem roundSig_error (m : Nat) (e q : Int) :
    2 * |(roundSig m e q : Rat) * 2 ^ q - m * 2 ^ e| ≤ 2 ^ q ∧
      (2 * |(roundSig m e q : Rat) * 2 ^ q - m * 2 ^ e| = 2 ^ q → roundSig m e q % 2 = 0) := by
  have hq : (0 : Rat) < 2 ^ q := by positivity
  unfold roundSig
  split
  next hle =>
    have hexact : ((m * 2 ^ (e - q).toNat : Nat) : Rat) * 2 ^ q = m * 2 ^ e := by
      push_cast
      rw [mul_assoc, ← zpow_natCast, ← zpow_add₀ two_ne_zero]
      congr 2
      omega
    rw [hexact, sub_self, abs_zero, mul_zero]
    exact ⟨hq.le, fun h => absurd h hq.ne⟩
  next hlt =>
    set k := (q - e).toNat
    have he : (0 : Rat) < 2 ^ e := by positivity
    have hqe : (2 : Rat) ^ q = 2 ^ k * 2 ^ e := by
      rw [← zpow_natCast, ← zpow_add₀ two_ne_zero]
      congr 1
      omega
    have hdiff : 2 * |(nearestEven m k : Rat) * 2 ^ q - m * 2 ^ e| =
        ((2 * |(nearestEven m k : Int) * 2 ^ k - m| : Int) : Rat) * 2 ^ e := by
      push_cast
      rw [hqe, ← mul_assoc, ← sub_mul, abs_mul, abs_of_pos he, mul_assoc]
    obtain ⟨hle, heven⟩ := nearestEven_error (m := m) (k := k) (by omega)
    rw [hdiff, hqe, mul_le_mul_iff_left₀ he, mul_left_inj' he.ne']
    exact ⟨by exact_mod_cast hle, fun h => heven (by exact_mod_cast h)⟩

/-- Exponent field and significand added together stand for that significand, at the unit of that field. -/
theorem Fmt.magSig_mul_magExp {E sig : Nat} (hlo : E ≠ 0 → 2 ^ f.mbits ≤ sig) (hhi : sig ≤ 2 ^ (f.mbits + 1)) :
    (f.magSig (E * 2 ^ f.mbits + sig) : Rat) * 2 ^ f.magExp (E * 2 ^ f.mbits + sig) =
      sig * 2 ^ ((E : Int) + 1 - f.bias - f.mbits) := by
  rcases lt_or_ge sig (2 ^ f.mbits) with hsub | hge
  · obtain rfl : E = 0 := by_contra fun hE => hsub.not_ge (hlo hE)
    rw [Nat.zero_mul, Nat.zero_add, Fmt.magSig_subnormal hsub, Fmt.magExp_subnormal hsub, Nat.cast_zero, zero_add]
  obtain ⟨r, rfl⟩ := Nat.exists_eq_add_of_le hge
  rw [← Nat.add_assoc, ← Nat.succ_mul]
  rcases (show r ≤ 2 ^ f.mbits by omega).lt_or_eq with hr | rfl
  · rw [Fmt.magSig_normal E hr, Fmt.magExp_normal E hr]
  · have hcarry : (E + 1) * 2 ^ f.mbits + 2 ^ f.mbits = (E + 1 + 1) * 2 ^ f.mbits + 0 := by ring
    rw [Nat.succ_eq_add_one, hcarry, Fmt.magSig_normal (E + 1) (Nat.two_pow_pos _),
      Fmt.magExp_normal (E + 1) (Nat.two_pow_pos _), Nat.cast_succ,
      show (E : Int) + 1 + 1 - f.bias - f.mbits = ((E : Int) + 1 - f.bias - f.mbits) + 1 by ring,
      zpow_add_one₀ two_ne_zero]
    push_cast
    ring

/-- A value whose last place is its unit in the last place is rounded to itself. -/
theorem roundMag_of_ulpExp_eq (hm : m ≠ 0) (h : f.ulpExp m e = e) :
    roundMag f m e false = f.expField e * 2 ^ f.mbits + m := by
  rw [roundMag_eq hm, h]
  simp [roundSig]

/-- Finite bits are the rounding of their own value. -/
theorem roundMag_magSig (f : Fmt) (mag : Nat) : roundMag f (f.magSig mag) (f.magExp mag) false = mag := by
  obtain hsub | ⟨E, r, hr, rfl⟩ := f.mag_cases mag
  · rw [Fmt.magSig_subnormal hsub, Fmt.magExp_subnormal hsub]
    rcases eq_or_ne mag 0 with rfl | hm
    · rfl
    have hlog : Nat.log2 mag < f.mbits := (Nat.log2_lt hm).2 hsub
    rw [roundMag_of_ulpExp_eq hm (by unfold Fmt.ulpExp; omega)]
    simp [Fmt.expField]
  · have hm : 2 ^ f.mbits + r ≠ 0 := by have := Nat.two_pow_pos f.mbits; omega
    have hlog : Nat.log2 (2 ^ f.mbits + r) = f.mbits := (Nat.log2_eq_iff hm).2 ⟨by omega, by omega⟩
    have hfield : f.expField ((E : Int) + 1 - f.bias - f.mbits) = E := by unfold Fmt.expField; omega
    rw [Fmt.magSig_normal E hr, Fmt.magExp_normal E hr,
      roundMag_of_ulpExp_eq hm (by unfold Fmt.ulpExp; omega), hfield]
    ring

end

/-! ### Encoding and decoding -/

theorem encodeVal_fin {f : Fmt} {o : Overflow} {neg : Bool} {m : Nat} {e : Int}
    (h : roundMag f m e false ≤ f.maxFinite) :
    encodeVal f o (.fin neg m e) = withSign f neg (roundMag f m e false) := by
  simp [encodeVal, finishBits, Nat.not_lt.2 h]

/-- A finite result decodes to its rounded significand at the unit in the last place. -/
theorem decodeVal_encodeVal_fin {f : Fmt} (hf : 1 ≤ f.ebits) (neg : Bool) {m : Nat} {e : Int} (o : Overflow)
    (hm : m ≠ 0) (h : roundMag f m e false ≤ f.maxFinite) :
    ∃ (sig : Nat) (k : Int), decodeVal f (encodeVal f o (.fin neg m e)) = .fin neg sig k ∧
      (sig : Rat) * 2 ^ k = roundSig m e (f.ulpExp m e) * 2 ^ f.ulpExp m e := by
  refine ⟨_, _, by rw [encodeVal_fin h, decodeVal_withSign_finite hf neg h], ?_⟩
  rw [roundMag_eq hm, Fmt.magSig_mul_magExp (le_roundSig hm) (roundSig_le f m e), Fmt.expField_cast]
  congr 2
  ring

/-- A stored value that is not NaN goes back to its own bits. -/
theorem encodeVal_decodeVal {f : Fmt} (hf : 1 ≤ f.ebits) {b : Nat} (hb : b < 2 ^ f.width)
    (hnan : decodeVal f b ≠ .nan) :
    encodeVal f (if f.spec = .ieee then .infinity else .saturate) (decodeVal f b) = b := by
  have hlt := Nat.mod_lt b (Nat.two_pow_pos (f.ebits + f.mbits))
  rw [← withSign_bitOf_mod hb] at hnan ⊢
  generalize bitOf b (f.ebits + f.mbits) = neg at *
  generalize b % 2 ^ (f.ebits + f.mbits) = mag at *
  by_cases hle : mag ≤ f.maxFinite
  · rw [decodeVal_withSign_finite hf neg hle, encodeVal_fin ((roundMag_magSig f mag).trans_le hle), roundMag_magSig]
  · obtain ⟨hinf, hs, hmag⟩ := decodeVal_withSign_special hf neg hlt hle hnan
    rw [hinf, if_pos hs, hmag]
    simp [encodeVal, overflowSigned, overflowBits]

end Sys2Proof.Machine
end

section
/-! The arithmetic of 02 is exact, then rounded once. -/
namespace Sys2Proof.Machine

open Sys2Proof

/-- The floating-point element formats of Table 2 of 02 have an exponent field, which all the laws of decoding need. -/
theorem one_le_ebits : ∀ f ∈ [fp32, bf16, fp16, e4m3, e5m2, e2m3, e3m2, e2m1], 1 ≤ f.ebits := by
  decide

/-- Settles O50: a group by what its result depends on (`groupSum_congr`); the rounding by the error of its significand
(`roundSig_error`), which decoding gives back (`decodeVal_encodeVal_fin`), and by `encodeVal_decodeVal`. -/
theorem arithmeticIsExactThenRounded : Obligations.ArithmeticIsExactThenRounded := by
  refine ⟨fun xs ps => ⟨fun _ => groupSum_perm xs, fun _ => groupSum_append_zeros xs ps, groupSum_of_nan_mem xs,
    groupSum_of_both_infs xs, fun _ => groupSum_of_inf_mem xs, groupSum_zeros xs⟩, fun f hmem => ?_⟩
  have hf := one_le_ebits f hmem
  refine ⟨fun neg m e o hm h => ?_, fun b hb hnan => encodeVal_decodeVal hf hb hnan⟩
  obtain ⟨hle, heven⟩ := roundSig_error m e (f.ulpExp m e)
  obtain ⟨sig, k, hdec, hval⟩ := decodeVal_encodeVal_fin hf neg o hm h
  rw [← hval] at hle heven
  refine ⟨sig, k, hdec, hle, fun htie => ?_⟩
  obtain ⟨half, hhalf⟩ := Nat.dvd_of_mod_eq_zero (heven htie)
  exact ⟨half, by rw [hval, hhalf, Nat.cast_mul, Nat.cast_two]; rfl⟩

end Sys2Proof.Machine
end

section
/-! SUPPORT. Host writes to mailbox slots (10, R489 to R491): where a BAR0 offset of a slot leads, which writes are
discarded, and what the one that is not leaves. -/
namespace Sys2Proof.Machine

open Sys2Proof

/-- A step that leaves memory, the queue and the duties alone ends in the state it built. -/
theorem done_eq_next {s t : State} (hpending : t.pending = s.pending) (hmem : t.mem = s.mem) (hheat : t.heat = s.heat)
    (hwr : t.wr = []) : done s t = .next t := by
  simp only [done, ← hpending, ← hmem, ← hheat, hwr, Memory.writeAll]
  rw [← hwr]

/-! ### The bytes of a slot -/

/-- A run written over the start of a longer one. -/
theorem putBytes_zero {b bs : Bytes} (h : bs.length ≤ b.length) : putBytes b 0 bs = bs ++ b.drop bs.length := by
  induction bs generalizing b with
  | nil => cases b <;> rfl
  | cons y ys ih =>
    cases b with
    | nil => simp at h
    | cons x xs => simp [putBytes, ih (Nat.le_of_succ_le_succ h)]

/-- A SEAL word is read back from the slot that begins with it. -/
theorem slotSealWord_leBytes_append (w : Word) (b : Bytes) : slotSealWord (leBytes 4 w.toNat ++ b) = w := by
  have hself := sliceBytes_self (a := leBytes 4 w.toNat)
  rw [leBytes_length] at hself
  rw [slotSealWord, leAt, sliceBytes_append_left (by simp), hself, leVal_leBytes,
    show 256 ^ 4 = 2 ^ 32 by norm_num, Nat.mod_eq_of_lt w.isLt, BitVec.ofNat_toNat, BitVec.setWidth_eq]

/-! ### A write of a slot's bytes -/

section
variable {s : State} {r : SlotRef} {x : Bytes}

/-- R490: a slot that stands sealed or taken discards every write. -/
theorem State.writeSlot_of_held (hslot : s.slot? r = some x)
    (hheld : sealState (slotSealWord x) = 1 ∨ sealState (slotSealWord x) = 2) (off : Nat) (bs : Bytes) :
    s.writeSlot r off bs = s.discard r.port := by
  rw [State.writeSlot, hslot]
  exact if_pos (hheld.imp_right .inl)

/-- R491: a write that would set STATE to 2 or 3 is discarded. -/
theorem State.writeSlot_of_badSeal {bs : Bytes} (hslot : s.slot? r = some x) (hne : bs ≠ [])
    (hlen : bs.length ≤ x.length) (hseal : 2 ≤ sealState (slotSealWord (bs ++ x.drop bs.length))) :
    s.writeSlot r 0 bs = s.discard r.port := by
  rw [State.writeSlot, hslot]
  exact if_pos (.inr (.inr ⟨rfl, by simpa using hne, by rwa [putBytes_zero hlen]⟩))

/-- R491 for a write of the whole SEAL word. -/
theorem State.writeSlot_word_of_badSeal {w : Word} (hslot : s.slot? r = some x) (hlen : 4 ≤ x.length)
    (hw : 2 ≤ sealState w) : s.writeSlot r 0 (leBytes 4 w.toNat) = s.discard r.port :=
  State.writeSlot_of_badSeal hslot (List.cons_ne_nil _ _) (by simpa using hlen)
    (by rwa [slotSealWord_leBytes_append])

/-- R489: a slot that stands free takes a SEAL word of STATE 0 or 1, its other bytes kept. -/
theorem State.writeSlot_word_of_free {w : Word} (hslot : s.slot? r = some x) (hlen : 4 ≤ x.length)
    (h1 : sealState (slotSealWord x) ≠ 1) (h2 : sealState (slotSealWord x) ≠ 2) (hw : sealState w ≤ 1) :
    s.writeSlot r 0 (leBytes 4 w.toNat) = s.setSlot r (leBytes 4 w.toNat ++ x.drop 4) := by
  have hput : putBytes x 0 (leBytes 4 w.toNat) = leBytes 4 w.toNat ++ x.drop 4 := by
    rw [putBytes_zero (by simpa using hlen), leBytes_length]
  rw [State.writeSlot, hslot]
  simp only [hput, slotSealWord_leBytes_append]
  refine if_neg ?_
  rintro (h | h | ⟨-, -, h⟩)
  · exact h1 h
  · exact h2 h
  · omega

end

/-! ### A write that reaches a slot through its port -/

/-- The BAR0 offsets of a management slot (Table 3 of 11). -/
theorem slotAt_mgmt (p : Nat) {i off : Nat} (hi : i < 8) (hoff : off < 256) :
    slotAt p (0x2000 + 256 * i + off) = some ({ port := p, box := none, slot := i }, off) := by
  rw [slotAt, if_pos (by omega), show (0x2000 + 256 * i + off - 0x2000) / 256 = i by omega,
    show (0x2000 + 256 * i + off) % 256 = off by omega]

/-- The BAR0 offsets of a slot of a context mailbox (Table 3 of 11). -/
theorem slotAt_box (p : Nat) {c i off : Nat} (hc : c < 1024) (hi : i < 4) (hoff : off < 256) :
    slotAt p (0x400000 + 1024 * c + 256 * i + off) = some ({ port := p, box := some c, slot := i }, off) := by
  rw [slotAt, if_neg (by omega), if_pos (by omega)]
  dsimp only
  rw [show (0x400000 + 1024 * c + 256 * i + off - 0x400000) / 1024 = c by omega,
    show (0x400000 + 1024 * c + 256 * i + off) % 1024 / 256 = i by omega,
    show (0x400000 + 1024 * c + 256 * i + off) % 256 = off by omega]

/-- A BAR0 offset within a slot leads back to it. -/
theorem slotAt_slotOffset {r : SlotRef} {off : Nat} (hok : r.ok = true) (hoff : off < 256) :
    slotAt r.port (slotOffset r + off) = some (r, off) := by
  obtain ⟨p, box, i⟩ := r
  cases box with
  | none =>
    obtain ⟨-, hi⟩ : portOk p = true ∧ i < 8 := by simpa [SlotRef.ok] using hok
    exact slotAt_mgmt p hi hoff
  | some c =>
    obtain ⟨-, hc, hi⟩ : portOk p = true ∧ c < 1024 ∧ i < 4 := by simpa [SlotRef.ok, ctxOk] using hok
    exact slotAt_box p hc hi hoff

section
variable {s : State} {r : SlotRef}
variable (hphase : s.phase = .ready) (hreach : (s.port r.port).reaches = true)
  (hthawed : (s.port r.port).frozen = false) (hgrant : ∀ c, r.box = some c → s.holds r.port c = true)
include hreach hthawed hgrant

/-- A port that is neither down nor frozen writes a mailbox it holds. -/
theorem State.hostSlot_of_granted (off : Nat) (bs : Bytes) : s.hostSlot r off bs = s.writeSlot r off bs := by
  simp only [State.hostSlot, hreach, hthawed, Bool.not_true, Bool.false_eq_true, if_false]
  cases hbox : r.box with
  | none => rfl
  | some c =>
    have hc : ((s.ctx? c).any fun x => x.granted r.port) = true := hgrant c hbox
    simp [hc]

include hphase

/-- A host write within one slot reaches that slot alone. -/
theorem State.hostWrite_slot (hok : r.ok = true) {off : Nat} {bs : Bytes} (hne : bs ≠ [])
    (hfit : off + bs.length ≤ 256) : s.hostWrite r.port (slotOffset r + off) bs = s.writeSlot r off bs := by
  have hpos := List.length_pos_iff.2 hne
  have hat := slotAt_slotOffset hok (show off < 256 by omega)
  have hrecovers : s.recovers r.port = false := by simp [State.recovers, hphase]
  have hserved : s.hostsServed = true := by simp [State.hostsServed, hphase]
  simp only [State.hostWrite, hrecovers, hserved, hreach, hthawed, hat, State.hostSlots, if_pos hfit, Bool.not_true,
    Bool.false_eq_true, or_self, if_false]
  exact State.hostSlot_of_granted hreach hthawed hgrant off bs

/-- REGISTER_WRITE within one slot. -/
theorem exec_registerWrite_slot (hok : r.ok = true) {off : Nat} {bs : Bytes} (hne : bs ≠ [])
    (hfit : off + bs.length ≤ 256) :
    exec (.registerWrite (some r.port) (slotOffset r + off) bs) s = done s (s.writeSlot r off bs) :=
  congrArg (done s) (State.hostWrite_slot hphase hreach hthawed hgrant hok hne hfit)

/-- SLOT_SEAL is the write of a slot's first four bytes. -/
theorem exec_slotSeal (w : Word) :
    exec (.slotSeal r w) s = done s (s.writeSlot r 0 (leBytes 4 w.toNat)) := by
  have hserved : s.hostsServed = true := by simp [State.hostsServed, hphase]
  rw [← State.hostSlot_of_granted hreach hthawed hgrant]
  exact congrArg (done s) (if_pos hserved)

end

end Sys2Proof.Machine
end

section
/-! Host writes to a slot: discarded and counted, or a SEAL word that stands. -/
namespace Sys2Proof.Machine

open Sys2Proof

/-- Settles O6: a host write within a slot is `State.writeSlot` (`exec_registerWrite_slot`, `exec_slotSeal`), which
discards (`State.writeSlot_of_held`, `State.writeSlot_of_badSeal`) or replaces the SEAL word
(`State.writeSlot_word_of_free`). -/
theorem hostWritesToSlots : Obligations.HostWritesToSlots := by
  refine ⟨fun s r x hphase hreach hthawed hok hgrant hslot hlen hwr => ?_,
    fun s r x w hphase hreach hthawed hgrant hslot hlen hwr h1 h2 hw => ?_⟩
  · have hdone : done s (s.discard r.port) = .next (s.discard r.port) := done_eq_next rfl rfl rfl hwr
    have hwrite {off bs} := exec_registerWrite_slot hphase hreach hthawed hgrant hok (off := off) (bs := bs)
    have hseal := exec_slotSeal hphase hreach hthawed hgrant
    refine ⟨fun hheld => ⟨fun off bs hne hfit => ?_, fun w => ?_⟩, fun bs hne hfit hbad => ?_, fun w hbad => ?_⟩
    · rw [hwrite hne hfit, State.writeSlot_of_held hslot hheld, hdone]
    · rw [hseal, State.writeSlot_of_held hslot hheld, hdone]
    · have hat := hwrite (off := 0) hne (by omega)
      rw [Nat.add_zero] at hat
      rw [hat, State.writeSlot_of_badSeal hslot hne (by omega) hbad, hdone]
    · rw [hseal, State.writeSlot_word_of_badSeal hslot (by omega) hbad, hdone]
  · have hpresent : (s.port r.port).present = true := (Bool.and_eq_true_iff.1 hreach).1
    refine ⟨s.setSlot r (leBytes 4 w.toNat ++ x.drop 4), ?_,
      State.slot?_setSlot_self (State.lt_of_present hpresent) hslot, rfl, fun q hq => State.port_updPort_ne s _ hq⟩
    rw [exec_slotSeal hphase hreach hthawed hgrant, State.writeSlot_word_of_free hslot (by omega) h1 h2 hw]
    exact done_eq_next rfl rfl rfl hwr

end Sys2Proof.Machine
end

section
/-! SUPPORT. The messages of a host port (11): what taking and answering a message leaves of the state and of its ports,
the events a port is shown, and what a message row ends in. -/
namespace Sys2Proof.Machine

open Sys2Proof

/-! ### What may change -/

/-- Nothing has changed but ownership, the ports, the control complex and what the module sends: the widest frame of a
message of a host port. -/
def HostSide (s t : State) : Prop := t = { s with own := t.own, ports := t.ports, ccx := t.ccx, out := t.out }

/-- A port apart from its mailboxes, its pending vectors and its count of malformed messages. -/
def Port.sansMail (q : Port) : Port := { q with mgmt := [], boxes := [], pba := [], malformed := 0 }

/-- Messages have been taken, answered or let go, and nothing else has happened. -/
structure MailOnly (s t : State) : Prop where
  side   : HostSide s t
  own    : t.own = s.own
  ports  : ∀ q, (t.port q).sansMail = (s.port q).sansMail
  halted : t.ccx.halted = s.ccx.halted
  msgs   : t.ccx.msgs ⊆ s.ccx.msgs

section
variable {s t u : State}

theorem HostSide.trans (h : HostSide s t) (h' : HostSide t u) : HostSide s u :=
  Eq.trans h' (by rw [h])

theorem HostSide.of_own (h : HostSide s t) (ho : t.own = s.own) :
    t = { s with ports := t.ports, ccx := t.ccx, out := t.out } :=
  Eq.trans h (by rw [ho])

theorem HostSide.setOwn (s : State) (o : Ownership) : HostSide s { s with own := o } := rfl

theorem HostSide.updPort (s : State) (p : Nat) (f : Port → Port) : HostSide s (s.updPort p f) := rfl

theorem HostSide.sendVector (s : State) (p v : Nat) : HostSide s (s.sendVector p v) := by
  unfold State.sendVector
  dsimp only
  split
  · rfl
  · split <;> rfl

theorem HostSide.portEvent (s : State) (p bit : Nat) : HostSide s (s.portEvent p bit) := by
  unfold State.portEvent
  dsimp only
  split
  · rfl
  · split
    · exact (HostSide.updPort s p _).trans (HostSide.sendVector _ p 0)
    · rfl

/-- A fold keeps what its steps keep. -/
theorem HostSide.foldl {α : Type} {f : State → α → State} (hf : ∀ t a, HostSide t (f t a)) (l : List α) (s : State) :
    HostSide s (l.foldl f s) := by
  induction l generalizing s with
  | nil => rfl
  | cons a l ih => exact (hf s a).trans (ih (f s a))

theorem HostSide.allEvent (s : State) (bit : Nat) : HostSide s (s.allEvent bit) :=
  HostSide.foldl (fun t p => HostSide.portEvent t p bit) _ s

theorem HostSide.lapse (s : State) : HostSide s s.lapse :=
  ((HostSide.setOwn s _).trans (HostSide.allEvent _ _)).trans (HostSide.allEvent _ _)

/-- A step that stays on the host's side ends in the state it built. -/
theorem HostSide.done_eq (h : HostSide s t) (hwr : s.wr = []) : done s t = .next t :=
  done_eq_next (by rw [h]) (by rw [h]) (by rw [h]) (by rw [h, ← hwr])

/-! ### Taking and answering -/

theorem MailOnly.refl (s : State) : MailOnly s s := ⟨rfl, rfl, fun _ => rfl, rfl, fun _ => id⟩

theorem MailOnly.trans (h : MailOnly s t) (h' : MailOnly t u) : MailOnly s u :=
  ⟨h.side.trans h'.side, h'.own.trans h.own, fun q => (h'.ports q).trans (h.ports q), h'.halted.trans h.halted,
    fun _ hm => h.msgs (h'.msgs hm)⟩

/-- A fold takes and answers no more than its steps do. -/
theorem MailOnly.foldl {α : Type} {f : State → α → State} (hf : ∀ t a, MailOnly t (f t a)) (l : List α) (s : State) :
    MailOnly s (l.foldl f s) := by
  induction l generalizing s with
  | nil => exact .refl s
  | cons a l ih => exact (hf s a).trans (ih (f s a))

theorem MailOnly.updPort (s : State) (p : Nat) {f : Port → Port} (hf : ∀ q, (f q).sansMail = q.sansMail) :
    MailOnly s (s.updPort p f) :=
  ⟨rfl, rfl, fun q => s.port_updPort_field p q f Port.sansMail hf, rfl, fun _ => id⟩

theorem MailOnly.sendVector (s : State) (p v : Nat) : MailOnly s (s.sendVector p v) :=
  ⟨.sendVector s p v, by simp, fun q => s.port_sendVector_field p v q Port.sansMail fun _ _ => rfl, by simp, by simp⟩

theorem MailOnly.setSlot (s : State) (r : SlotRef) (b : Bytes) : MailOnly s (s.setSlot r b) :=
  .updPort s r.port fun q => by cases r.box <;> rfl

theorem MailOnly.markTaken (s : State) (r : SlotRef) (b : Bytes) (bad : Bool) : MailOnly s (s.markTaken r b bad) := by
  have h := (MailOnly.setSlot s r (takenSlot s b)).trans (.updPort _ r.port (f := fun q =>
    { q with malformed := if bad then (if q.malformed ≥ 2 then 0 else q.malformed + 1) else 0 }) fun _ => rfl)
  exact ⟨rfl, rfl, h.ports, rfl, fun _ => id⟩

/-- Messages let go. -/
theorem MailOnly.dropMsgs (s : State) (keep : Msg → Bool) :
    MailOnly s { s with ccx := { s.ccx with msgs := s.ccx.msgs.filter keep } } :=
  ⟨rfl, rfl, fun _ => rfl, rfl, List.filter_subset_self _⟩

theorem MailOnly.writeReply (s : State) (m : Msg) (code : Code) (body : Bytes) :
    MailOnly s (s.writeReply m code body) := by
  unfold State.writeReply
  dsimp only
  split
  · exact .refl s
  split
  · exact .refl s
  split
  · exact (MailOnly.setSlot s _ _).trans (.sendVector _ _ _)
  · exact .setSlot s _ _

theorem MailOnly.replyWaiting (s : State) (seq : Nat) (code : Code) (body : Bytes) :
    MailOnly s (s.replyWaiting seq code body) := by
  unfold State.replyWaiting
  split
  · exact .refl s
  split
  · exact .refl s
  · exact (MailOnly.dropMsgs s _).trans (.writeReply _ _ code body)

/-- Any field of a port but its mail, read back. -/
theorem MailOnly.field {α : Type} (h : MailOnly s t) (q : Nat) (g : Port → α) (hg : ∀ x, g x = g x.sansMail) :
    g (t.port q) = g (s.port q) := by
  rw [hg, h.ports, ← hg]

theorem MailOnly.events (h : MailOnly s t) (q : Nat) : (t.port q).events = (s.port q).events :=
  h.field q (fun x => x.events) fun _ => rfl

theorem MailOnly.windows (h : MailOnly s t) (q : Nat) : (t.port q).windows = (s.port q).windows :=
  h.field q (fun x => x.windows) fun _ => rfl

theorem MailOnly.reaches (h : MailOnly s t) (q : Nat) : (t.port q).reaches = (s.port q).reaches :=
  h.field q Port.reaches fun _ => rfl

theorem MailOnly.answers (h : MailOnly s t) (q : Nat) : (t.port q).answers = (s.port q).answers :=
  h.field q Port.answers fun _ => rfl

/-- No message waits under a TAKE_SEQ that was replied. -/
theorem State.not_waiting_replyWaiting {seq : Nat} {code : Code} {body : Bytes} {m : Msg} (hrun : s.ccx.halted = false)
    (hm : m ∈ (s.replyWaiting seq code body).ccx.msgs) (hseq : m.seq = seq) : m.state ≠ .waiting := by
  unfold State.replyWaiting at hm
  rw [if_neg (by simp [hrun])] at hm
  split at hm
  case h_1 hnone =>
    have := List.find?_eq_none.1 hnone m hm
    simpa [hseq] using this
  case h_2 =>
    rw [State.writeReply_ccx] at hm
    exact absurd hseq (by simpa using (List.mem_filter.1 hm).2)

/-- No message waits under any of the TAKE_SEQs that were replied. -/
theorem State.not_waiting_foldl_replyWaiting {code : Code} {body : Bytes} {m : Msg} {seqs : List Nat}
    (hrun : s.ccx.halted = false) (hm : m ∈ (seqs.foldl (fun t seq => t.replyWaiting seq code body) s).ccx.msgs)
    (hseq : m.seq ∈ seqs) : m.state ≠ .waiting := by
  induction seqs generalizing s with
  | nil => cases hseq
  | cons a seqs ih =>
    have hfirst := MailOnly.replyWaiting s a code body
    rcases List.mem_cons.1 hseq with ha | hrest
    · have hrest := MailOnly.foldl (fun t seq => MailOnly.replyWaiting t seq code body) seqs
        (s.replyWaiting a code body)
      exact State.not_waiting_replyWaiting hrun (hrest.msgs hm) ha
    · exact ih (hfirst.halted.trans hrun) hm hrest

/-! ### Ports keep their number -/

@[simp] theorem State.updPort_ports_length (s : State) (p : Nat) (f : Port → Port) :
    (s.updPort p f).ports.length = s.ports.length := by simp [State.updPort]

@[simp] theorem State.markTaken_ports_length (s : State) (r : SlotRef) (b : Bytes) (bad : Bool) :
    (s.markTaken r b bad).ports.length = s.ports.length := by simp [State.markTaken, State.setSlot]

@[simp] theorem State.sendVector_ports_length (s : State) (p v : Nat) :
    (s.sendVector p v).ports.length = s.ports.length := by
  unfold State.sendVector
  dsimp only
  split
  · rfl
  · split <;> simp

@[simp] theorem State.portEvent_ports_length (s : State) (p bit : Nat) :
    (s.portEvent p bit).ports.length = s.ports.length := by
  unfold State.portEvent
  dsimp only
  split
  · rfl
  · split <;> simp

@[simp] theorem State.allEvent_ports_length (s : State) (bit : Nat) :
    (s.allEvent bit).ports.length = s.ports.length := by
  simp [State.allEvent, List.range, List.range.loop]

@[simp] theorem State.lapse_ports_length (s : State) : s.lapse.ports.length = s.ports.length := by
  simp [State.lapse]

/-! ### Events shown to ports (R541, R542) -/

theorem State.reaches_portEvent (s : State) (p bit q : Nat) :
    ((s.portEvent p bit).port q).reaches = (s.port q).reaches :=
  s.port_portEvent_field p bit q Port.reaches fun _ _ _ => rfl

theorem State.reaches_allEvent (s : State) (bit q : Nat) : ((s.allEvent bit).port q).reaches = (s.port q).reaches :=
  s.port_allEvent_field bit q Port.reaches fun _ _ _ => rfl

/-- The event bits of a port after an event on it. -/
theorem State.events_portEvent_self {p : Nat} (hreach : (s.port p).reaches = true) (bit : Nat) :
    ((s.portEvent p bit).port p).events =
      if (s.port p).events.getLsbD bit then (s.port p).events else (s.port p).events ||| BitVec.twoPow 5 bit := by
  obtain ⟨hpresent, hup⟩ := Bool.and_eq_true_iff.1 hreach
  have hset : ((s.updPort p fun q => { q with events := q.events ||| BitVec.twoPow 5 bit }).port p).events =
      (s.port p).events ||| BitVec.twoPow 5 bit := by
    rw [State.port_updPort_self s _ (State.lt_of_present hpresent)]
  unfold State.portEvent
  simp only [hpresent, hup, Bool.not_true, Bool.false_or]
  split
  · rfl
  split
  · rw [State.port_sendVector_field _ p 0 p (fun q => q.events) fun _ _ => rfl, hset]
  · exact hset

/-- An event sets its bit. -/
theorem State.getLsbD_portEvent_self {p bit : Nat} (hreach : (s.port p).reaches = true) (hbit : bit < 5) :
    ((s.portEvent p bit).port p).events.getLsbD bit = true := by
  rw [State.events_portEvent_self hreach]
  split
  · assumption
  · simp [hbit]

/-- An event leaves the ports that are not shown it. -/
theorem State.port_portEvent_ne (s : State) {p q : Nat} (bit : Nat) (h : q ≠ p) :
    (s.portEvent p bit).port q = s.port q := by
  have hup (f : Port → Port) := State.port_updPort_ne s f h
  unfold State.portEvent State.sendVector
  dsimp only
  split
  · rfl
  split
  · split
    · exact hup _
    split
    · rw [State.port_updPort_ne _ _ h, hup]
    · exact hup _
  · exact hup _

/-- A bit that is set stays set when an event comes. -/
theorem State.getLsbD_portEvent_of_set {q i : Nat} (p bit : Nat) (hset : (s.port q).events.getLsbD i = true) :
    ((s.portEvent p bit).port q).events.getLsbD i = true := by
  by_cases hq : q = p
  · subst hq
    by_cases hreach : (s.port q).reaches = true
    · rw [State.events_portEvent_self hreach]
      split
      · exact hset
      · simp [hset]
    · have hdown : (!(s.port q).present || !(s.port q).linkUp) = true := by
        rwa [Port.reaches, Bool.not_eq_true, ← Bool.not_eq_true', Bool.not_and] at hreach
      rw [State.portEvent]
      simp [hdown, hset]
  · rw [State.port_portEvent_ne s bit hq, hset]

theorem State.getLsbD_foldl_portEvent_of_set {q i bit : Nat} (l : List Nat)
    (hset : (s.port q).events.getLsbD i = true) :
    ((l.foldl (fun t p => t.portEvent p bit) s).port q).events.getLsbD i = true := by
  induction l generalizing s with
  | nil => exact hset
  | cons p l ih => exact ih (State.getLsbD_portEvent_of_set p bit hset)

theorem State.getLsbD_allEvent_of_set {q i : Nat} (bit : Nat) (hset : (s.port q).events.getLsbD i = true) :
    ((s.allEvent bit).port q).events.getLsbD i = true :=
  State.getLsbD_foldl_portEvent_of_set _ hset

theorem State.getLsbD_foldl_portEvent {q bit : Nat} {l : List Nat} (hq : q ∈ l) (hreach : (s.port q).reaches = true)
    (hbit : bit < 5) : ((l.foldl (fun t p => t.portEvent p bit) s).port q).events.getLsbD bit = true := by
  induction l generalizing s with
  | nil => cases hq
  | cons p l ih =>
    rcases List.mem_cons.1 hq with rfl | hq
    · exact State.getLsbD_foldl_portEvent_of_set l (State.getLsbD_portEvent_self hreach hbit)
    · exact ih hq ((State.reaches_portEvent s p bit q).trans hreach)

/-- An event on every port sets its bit on every present port whose link is up. -/
theorem State.getLsbD_allEvent {q bit : Nat} (hq : q < 4) (hreach : (s.port q).reaches = true) (hbit : bit < 5) :
    ((s.allEvent bit).port q).events.getLsbD bit = true :=
  State.getLsbD_foldl_portEvent (List.mem_range.2 hq) hreach hbit

end

/-! ### The row of a taken message -/

section
variable {s u v : State} {r : SlotRef} {f : Form} {b : Bytes} {i : Instr} {carry : State → Msg → Carried}
  {code : Code} {body : Bytes}

/-- A message that is no resignation is carried out on the state with its slot taken. -/
theorem takenNow_of_taken (h : Taken s r f b) (hf : f ≠ .handoverResign) :
    (s.markTaken r b false).takenNow (msgAt s r b) = s.markTaken r b false :=
  State.takenNow_of_ne fun he => hf (Option.some.inj (Eq.trans (Eq.symm h.form) he))

theorem taken_port_lt_markTaken (h : Taken s r f b) : r.port < (s.markTaken r b false).ports.length := by
  simpa using taken_port_lt h

/-- A message that is replied: the row ends with its reply. -/
theorem exec_of_reply (h : Taken s r f b) (hwr : s.wr = []) (hexec : exec i s = done s (s.takeRow r f carry))
    (hnow : (s.markTaken r b false).takenNow (msgAt s r b) = v) (hcarry : carry v (msgAt s r b) = .reply u code body)
    (hside : HostSide s u) : exec i s = .next (u.writeReply (msgAt s r b) code body) := by
  rw [hexec, State.takeRow_of_taken carry h, hnow, hcarry]
  exact (hside.trans (MailOnly.writeReply u _ code body).side).done_eq hwr

/-- A message that waits: the row ends with it among the messages of the control complex. -/
theorem exec_of_wait (h : Taken s r f b) (hwr : s.wr = []) (hexec : exec i s = done s (s.takeRow r f carry))
    (hnow : (s.markTaken r b false).takenNow (msgAt s r b) = v) (hcarry : carry v (msgAt s r b) = .wait u)
    (hside : HostSide s u) :
    exec i s = .next { u with ccx :=
      { u.ccx with msgs := u.ccx.msgs ++ [{ msgAt s r b with state := .waiting }] } } := by
  rw [hexec, State.takeRow_of_taken carry h, hnow, hcarry]
  refine HostSide.done_eq (hside.trans ?_) hwr
  rfl

theorem gives_mono {P Q : State → Prop} (himp : ∀ t, P t → Q t) (h : Gives i s P) : Gives i s Q :=
  h.imp fun t ht => ⟨ht.1, himp t ht.2⟩

/-- A message that is refused has no effect beyond its slot, its take and the reply's vector (R498, R501). -/
theorem gives_of_refuse (h : Taken s r f b) (hwr : s.wr = []) (hexec : exec i s = done s (s.takeRow r f carry))
    (hf : f ≠ .handoverResign)
    (hcarry : carry (s.markTaken r b false) (msgAt s r b) = refuse (s.markTaken r b false) code) :
    Gives i s fun t => TurnedAway t s r b code ∧ MailOnly s t := by
  have hmark := MailOnly.markTaken s r b false
  have hmail := hmark.trans (.writeReply _ (msgAt s r b) code (zeros 240))
  exact ⟨_, exec_of_reply h hwr hexec (takenNow_of_taken h hf) hcarry hmark.side,
    ⟨answered_of_reply h rfl (by simp) rfl, hmail.side.of_own hmail.own⟩, hmail⟩

end

end Sys2Proof.Machine
end

section
/-! Offers and resignations of ownership (11, R565 to R570). -/
namespace Sys2Proof.Machine

open Sys2Proof

section
variable {s : State} {r : SlotRef} {b : Bytes}

/-- A HANDOVER to another port that is up and not frozen offers ownership to it. -/
theorem carryHandover_of_answers {m : Msg} (hp : (byteAt m.body 0).toNat < 4)
    (hne : (byteAt m.body 0).toNat ≠ m.port) (hans : (s.port (byteAt m.body 0).toNat).answers = true) :
    carryHandover s m = accept (({ s with own := { s.own with offer := some (m.port, (byteAt m.body 0).toNat) } } :
      State).portEvent (byteAt m.body 0).toNat evOffered) [] :=
  if_neg (by simp [hp, hne, hans])

/-- Lapsed ownership. -/
theorem State.lapse_own (s : State) :
    s.lapse.own = { owner := none, electing := true, claims := [], offer := none } := by
  simp [State.lapse]

/-- A lapse shows OWNER_CHANGED and ELECTION_OPEN on every present port whose link is up. -/
theorem State.getLsbD_lapse {q : Nat} (hq : q < 4) (hreach : (s.port q).reaches = true) :
    (s.lapse.port q).events.getLsbD 0 = true ∧ (s.lapse.port q).events.getLsbD 1 = true :=
  ⟨State.getLsbD_allEvent_of_set _ (State.getLsbD_allEvent hq hreach (by decide)),
    State.getLsbD_allEvent hq ((State.reaches_allEvent _ _ q).trans hreach) (by decide)⟩

theorem gives_handover (hwr : s.wr = []) (h : Taken s r .handover b) (hp : (byteAt (slotBody b) 0).toNat < 4)
    (hne : (byteAt (slotBody b) 0).toNat ≠ r.port) (hans : (s.port (byteAt (slotBody b) 0).toNat).answers = true) :
    Gives (.handover r) s fun t =>
      t.own = { s.own with offer := some (r.port, (byteAt (slotBody b) 0).toNat) } ∧
        (t.port (byteAt (slotBody b) 0).toNat).events.getLsbD 2 = true ∧ Answered t r b Err.success (zeros 240) ∧
        t = { s with own := t.own, ports := t.ports, ccx := t.ccx, out := t.out } := by
  have hmark := MailOnly.markTaken s r b false
  have hreply (u : State) (body : Bytes) := MailOnly.writeReply u (msgAt s r b) Err.success body
  have hoffer := hmark.side.trans (.setOwn _ { s.own with offer := some (r.port, (byteAt (slotBody b) 0).toNat) })
  have hside := hoffer.trans (.portEvent _ (byteAt (slotBody b) 0).toNat evOffered)
  have hreach : ((s.markTaken r b false).port (byteAt (slotBody b) 0).toNat).reaches = true :=
    (hmark.reaches _).trans (Bool.and_eq_true_iff.1 hans).1
  refine ⟨_, exec_of_reply h hwr rfl (takenNow_of_taken h (by decide))
    (carryHandover_of_answers hp hne ((hmark.answers _).trans hans)) hside, ?_, ?_, ?_, hside.trans (hreply _ _).side⟩
  · simp only [State.writeReply_own, State.portEvent_own, State.markTaken_own]; rfl
  · rw [(hreply _ _).events]
    exact State.getLsbD_portEvent_self hreach (by decide)
  · exact answered_of_reply h rfl (by simp) (State.slot?_portEvent _ _ _ r)

theorem gives_handover_refused (hwr : s.wr = []) (h : Taken s r .handover b)
    (hbad : 4 ≤ (byteAt (slotBody b) 0).toNat ∨ (byteAt (slotBody b) 0).toNat = r.port ∨
      (s.port (byteAt (slotBody b) 0).toNat).answers = false) :
    Gives (.handover r) s fun t => TurnedAway t s r b Err.handoverInvalid :=
  gives_mono (fun _ ht => ht.1) <| gives_of_refuse h hwr rfl (by decide) <| if_pos <| by
    rwa [Bool.not_eq_true', (MailOnly.markTaken s r b false).answers]

theorem gives_handoverResign (hwr : s.wr = []) (h : Taken s r .handoverResign b) :
    Gives (.handoverResign r) s fun t =>
      t.own = { owner := none, electing := true, claims := [], offer := none } ∧
        (∀ q, q < 4 → (s.port q).reaches = true →
          (t.port q).events.getLsbD 0 = true ∧ (t.port q).events.getLsbD 1 = true) ∧
        Answered t r b Err.success (zeros 240) ∧
        t = { s with own := t.own, ports := t.ports, ccx := t.ccx, out := t.out } := by
  have hmark := MailOnly.markTaken s r b false
  have hside := hmark.side.trans (HostSide.lapse _)
  have hreply := MailOnly.writeReply (s.markTaken r b false).lapse (msgAt s r b) Err.success (replyBody [])
  refine ⟨_, exec_of_reply h hwr rfl (State.takenNow_resign h.form (taken_checks h).2) rfl hside,
    hreply.own.trans (State.lapse_own _), fun q hq hreach => ?_, ?_, hside.trans hreply.side⟩
  · rw [hreply.events]
    exact State.getLsbD_lapse hq ((hmark.reaches q).trans hreach)
  · exact answered_of_reply h rfl (by simp)
      ((State.slot?_allEvent _ _ r).trans (State.slot?_allEvent _ _ r))

theorem gives_accept (hwr : s.wr = []) (h : Taken s r .accept b)
    (hoffer : s.own.offer = some ((byteAt (slotBody b) 0).toNat, r.port)) :
    Gives (.accept r) s fun t =>
      t.own = { s.own with owner := some r.port, offer := none } ∧ Answered t r b Err.success (zeros 240) ∧
        (∀ q, q < 4 → (s.port q).reaches = true → (t.port q).events.getLsbD 0 = true) ∧
        t = { s with own := t.own, ports := t.ports, ccx := t.ccx, out := t.out } := by
  have hmark := MailOnly.markTaken s r b false
  have hreply (u : State) (body : Bytes) := MailOnly.writeReply u (msgAt s r b) Err.success body
  have hside := (hmark.side.trans (.setOwn _ { s.own with owner := some r.port, offer := none })).trans
    (.allEvent _ evOwnerChanged)
  refine ⟨_, exec_of_reply h hwr rfl (takenNow_of_taken h (by decide)) (if_pos hoffer) hside, ?_, ?_,
    fun q hq hreach => ?_, hside.trans (hreply _ _).side⟩
  · simp only [State.writeReply_own, State.allEvent_own, State.markTaken_own]; rfl
  · exact answered_of_reply h rfl (by simp) (State.slot?_allEvent _ _ r)
  · rw [(hreply _ _).events]
    exact State.getLsbD_allEvent hq ((hmark.reaches q).trans hreach) (by decide)

theorem gives_accept_refused (hwr : s.wr = []) (h : Taken s r .accept b)
    (hoffer : s.own.offer ≠ some ((byteAt (slotBody b) 0).toNat, r.port)) :
    Gives (.accept r) s fun t => TurnedAway t s r b Err.handoverInvalid :=
  gives_mono (fun _ ht => ht.1) (gives_of_refuse h hwr rfl (by decide) (if_neg hoffer))

end

/-- Settles O11: the HANDOVER, its resigning form and the ACCEPT by what their carrying out leaves (`gives_handover`,
`gives_handoverResign`, `gives_accept`), every other one by its refusal. -/
theorem ownershipIsHandedOver : Obligations.OwnershipIsHandedOver := by
  refine ⟨fun s r b hwr => ⟨fun h hp hne hreach hthawed => ?_, fun h hbad => ?_, gives_handoverResign hwr⟩,
    fun s r b h hwr => ⟨gives_accept hwr h, gives_accept_refused hwr h⟩, fun s hrun hwr => ?_⟩
  · exact gives_handover hwr h hp hne (by simp [Port.answers, hreach, hthawed])
  · refine gives_handover_refused hwr h (hbad.imp_right (.imp_right ?_))
    rintro (hdown | hfrozen)
    · simp [Port.answers, hdown]
    · simp [Port.answers, hfrozen]
  · have hexpire : exec .handoverOfferExpire s = done s { s with own := { s.own with offer := none } } :=
      congrArg (done s) (if_pos hrun)
    exact hexpire.trans ((HostSide.setOwn s _).done_eq hwr)

end Sys2Proof.Machine
end

section
/-! DMA windows (11, R551, R554, R555). -/
namespace Sys2Proof.Machine

open Sys2Proof

section
variable {s t : State} {r : SlotRef} {b : Bytes} {p w : Nat}

/-! ### Windows read back -/

theorem MailOnly.window? (h : MailOnly s t) (p w : Nat) : t.window? p w = s.window? p w := by
  rw [State.window?, h.windows, State.window?]

/-- Which chunks are dealt toward a window is no matter of mail. -/
theorem MailOnly.towardWindow (h : MailOnly s t) (p w : Nat) : t.towardWindow p w = s.towardWindow p w := by
  have hjobs : t.jobs = s.jobs := by rw [h.side]
  have hheld : t.held = s.held := by rw [h.side]
  have hreads : t.hostReads = s.hostReads := by rw [h.side]
  have hcurrent (x : HostRead) : x.current t = x.current s := by
    rw [HostRead.current, h.field x.port (fun q => q.epoch) fun _ => rfl, HostRead.current]
  simp only [State.towardWindow, hjobs, hheld, hreads, hcurrent]

/-- A port with a window is one of the four. -/
theorem State.lt_of_window? {y : Window} (h : s.window? p w = some y) : p < s.ports.length := by
  by_contra hn
  simp [State.window?, State.port, List.getD_eq_getElem?_getD, List.getElem?_eq_none (Nat.le_of_not_lt hn),
    Port.reset] at h

/-- A window taken away is not found again. -/
theorem State.window?_dropWindow_self (hp : p < s.ports.length) : (s.dropWindow p w).window? p w = none := by
  rw [State.window?, State.dropWindow, State.port_updPort_self s _ hp]
  simp

/-- Windows changed on a port leave every slot. -/
theorem State.slot?_updWindows (s : State) (p : Nat) (f : Port → List Window) (r : SlotRef) :
    (s.updPort p fun q => { q with windows := f q }).slot? r = s.slot? r :=
  State.slot?_congr (s.port_updPort_field p _ _ (fun q => q.mgmt) fun _ => rfl)
    (s.port_updPort_field p _ _ (fun q => q.boxes) fun _ => rfl)

/-! ### An open -/

/-- The window that the body of an open describes. -/
def openedWindow (x : Bytes) : Window :=
  { index := (byteAt x 1).toNat, read := bitOf (byteAt x 2).toNat 0, write := bitOf (byteAt x 2).toNat 1,
    noSnoop := bitOf (byteAt x 2).toNat 2, relaxed := bitOf (byteAt x 2).toNat 3, hostAddr := leAt x 8 8,
    length := leAt x 16 8, closing := [] }

/-- An open whose body keeps Table 9, of a window that is not open, adds its window to those of its port (R551). -/
theorem carryDmaOpen_of_valid {m : Msg} (hbody : dmaOpenBody m.body)
    (hnew : s.window? m.port (byteAt m.body 1).toNat = none) :
    carryDmaOpen s m = accept (s.updPort m.port fun q => { q with windows := q.windows ++ [openedWindow m.body] })
      (leBytes 1 (byteAt m.body 1).toNat) :=
  if_neg <| by
    rw [dmaOpenBody] at hbody
    simp only [hnew, Option.isSome_none, Bool.false_eq_true, or_false]
    omega

/-- Every other open is refused (R554). -/
theorem carryDmaOpen_of_not_valid {m : Msg}
    (hbad : ¬(dmaOpenBody m.body ∧ s.window? m.port (byteAt m.body 1).toNat = none)) :
    carryDmaOpen s m = refuse s Err.dmaWindowInvalid :=
  if_pos <| by
    by_contra hno
    simp only [not_or, Option.not_isSome_iff_eq_none] at hno
    obtain ⟨hflags, haccess, haddr, hpos, hlen, hmax, hnew⟩ := hno
    exact hbad ⟨by rw [dmaOpenBody]; omega, hnew⟩

theorem gives_dmaOpen (hwr : s.wr = []) (h : Taken s r .dmaOpen b) (hbody : dmaOpenBody (slotBody b))
    (hnew : s.window? r.port (byteAt (slotBody b) 1).toNat = none) :
    Gives (.dmaWindowOpen r) s fun t =>
      (t.port r.port).windows = (s.port r.port).windows ++ [openedWindow (slotBody b)] ∧
        Answered t r b Err.success (replyBody (leBytes 1 (byteAt (slotBody b) 1).toNat)) ∧
        t = { s with ports := t.ports, ccx := t.ccx, out := t.out } := by
  have hmark := MailOnly.markTaken s r b false
  have hside := hmark.side.trans
    (.updPort _ r.port fun q => { q with windows := q.windows ++ [openedWindow (slotBody b)] })
  have hreply (u : State) (body : Bytes) := MailOnly.writeReply u (msgAt s r b) Err.success body
  have hcarry := carryDmaOpen_of_valid (m := msgAt s r b) hbody ((hmark.window? r.port _).trans hnew)
  refine ⟨_, exec_of_reply h hwr rfl (takenNow_of_taken h (by decide)) hcarry hside, ?_, ?_, ?_⟩
  · rw [(hreply _ _).windows]
    exact (congrArg Port.windows (State.port_updPort_self _ _ (taken_port_lt_markTaken h))).trans
      (congrArg (· ++ _) (hmark.windows r.port))
  · exact answered_of_reply h (replyBody_length (by simp)) (by simp) (State.slot?_updWindows _ _ _ r)
  · exact (hside.trans (hreply _ _).side).of_own ((hreply _ _).own.trans hmark.own)

theorem gives_dmaOpen_refused (hwr : s.wr = []) (h : Taken s r .dmaOpen b)
    (hbad : ¬(dmaOpenBody (slotBody b) ∧ s.window? r.port (byteAt (slotBody b) 1).toNat = none)) :
    Gives (.dmaWindowOpen r) s fun t =>
      Answered t r b Err.dmaWindowInvalid (zeros 240) ∧ (t.port r.port).windows = (s.port r.port).windows :=
  gives_mono (fun _ ⟨⟨hanswered, _⟩, hmail⟩ => ⟨hanswered, hmail.windows r.port⟩) <|
    gives_of_refuse h hwr rfl (by decide) <| carryDmaOpen_of_not_valid <| by
      rwa [(MailOnly.markTaken s r b false).window?]

/-! ### A close -/

/-- What a close asks of its body and of its window (R554). -/
def dmaCloseValid (s : State) (p : Nat) (x : Bytes) : Prop :=
  (byteAt x 2).toNat < 16 ∧ leAt x 8 8 = 0 ∧ leAt x 16 8 = 0 ∧ (s.window? p (byteAt x 1).toNat).isSome = true

/-- The closes that wait for a window, one more among them. -/
def Window.waitClose (w seq : Nat) (y : Window) : Window :=
  if y.index = w then { y with closing := y.closing ++ [seq] } else y

theorem find?_map_waitClose (w seq : Nat) (l : List Window) :
    (l.map (Window.waitClose w seq)).find? (fun y => y.index == w) =
      (l.find? fun y => y.index == w).map fun y => { y with closing := y.closing ++ [seq] } := by
  induction l with
  | nil => rfl
  | cons y l ih =>
    by_cases hy : y.index = w
    · simp [Window.waitClose, hy]
    · rw [List.map_cons, Window.waitClose, if_neg hy, List.find?_cons_of_neg (by simpa using hy),
        List.find?_cons_of_neg (by simpa using hy), ih]

/-- A window that one more close waits for, read back. -/
theorem State.window?_waitClose (hp : p < s.ports.length) (w seq : Nat) :
    (s.updPort p fun q => { q with windows := q.windows.map (Window.waitClose w seq) }).window? p w =
      (s.window? p w).map fun y => { y with closing := y.closing ++ [seq] } := by
  rw [State.window?, State.port_updPort_self s _ hp]
  exact find?_map_waitClose w seq _

/-- The model's test for refusing a close. -/
theorem dmaCloseValid_iff (s : State) (p : Nat) (x : Bytes) :
    dmaCloseValid s p x ↔ ¬((byteAt x 2).toNat ≥ 16 ∨ leAt x 8 8 ≠ 0 ∨ leAt x 16 8 ≠ 0 ∨
      (s.window? p (byteAt x 1).toNat).isNone = true) := by
  simp only [dmaCloseValid, not_or, not_not, not_le, ge_iff_le, Option.isNone_iff_eq_none, Option.isSome_iff_ne_none,
    ne_eq]

theorem carryDmaClose_of_not_valid {m : Msg} (hbad : ¬dmaCloseValid s m.port m.body) :
    carryDmaClose s m = refuse s Err.dmaWindowInvalid :=
  if_pos (not_not.1 (mt (dmaCloseValid_iff s m.port m.body).2 hbad))

theorem carryDmaClose_of_valid {m : Msg} (hvalid : dmaCloseValid s m.port m.body) :
    carryDmaClose s m =
      if s.towardWindow m.port (byteAt m.body 1).toNat then
        .wait (s.updPort m.port fun q =>
          { q with windows := q.windows.map (Window.waitClose (byteAt m.body 1).toNat m.seq) })
      else accept (s.dropWindow m.port (byteAt m.body 1).toNat) (leBytes 1 (byteAt m.body 1).toNat) :=
  if_neg ((dmaCloseValid_iff s m.port m.body).1 hvalid)

/-- Whether a close is valid is no matter of mail. -/
theorem MailOnly.dmaCloseValid_iff (h : MailOnly s t) (x : Bytes) :
    dmaCloseValid t p x ↔ dmaCloseValid s p x := by
  rw [dmaCloseValid, h.window?, dmaCloseValid]

theorem gives_dmaClose (hwr : s.wr = []) (h : Taken s r .dmaClose b) (hvalid : dmaCloseValid s r.port (slotBody b))
    (hfree : s.towardWindow r.port (byteAt (slotBody b) 1).toNat = false) :
    Gives (.dmaWindowClose r) s fun t =>
      t.window? r.port (byteAt (slotBody b) 1).toNat = none ∧
        Answered t r b Err.success (replyBody (leBytes 1 (byteAt (slotBody b) 1).toNat)) ∧
        t = { s with ports := t.ports, ccx := t.ccx, out := t.out } := by
  have hmark := MailOnly.markTaken s r b false
  have hside : HostSide s ((s.markTaken r b false).dropWindow r.port (byteAt (slotBody b) 1).toNat) :=
    hmark.side.trans (.updPort _ r.port _)
  have hreply (u : State) (body : Bytes) := MailOnly.writeReply u (msgAt s r b) Err.success body
  have hcarry := (carryDmaClose_of_valid (m := msgAt s r b) ((hmark.dmaCloseValid_iff _).2 hvalid)).trans
    (if_neg (Bool.eq_false_iff.1 ((hmark.towardWindow _ _).trans hfree)))
  refine ⟨_, exec_of_reply h hwr rfl (takenNow_of_taken h (by decide)) hcarry hside, ?_, ?_, ?_⟩
  · rw [(hreply _ _).window?]
    exact State.window?_dropWindow_self (taken_port_lt_markTaken h)
  · exact answered_of_reply h (replyBody_length (by simp)) (by simp [State.dropWindow])
      (State.slot?_updWindows _ _ _ r)
  · exact (hside.trans (hreply _ _).side).of_own ((hreply _ _).own.trans hmark.own)

theorem gives_dmaClose_waits (hwr : s.wr = []) (h : Taken s r .dmaClose b)
    (hvalid : dmaCloseValid s r.port (slotBody b))
    (htoward : s.towardWindow r.port (byteAt (slotBody b) 1).toNat = true) :
    Gives (.dmaWindowClose r) s fun t =>
      (t.window? r.port (byteAt (slotBody b) 1).toNat).isSome = true ∧ Waits t s r b ∧
        (∀ y, t.window? r.port (byteAt (slotBody b) 1).toNat = some y → s.ccx.takeSeq ∈ y.closing) ∧
        t = { s with ports := t.ports, ccx := t.ccx, out := t.out } := by
  have hmark := MailOnly.markTaken s r b false
  have hside := hmark.side.trans (.updPort _ r.port fun q =>
    { q with windows := q.windows.map (Window.waitClose (byteAt (slotBody b) 1).toNat s.ccx.takeSeq) })
  have hcarry := (carryDmaClose_of_valid (m := msgAt s r b) ((hmark.dmaCloseValid_iff _).2 hvalid)).trans
    (if_pos ((hmark.towardWindow _ _).trans htoward))
  have hfound := (State.window?_waitClose (taken_port_lt_markTaken h) (byteAt (slotBody b) 1).toNat
    s.ccx.takeSeq).trans (congrArg _ (hmark.window? r.port _))
  refine ⟨_, exec_of_wait h hwr rfl (takenNow_of_taken h (by decide)) hcarry hside, ?_,
    List.mem_append_right _ (List.mem_singleton_self _), fun y hy => ?_, HostSide.of_own (hside.trans rfl) hmark.own⟩
  · exact (congrArg Option.isSome hfound).trans (Option.isSome_map.trans hvalid.2.2.2)
  · obtain ⟨z, -, rfl⟩ := Option.map_eq_some_iff.1 (hfound.symm.trans hy)
    exact List.mem_append_right _ (List.mem_singleton_self _)

theorem gives_dmaClose_refused (hwr : s.wr = []) (h : Taken s r .dmaClose b)
    (hbad : ¬dmaCloseValid s r.port (slotBody b)) :
    Gives (.dmaWindowClose r) s fun t => TurnedAway t s r b Err.dmaWindowInvalid :=
  gives_mono (fun _ ht => ht.1) <| gives_of_refuse h hwr rfl (by decide) <| carryDmaClose_of_not_valid <| by
    rwa [(MailOnly.markTaken s r b false).dmaCloseValid_iff]

/-- A window that closes is taken away and its closes replied, once no chunk dealt toward it remains. -/
theorem State.closeDone_of_free {y : Window} (hrun : s.running = true) (hy : s.window? p w = some y)
    (hclosing : y.closing ≠ []) (hfree : s.towardWindow p w = false) :
    s.closeDone p w =
      y.closing.foldl (fun t seq => t.replyWaiting seq Err.success (replyBody (leBytes 1 w))) (s.dropWindow p w) := by
  rw [State.closeDone, hy]
  exact if_neg (by simp [hrun, hclosing, hfree])

theorem gives_dmaCloseDone {y : Window} (hwr : s.wr = []) (hrun : s.running = true) (hy : s.window? p w = some y)
    (hclosing : y.closing ≠ []) (hfree : s.towardWindow p w = false) :
    Gives (.dmaWindowCloseDone p w) s fun t =>
      t.window? p w = none ∧ (∀ m ∈ t.ccx.msgs, m.seq ∈ y.closing → m.state ≠ .waiting) ∧
        t = { s with ports := t.ports, ccx := t.ccx, out := t.out } := by
  have hmail := MailOnly.foldl (fun t seq => MailOnly.replyWaiting t seq Err.success (replyBody (leBytes 1 w)))
    y.closing (s.dropWindow p w)
  have hside : HostSide s _ := HostSide.trans (HostSide.updPort s p _) hmail.side
  have hhalted : (s.dropWindow p w).ccx.halted = false :=
    Bool.not_eq_true' _ |>.mp (Bool.and_eq_true_iff.1 hrun).2
  have hexec := congrArg (done s) (State.closeDone_of_free hrun hy hclosing hfree)
  refine ⟨_, hexec.trans (hside.done_eq hwr), ?_, fun m hm hseq => ?_, hside.of_own hmail.own⟩
  · rw [hmail.window?]
    exact State.window?_dropWindow_self (State.lt_of_window? hy)
  · exact State.not_waiting_foldl_replyWaiting hhalted hm hseq

end

/-- Settles O13: an open and a close by what their carrying out leaves (`gives_dmaOpen`, `gives_dmaClose`,
`gives_dmaClose_waits`) or by their refusal, and the end of a close that waited (`gives_dmaCloseDone`). -/
theorem windowsOpenAndClose : Obligations.WindowsOpenAndClose :=
  fun _ _ _ hwr =>
    ⟨gives_dmaOpen hwr, gives_dmaOpen_refused hwr,
      fun h hflags haddr hlen hopen => ⟨gives_dmaClose hwr h ⟨hflags, haddr, hlen, hopen⟩,
        gives_dmaClose_waits hwr h ⟨hflags, haddr, hlen, hopen⟩⟩,
      gives_dmaClose_refused hwr, fun _ _ _ => gives_dmaCloseDone hwr⟩

end Sys2Proof.Machine
end

section
/-! Claims and elections (11, R561 to R564). -/
namespace Sys2Proof.Machine

open Sys2Proof

/-! ### The claim that wins -/

/-- A claim is at least as good as another: a higher priority, or the same and no higher a port number (R563). -/
def Claim.beats (c d : Claim) : Prop := d.priority < c.priority ∨ (d.priority = c.priority ∧ c.port ≤ d.port)

theorem Claim.beats_refl (c : Claim) : c.beats c := .inr ⟨rfl, le_rfl⟩

theorem Claim.beats_trans {c d e : Claim} (h : c.beats d) (h' : d.beats e) : c.beats e := by
  unfold Claim.beats at *
  omega

theorem Claim.port_eq_of_beats {c d : Claim} (h : c.beats d) (h' : d.beats c) : c.port = d.port := by
  unfold Claim.beats at *
  omega

theorem winner_eq_none {l : List Claim} (h : winner l = none) : l = [] := by
  cases l with
  | nil => rfl
  | cons c l =>
    rw [winner] at h
    split at h
    · cases h
    · split at h <;> cases h

/-- The winner is one of the claims, and as good as each of them. -/
theorem winner_beats {l : List Claim} {c : Claim} (h : winner l = some c) : c ∈ l ∧ ∀ d ∈ l, c.beats d := by
  induction l generalizing c with
  | nil => cases h
  | cons x l ih =>
    rw [winner] at h
    split at h
    case h_1 hnone =>
      cases h
      rw [winner_eq_none hnone]
      simp [Claim.beats_refl]
    case h_2 y hy =>
      obtain ⟨hmem, hbeats⟩ := ih hy
      split at h
      case isTrue hx =>
        cases h
        have hxy : x.beats y := hx.imp_right fun hx => ⟨hx.1.symm, hx.2.le⟩
        refine ⟨List.mem_cons_self, List.forall_mem_cons.2 ⟨x.beats_refl, fun d hd => ?_⟩⟩
        exact Claim.beats_trans hxy (hbeats d hd)
      case isFalse hx =>
        cases h
        have hyx : c.beats x := by unfold Claim.beats; omega
        exact ⟨List.mem_cons_of_mem _ hmem, List.forall_mem_cons.2 ⟨hyx, hbeats⟩⟩

/-- The port that wins is that of a claim as good as every other. -/
theorem winner_port_eq_some_iff (l : List Claim) (p : Nat) :
    (winner l).map (fun c => c.port) = some p ↔ ∃ c ∈ l, c.port = p ∧ ∀ d ∈ l, c.beats d := by
  constructor
  · intro h
    obtain ⟨c, hc, rfl⟩ := Option.map_eq_some_iff.1 h
    exact ⟨c, (winner_beats hc).1, rfl, (winner_beats hc).2⟩
  · rintro ⟨c, hc, rfl, hbest⟩
    cases hw : winner l with
    | none =>
      rw [winner_eq_none hw] at hc
      cases hc
    | some d =>
      obtain ⟨hd, hdbest⟩ := winner_beats hw
      exact congrArg some (Claim.port_eq_of_beats (hdbest c hc) (hbest d hd))

/-! ### A claim -/

section
variable {s : State} {r : SlotRef} {b : Bytes}

theorem gives_claim_of_owner {o : Nat} (hwr : s.wr = []) (h : Taken s r .claim b) (ho : s.own.owner = some o) :
    Gives (.claim r) s fun t =>
      Answered t r b Err.success (replyBody (leBytes 1 2 ++ leBytes 1 o)) ∧
        t = { s with ports := t.ports, ccx := { s.ccx with takeSeq := takeSeqAfter s.ccx.takeSeq }, out := t.out } := by
  have hmark := MailOnly.markTaken s r b false
  have hcarry : carryClaim (s.markTaken r b false) (msgAt s r b) =
      .reply (s.markTaken r b false) Err.success (claimReply 2 (some o)) := by
    rw [carryClaim, hmark.own, ho]
  have hmail := hmark.trans (.writeReply _ (msgAt s r b) Err.success (claimReply 2 (some o)))
  refine ⟨_, exec_of_reply h hwr rfl (takenNow_of_taken h (by decide)) hcarry hmark.side, ?_, ?_⟩
  · exact answered_of_reply h (replyBody_length (by simp)) (by simp) rfl
  · refine (hmail.side.of_own hmail.own).trans ?_
    rw [State.writeReply_ccx]
    rfl

/-- The election a claim opens or finds open. -/
def State.openElection (s : State) : State :=
  if s.own.electing then s else ({ s with own := { s.own with electing := true } } : State).allEvent evElectionOpen

/-- The earlier claim of a port answered: another stands in its place (R562). -/
def State.answerEarlier (s : State) (p : Nat) : State :=
  match s.own.claims.find? fun c => c.port == p with
  | some c => s.replyWaiting c.seq Err.success (claimReply 3 none)
  | none => s

/-- A claim recorded in place of an earlier one of its port (R562). -/
def Ownership.record (o : Ownership) (c : Claim) : Ownership :=
  { o with claims := o.claims.filter (fun x => x.port != c.port) ++ [c] }

/-- The claim of a message. -/
def Msg.claim (m : Msg) : Claim :=
  { port := m.port, priority := (byteAt m.body 0).toNat, seq := m.seq, alive := true }

theorem carryClaim_of_no_owner {m : Msg} (ho : s.own.owner = none) :
    carryClaim s m = .wait { s.openElection.answerEarlier m.port with
      own := (s.openElection.answerEarlier m.port).own.record m.claim } := by
  rw [carryClaim, ho]
  rfl

theorem HostSide.openElection (s : State) : HostSide s s.openElection := by
  unfold State.openElection
  split
  · rfl
  · exact (HostSide.setOwn s _).trans (.allEvent _ _)

theorem State.openElection_own (s : State) : s.openElection.own = { s.own with electing := true } := by
  unfold State.openElection
  split
  case isTrue helecting => rw [← helecting]
  case isFalse => rw [State.allEvent_own]

/-- An election that opens is shown on every present port whose link is up. -/
theorem State.getLsbD_openElection {q : Nat} (hclosed : s.own.electing = false) (hq : q < 4)
    (hreach : (s.port q).reaches = true) : (s.openElection.port q).events.getLsbD 1 = true := by
  rw [State.openElection, if_neg (by simp [hclosed])]
  exact State.getLsbD_allEvent hq hreach (by decide)

theorem MailOnly.answerEarlier (s : State) (p : Nat) : MailOnly s (s.answerEarlier p) := by
  unfold State.answerEarlier
  split
  · exact .replyWaiting s _ _ _
  · exact .refl s

theorem gives_claim_of_no_owner (hwr : s.wr = []) (h : Taken s r .claim b) (ho : s.own.owner = none) :
    Gives (.claim r) s fun t =>
      Waits t s r b ∧
        t.own = { s.own with
          electing := true
          claims := (s.own.claims.filter fun c => c.port != r.port) ++
            [{ port := r.port, priority := (byteAt (slotBody b) 0).toNat, seq := s.ccx.takeSeq, alive := true }] } ∧
        (s.own.electing = false → ∀ p, p < 4 → (s.port p).reaches = true → (t.port p).events.getLsbD 1 = true) ∧
        t = { s with own := t.own, ports := t.ports, ccx := t.ccx, out := t.out } := by
  have hmark := MailOnly.markTaken s r b false
  have hearlier := MailOnly.answerEarlier (s.markTaken r b false).openElection r.port
  have hside := (hmark.side.trans (.openElection _)).trans hearlier.side
  have hown : ((s.markTaken r b false).openElection.answerEarlier r.port).own = { s.own with electing := true } := by
    rw [hearlier.own, State.openElection_own, hmark.own]
  refine ⟨_, exec_of_wait h hwr rfl (takenNow_of_taken h (by decide))
    (carryClaim_of_no_owner ((congrArg Ownership.owner hmark.own).trans ho)) (hside.trans (.setOwn _ _)),
    List.mem_append_right _ (List.mem_singleton_self _), ?_, fun hclosed q hq hreach => ?_, hside.trans rfl⟩
  · exact congrArg (fun o => o.record (msgAt s r b).claim) hown
  · exact (congrArg (fun e : BitVec 5 => e.getLsbD 1) (hearlier.events q)).trans
      (State.getLsbD_openElection ((congrArg Ownership.electing hmark.own).trans hclosed) hq
        ((hmark.reaches q).trans hreach))

end

/-! ### The end of an election -/

section
variable {s : State}

/-- The port that wins the election of a state, none when no claimant may win (R563, R564). -/
def State.elected (s : State) : Option Nat := (winner (s.own.claims.filter s.eligible)).map fun c => c.port

/-- The election over, the change of owner shown where a port won. -/
def State.settleElection (s : State) : State :=
  let s1 : State := { s with own := { owner := s.elected, electing := false, claims := [], offer := none } }
  if s.elected.isSome then s1.allEvent evOwnerChanged else s1

theorem State.closeElection_of_open (hrun : s.running = true) (helecting : s.own.electing = true)
    (hclaims : s.own.claims ≠ []) :
    s.closeElection = s.own.claims.foldl (fun t c => t.replyWaiting c.seq Err.success
      (claimReply (if s.elected = some c.port then 0 else 1) s.elected)) s.settleElection :=
  if_neg (by simp [hrun, helecting, hclaims])

theorem HostSide.settleElection (s : State) : HostSide s s.settleElection := by
  unfold State.settleElection
  split
  · exact (HostSide.setOwn s _).trans (.allEvent _ _)
  · rfl

theorem State.settleElection_own (s : State) :
    s.settleElection.own = { owner := s.elected, electing := false, claims := [], offer := none } := by
  unfold State.settleElection
  split
  · rw [State.allEvent_own]
  · rfl

/-- A change of owner is shown on every present port whose link is up. -/
theorem State.getLsbD_settleElection {p q : Nat} (hwon : s.elected = some p) (hq : q < 4)
    (hreach : (s.port q).reaches = true) : (s.settleElection.port q).events.getLsbD 0 = true := by
  rw [State.settleElection, if_pos (by rw [hwon]; rfl)]
  exact State.getLsbD_allEvent hq hreach (by decide)

theorem State.eligible_eq (s : State) (c : Claim) :
    s.eligible c = (c.alive && (s.port c.port).reaches && !(s.port c.port).frozen) := by
  rw [State.eligible, Port.answers, Bool.and_assoc]

theorem gives_electionClose (hrun : s.running = true) (helecting : s.own.electing = true)
    (hclaims : s.own.claims ≠ []) (hwr : s.wr = []) :
    Gives .electionClose s fun t =>
      t.own = { owner := s.elected, electing := false, claims := [], offer := none } ∧
        (∀ p q, s.elected = some p → q < 4 → (s.port q).reaches = true → (t.port q).events.getLsbD 0 = true) ∧
        HostSide s t := by
  have hmail := MailOnly.foldl (fun t (c : Claim) => MailOnly.replyWaiting t c.seq Err.success
    (claimReply (if s.elected = some c.port then 0 else 1) s.elected)) s.own.claims s.settleElection
  have hside := (HostSide.settleElection s).trans hmail.side
  have hexec := congrArg (done s) (State.closeElection_of_open hrun helecting hclaims)
  refine ⟨_, hexec.trans (hside.done_eq hwr), hmail.own.trans (State.settleElection_own s),
    fun p q hwon hq hreach => ?_, hside⟩
  rw [hmail.events]
  exact State.getLsbD_settleElection hwon hq hreach

end

/-- Settles O10: a CLAIM by whether there is an owner (`gives_claim_of_owner`, `gives_claim_of_no_owner`), and the close
of an election by the claim that wins (`gives_electionClose`, `winner_port_eq_some_iff`). -/
theorem electionsPickTheOwner : Obligations.ElectionsPickTheOwner := by
  refine ⟨fun s r b h hwr => ⟨fun o => gives_claim_of_owner hwr h, gives_claim_of_no_owner hwr h⟩,
    fun s hrun helecting hclaims hwr => ?_⟩
  obtain ⟨t, hexec, hown, hevents, hside⟩ := gives_electionClose hrun helecting hclaims hwr
  have hable : s.eligible = fun c => c.alive && (s.port c.port).reaches && !(s.port c.port).frozen :=
    funext s.eligible_eq
  refine ⟨t, hexec, fun p => ?_, congrArg Ownership.electing hown, congrArg Ownership.claims hown,
    congrArg Ownership.offer hown, fun p q hwon => ?_, hside⟩
  · rw [hown, ← hable]
    exact winner_port_eq_some_iff _ p
  · rw [hown] at hwon
    exact hevents p q hwon

end Sys2Proof.Machine
end

section
/-! SUPPORT. Scheduling (09, R425 to R442): what bringing contexts' states, slots and turns up to date leaves of each
context and of everything else. -/
namespace Sys2Proof.Machine

open Sys2Proof

/-- A context apart from what scheduling alone decides: its state, its resident slot and the figures of its turns. -/
def Ctx.unscheduled (c : Ctx) : Ctx :=
  { c with state := .idle, resident := false, stateSince := 0, turnBusy := 0, turnIntf := 0, turnOthers := [],
           turnNo := 0, lastBusy := 0, lastIntf := 0, lastOthers := [], slowdown := 0, topOther := 0 }

/-- Nothing has changed but contexts, turns, ordinals and what is shown to the host: the widest frame of a command that
only passes. -/
def ListSide (s t : State) : Prop :=
  t = { s with ctxs := t.ctxs, turns := t.turns, ord := t.ord, ports := t.ports, out := t.out }

/-- Contexts have been scheduled, and nothing else has happened. -/
structure Reschedules (s t : State) : Prop where
  side : ListSide s t
  ctx  : ∀ k, (t.ctx? k).map Ctx.unscheduled = (s.ctx? k).map Ctx.unscheduled

/-- What scheduling leaves of a context. -/
theorem Ctx.unscheduled_inj {x y : Ctx} (h : y.unscheduled = x.unscheduled) :
    y.list = x.list ∧ y.begun = x.begun ∧ y.records = x.records ∧ y.cls = x.cls ∧ y.fault = x.fault := by
  simp only [Ctx.unscheduled, Ctx.mk.injEq] at h
  tauto

section
variable {s t u : State} {n k : Nat} {x : Ctx} {st : CtxState}

theorem ListSide.refl (s : State) : ListSide s s := rfl

theorem ListSide.trans (h : ListSide s t) (h' : ListSide t u) : ListSide s u :=
  Eq.trans h' (by rw [h])

theorem ListSide.updCtx (s : State) (n : Nat) (f : Ctx → Ctx) : ListSide s (s.updCtx n f) := rfl

theorem ListSide.sendVector (s : State) (p v : Nat) : ListSide s (s.sendVector p v) := by
  refine ((MailOnly.sendVector s p v).side.of_own (State.sendVector_own s p v)).trans ?_
  simp

theorem ListSide.sendCtxVector (s : State) (n : Nat) : ListSide s (s.sendCtxVector n) := by
  unfold State.sendCtxVector
  split
  · split
    · rfl
    · exact .sendVector s _ _
  · rfl

/-- A step that stays on the side of the lists ends in the state it built. -/
theorem ListSide.done_eq (h : ListSide s t) (hwr : s.wr = []) : done s t = .next t :=
  done_eq_next (by rw [h]) (by rw [h]) (by rw [h]) (by rw [h, ← hwr])

theorem Reschedules.refl (s : State) : Reschedules s s := ⟨rfl, fun _ => rfl⟩

theorem Reschedules.trans (h : Reschedules s t) (h' : Reschedules t u) : Reschedules s u :=
  ⟨h.side.trans h'.side, fun k => (h'.ctx k).trans (h.ctx k)⟩

theorem Reschedules.tick (h : Reschedules s t) : Reschedules s t.tick :=
  h.trans ⟨rfl, fun _ => rfl⟩

/-- A context that is there before scheduling is there after it, scheduling apart the same. -/
theorem Reschedules.ctx_eq (h : Reschedules s t) (hx : s.ctx? k = some x) :
    ∃ y, t.ctx? k = some y ∧ y.unscheduled = x.unscheduled :=
  Option.map_eq_some_iff.1 ((h.ctx k).trans (by rw [hx]; rfl))

/-- What a change of contexts leaves of each of them. -/
theorem State.map_ctx?_updCtx {α : Type} (s : State) (n k : Nat) {f : Ctx → Ctx} {g : Ctx → α}
    (hnum : ∀ c, (f c).num = c.num) (hg : ∀ c, g (f c) = g c) :
    ((s.updCtx n f).ctx? k).map g = (s.ctx? k).map g := by
  by_cases hk : k = n
  · rw [hk, State.ctx?_updCtx_self s n f hnum, Option.map_map]
    exact congrArg (fun h => (s.ctx? n).map h) (funext hg)
  · rw [State.ctx?_updCtx_ne s f hnum hk]

theorem State.ctx?_updCtx_of_some {f : Ctx → Ctx} (hx : s.ctx? n = some x) (hnum : ∀ c, (f c).num = c.num) :
    (s.updCtx n f).ctx? n = some (f x) := by
  rw [State.ctx?_updCtx_self s n f hnum, hx, Option.map_some]

theorem Reschedules.updCtx (s : State) (n : Nat) (f : Ctx → Ctx) (hnum : ∀ c, (f c).num = c.num)
    (hf : ∀ c, (f c).unscheduled = c.unscheduled) : Reschedules s (s.updCtx n f) :=
  ⟨rfl, fun k => s.map_ctx?_updCtx n k hnum hf⟩

/-! ### One context's state set -/

theorem Reschedules.dropTurn (s : State) (n : Nat) (overran : Bool) : Reschedules s (s.dropTurn n overran) := by
  unfold State.dropTurn
  split
  · exact (Reschedules.updCtx s n Ctx.endTurn (fun _ => rfl) fun _ => rfl).trans ⟨rfl, fun _ => rfl⟩
  · exact .refl s

theorem State.ctx?_dropTurn_ne (s : State) (overran : Bool) (h : k ≠ n) :
    (s.dropTurn n overran).ctx? k = s.ctx? k := by
  unfold State.dropTurn
  split
  · exact State.ctx?_updCtx_ne s _ (fun _ => rfl) h
  · rfl

theorem State.map_state_dropTurn (s : State) (n k : Nat) (overran : Bool) :
    ((s.dropTurn n overran).ctx? k).map Ctx.state = (s.ctx? k).map Ctx.state := by
  unfold State.dropTurn
  split
  · exact s.map_ctx?_updCtx n k (fun _ => rfl) fun _ => rfl
  · rfl

/-- Setting a context's state is a change of its state and its moment, after which it may give up its turn. -/
theorem State.setCtxState_cases (s : State) (hx : s.ctx? n = some x) (st : CtxState) :
    (x.state = st ∧ s.setCtxState n st = s) ∨
      s.setCtxState n st = (s.updCtx n fun x => { x with state := st, stateSince := s.ord }).tick ∨
      s.setCtxState n st =
        ((s.updCtx n fun x => { x with state := st, stateSince := s.ord }).tick).dropTurn n false := by
  unfold State.setCtxState
  rw [hx]
  dsimp only
  split
  · exact .inl ⟨‹_›, rfl⟩
  · split
    · exact .inr (.inr rfl)
    · exact .inr (.inl rfl)

theorem Reschedules.setCtxState (s : State) (n : Nat) (st : CtxState) : Reschedules s (s.setCtxState n st) := by
  cases hx : s.ctx? n with
  | none => simpa [State.setCtxState, hx] using Reschedules.refl s
  | some x =>
    have hupd : Reschedules s (s.updCtx n fun x => { x with state := st, stateSince := s.ord }) :=
      .updCtx s n _ (fun _ => rfl) fun _ => rfl
    obtain ⟨-, h⟩ | h | h := s.setCtxState_cases hx st <;> rw [h]
    · exact .refl s
    · exact hupd.tick
    · exact hupd.tick.trans (.dropTurn _ n false)

theorem State.ctx?_setCtxState_ne (s : State) (st : CtxState) (h : k ≠ n) :
    (s.setCtxState n st).ctx? k = s.ctx? k := by
  cases hx : s.ctx? n with
  | none => simp [State.setCtxState, hx]
  | some x =>
    have hupd := State.ctx?_updCtx_ne s (fun x => { x with state := st, stateSince := s.ord }) (fun _ => rfl) h
    obtain ⟨-, hset⟩ | hset | hset := s.setCtxState_cases hx st <;> rw [hset]
    · exact hupd
    · exact (State.ctx?_dropTurn_ne _ false h).trans hupd

theorem State.state_setCtxState (s : State) (hx : s.ctx? n = some x) (st : CtxState) :
    ((s.setCtxState n st).ctx? n).map Ctx.state = some st := by
  have hupd : (((s.updCtx n fun x => { x with state := st, stateSince := s.ord }).tick).ctx? n).map Ctx.state =
      some st := Option.map_eq_some_iff.2 ⟨_, State.ctx?_updCtx_of_some hx fun _ => rfl, rfl⟩
  obtain ⟨hst, h⟩ | h | h := s.setCtxState_cases hx st <;> rw [h]
  · rw [hx, ← hst]; rfl
  · exact hupd
  · rw [State.map_state_dropTurn]; exact hupd

/-! ### Every context brought up to its commands -/

theorem Reschedules.settleCtx (s : State) (n : Nat) : Reschedules s (s.settleCtx n) := by
  unfold State.settleCtx
  split
  · exact .refl s
  · dsimp only
    split
    · exact .refl s
    · split
      · exact .refl s
      · exact .setCtxState s n _

/-- A PAUSED, HALTED, CLOSING or DEAD context does not follow its commands (Table 3 of 09). -/
theorem State.ctx?_settleCtx_of_fixed (hx : s.ctx? k = some x) (hfixed : x.state.ordinary = false) (n : Nat) :
    (s.settleCtx n).ctx? k = some x := by
  by_cases hn : k = n
  · subst hn
    simp [State.settleCtx, hx, hfixed]
  · unfold State.settleCtx
    split
    · exact hx
    · dsimp only
      split
      · exact hx
      · split
        · exact hx
        · rw [State.ctx?_setCtxState_ne s _ hn, hx]

/-- Giving slots leaves all of a context but its slot. -/
theorem State.map_ctx?_giveSlots {α : Type} {g : Ctx → α} (hg : ∀ c r, g { c with resident := r } = g c) (fuel k : Nat)
    (s : State) : ((State.giveSlots fuel s).ctx? k).map g = (s.ctx? k).map g := by
  have hset (s : State) (n : Nat) (r : Bool) := s.map_ctx?_updCtx n k
    (f := fun x => { x with resident := r }) (fun _ => rfl) fun c => hg c r
  induction fuel generalizing s with
  | zero => rfl
  | succ fuel ih =>
    unfold State.giveSlots
    split
    · rfl
    · split
      · rw [ih, hset]
      · split
        · rfl
        · rw [ih, hset, hset]

theorem ListSide.giveSlots (fuel : Nat) (s : State) : ListSide s (State.giveSlots fuel s) := by
  induction fuel generalizing s with
  | zero => rfl
  | succ fuel ih =>
    unfold State.giveSlots
    split
    · rfl
    · split
      · exact (ListSide.updCtx s _ _).trans (ih _)
      · split
        · rfl
        · exact ((ListSide.updCtx s _ _).trans (.updCtx _ _ _)).trans (ih _)

theorem Reschedules.giveSlots (fuel : Nat) (s : State) : Reschedules s (State.giveSlots fuel s) :=
  ⟨.giveSlots fuel s, fun k => State.map_ctx?_giveSlots (fun _ _ => rfl) fuel k s⟩

theorem Reschedules.settle (s : State) : Reschedules s s.settle := by
  refine Reschedules.trans ?_ (.giveSlots _ _)
  exact List.foldlRecOn (motive := Reschedules s) s.ctxs _ (.refl s) fun t ht c _ => ht.trans (.settleCtx t c.num)

theorem State.state_settle_of_fixed (hx : s.ctx? k = some x) (hfixed : x.state.ordinary = false) :
    (s.settle.ctx? k).map Ctx.state = some x.state := by
  have hfold := List.foldlRecOn (motive := fun t : State => t.ctx? k = some x) s.ctxs (fun t c => t.settleCtx c.num) hx
    fun t ht c _ => State.ctx?_settleCtx_of_fixed ht hfixed c.num
  exact (State.map_ctx?_giveSlots (fun _ _ => rfl) _ k _).trans (by rw [hfold]; rfl)

end

end Sys2Proof.Machine
end

section
/-! SUPPORT. Faults of a context (09, R443 to R450): its begun commands are abandoned, it is halted or torn down, and
its record stands when it is the first. -/
namespace Sys2Proof.Machine

open Sys2Proof

/-- A context that has nothing begun, with a state and a fault record. -/
def Idles (s : State) (n : Nat) (st : CtxState) (r : FaultRec) : Prop :=
  ∃ y, s.ctx? n = some y ∧ y.begun = [] ∧ y.state = st ∧ y.fault = r

section
variable {s t : State} {n : Nat} {c : Ctx} {st : CtxState} {r : FaultRec}

/-- What reads the contexts alone. -/
theorem State.ctx?_congr (h : t.ctxs = s.ctxs) (n : Nat) : t.ctx? n = s.ctx? n := by
  unfold State.ctx?
  rw [h]

/-- A fold leaves the contexts when its steps do. -/
theorem ctxs_foldl {α : Type} {f : State → α → State} (hf : ∀ t a, (f t a).ctxs = t.ctxs) (l : List α) (s : State) :
    (l.foldl f s).ctxs = s.ctxs :=
  List.foldlRecOn (motive := fun t : State => t.ctxs = s.ctxs) l f rfl fun t ht a _ => (hf t a).trans ht

@[simp] theorem State.scrambleOuts_ctxs (s : State) (outs : List OutRun) : (s.scrambleOuts outs).ctxs = s.ctxs :=
  ctxs_foldl (fun t (o : OutRun) => State.scramble_ctxs t o.addr o.length) outs s

@[simp] theorem State.discardExpander_ctxs (s : State) (p : Nat) : (s.discardExpander p).ctxs = s.ctxs := rfl

@[simp] theorem State.shrinkFw_ctxs (s : State) : s.shrinkFw.ctxs = s.ctxs := by
  unfold State.shrinkFw
  rfl

@[simp] theorem State.dropWalks_ctxs (s : State) (f : Walk → Bool) : (s.dropWalks f).ctxs = s.ctxs := by
  unfold State.dropWalks
  rw [State.shrinkFw_ctxs]

@[simp] theorem State.stopJobs_ctxs (s : State) (n : Nat) : (s.stopJobs n).ctxs = s.ctxs := rfl

@[simp] theorem State.dropSaves_ctxs (s : State) (n : Nat) : (s.dropSaves n).ctxs = s.ctxs := rfl

@[simp] theorem State.markPlaced_ctxs (s : State) (build : Option (List BuildItem)) :
    (s.markPlaced build).ctxs = s.ctxs := by
  unfold State.markPlaced
  split <;> rfl

@[simp] theorem State.choose_ctxs (s : State) (k : Nat) : (s.choose k).2.ctxs = s.ctxs := by
  unfold State.choose
  split <;> rfl

@[simp] theorem State.dropItems_ctxs (s : State) (n : Nat) : (s.dropItems n).ctxs = s.ctxs := by
  refine ctxs_foldl (fun t c => ?_) s.ctxs _
  split
  · rfl
  · exact ctxs_foldl (fun u b => State.scrambleOuts_ctxs u _) c.begun t

/-- Charging a turn leaves all of a context but what it counts. -/
theorem Ctx.charge_keeps (c : Ctx) (turn busy intf : Nat) (others : List (Nat × Nat)) :
    (c.charge turn busy intf others).num = c.num ∧ (c.charge turn busy intf others).state = c.state ∧
      (c.charge turn busy intf others).fault = c.fault := by
  unfold Ctx.charge
  dsimp only
  split
  · exact ⟨rfl, rfl, rfl⟩
  · split <;> exact ⟨rfl, rfl, rfl⟩

/-- What an abandoned command is charged changes no context's state and no fault record. -/
theorem State.map_ctx?_chargeAbandoned (s : State) (n turn k : Nat) :
    ((s.chargeAbandoned n turn).ctx? k).map (fun c => (c.state, c.fault)) =
      (s.ctx? k).map fun c => (c.state, c.fault) := by
  unfold State.chargeAbandoned
  dsimp only
  rw [State.map_ctx?_updCtx, State.ctx?_congr (State.choose_ctxs _ _)]
  · rfl
  · exact fun c => (c.charge_keeps ..).1
  · exact fun c => Prod.ext (c.charge_keeps ..).2.1 (c.charge_keeps ..).2.2

theorem Idles.congr (h : Idles s n st r) (ht : t.ctxs = s.ctxs) : Idles t n st r := by
  unfold Idles
  rwa [State.ctx?_congr ht]

/-- A context whose begun commands are taken away keeps its state and its fault record. -/
theorem idles_updCtx (h : (s.ctx? n).map (fun c => (c.state, c.fault)) = some (st, r)) :
    Idles (s.updCtx n fun x => { x with begun := [] }) n st r := by
  obtain ⟨y, hy, hkept⟩ := Option.map_eq_some_iff.1 h
  obtain ⟨hst, hr⟩ := Prod.ext_iff.1 hkept
  exact ⟨_, State.ctx?_updCtx_of_some hy fun _ => rfl, rfl, hst, hr⟩

/-- Abandoning a context's commands leaves its state and its fault record. -/
theorem idles_abandon (hc : s.ctx? n = some c) : Idles (s.abandon n) n c.state c.fault := by
  have hfold : (c.begun.foldl (fun t b => (t.scrambleOuts b.outs).dropWalks (Walk.ofCommand n b.ord)) s).ctxs =
      s.ctxs := ctxs_foldl (fun t b => by simp) c.begun s
  have hstopped := (State.releaseCores_ctxs _ n).trans
    ((State.dropSaves_ctxs _ n).trans ((State.stopJobs_ctxs _ n).trans hfold))
  have hkept {u : State} (hu : u.ctxs = s.ctxs) :
      (u.ctx? n).map (fun c => (c.state, c.fault)) = some (c.state, c.fault) := by
    rw [State.ctx?_congr hu, hc]; rfl
  have hdiscard {u : State} (hu : u.ctxs = s.ctxs) (p : Bool) :
      (if p = true then u.discardExpander c.partition else u).ctxs = s.ctxs := by
    cases p <;> exact hu
  unfold State.abandon
  rw [hc]
  refine (idles_updCtx ?_).congr rfl
  split
  · rw [State.map_ctx?_chargeAbandoned]
    exact hkept (hdiscard hstopped _)
  · exact hkept (hdiscard hstopped _)

theorem Idles.setCtxState (h : Idles s n st r) (st' : CtxState) : Idles (s.setCtxState n st') n st' r := by
  obtain ⟨x, hx, hbegun, -, hfault⟩ := h
  obtain ⟨y, hy, hsame⟩ := (Reschedules.setCtxState s n st').ctx_eq hx
  obtain ⟨-, hsameBegun, -, -, hsameFault⟩ := Ctx.unscheduled_inj hsame
  have hstate := s.state_setCtxState hx st'
  rw [hy] at hstate
  exact ⟨y, hy, hsameBegun.trans hbegun, Option.some.inj hstate, hsameFault.trans hfault⟩

theorem Idles.settle (h : Idles s n st r) (hfixed : st.ordinary = false) : Idles s.settle n st r := by
  obtain ⟨x, hx, hbegun, rfl, hfault⟩ := h
  obtain ⟨y, hy, hsame⟩ := (Reschedules.settle s).ctx_eq hx
  obtain ⟨-, hsameBegun, -, -, hsameFault⟩ := Ctx.unscheduled_inj hsame
  have hstate := State.state_settle_of_fixed hx hfixed
  rw [hy] at hstate
  exact ⟨y, hy, hsameBegun.trans hbegun, Option.some.inj hstate, hsameFault.trans hfault⟩

theorem Idles.setClosing (h : Idles s n st r) (ords : List Nat) :
    Idles (s.updCtx n fun x => { x with closing := ords }) n st r := by
  obtain ⟨y, hy, hidle⟩ := h
  exact ⟨{ y with closing := ords }, State.ctx?_updCtx_of_some hy fun _ => rfl, hidle⟩

/-- R444: a running context halted. -/
theorem idles_haltCtx (hc : s.ctx? n = some c) (hrun : c.state = .running) :
    Idles (s.haltCtx n) n .halted c.fault := by
  have hlive : c.live = true := by simp [Ctx.live, hrun]
  have habandon := (idles_abandon hc).congr (State.dropItems_ctxs _ n)
  simp only [State.haltCtx, hc, hlive, hrun]
  exact (habandon.setCtxState _).settle rfl

/-- Table 8 of 09: a running context's tear-down begun. -/
theorem idles_beginTearDown (hc : s.ctx? n = some c) (hrun : c.state = .running) :
    Idles (s.beginTearDown n) n .closing c.fault := by
  have hlive : c.live = true := by simp [Ctx.live, hrun]
  have habandon := (idles_abandon hc).congr (State.dropItems_ctxs _ n)
  simp only [State.beginTearDown, hc, hlive]
  exact (((habandon.setCtxState _).setClosing _).congr
    ((State.disarmSegs_ctxs _ n none).trans (State.raiseCtxEpoch_ctxs _ n))).settle rfl

/-! ### A fault reported -/

/-- The policy a fault falls under: its command's own, or its context's (R443). -/
def Ctx.policyUnder (c : Ctx) (policy : Nat) : Nat := if policy = 0 then c.policy else policy

/-- The record of a fault with its outcome (Table 9 of 09). -/
def FaultInfo.record (f : FaultInfo) (outcome : Nat) : FaultRec :=
  { code := f.code, outcome := outcome, cmdCtx := f.cmdCtx, cmdIndex := f.cmdIndex, opcode := f.opcode,
    item := f.item, entry := f.entry, detail := f.detail }

/-- The record a context keeps when a fault is reported: the first one (R450). -/
def Ctx.firstFault (c : Ctx) (r : FaultRec) : FaultRec := if c.fault.outcome = 0 then r else c.fault

/-- A fault recorded and sent when it is a context's first (R450). -/
def State.recordFault (s : State) (n : Nat) (c : Ctx) (r : FaultRec) : State :=
  if c.fault.outcome = 0 then (s.updCtx n fun x => { x with fault := r }).sendCtxVector n else s

theorem State.ctx?_recordFault (hc : s.ctx? n = some c) (r : FaultRec) :
    ∃ x, (s.recordFault n c r).ctx? n = some x ∧ x.state = c.state ∧ x.fault = c.firstFault r := by
  unfold State.recordFault Ctx.firstFault
  split
  · exact ⟨_, (State.ctx?_congr (State.sendCtxVector_ctxs _ n) n).trans
      (State.ctx?_updCtx_of_some hc fun _ => rfl), rfl, rfl⟩
  · exact ⟨c, hc, rfl, rfl⟩

/-- R443, R444: a fault of a live context is reported, and halts it or begins its tear-down. -/
theorem State.ctxFault_of_live (hc : s.ctx? n = some c) (hlive : c.live = true) (f : FaultInfo) (policy : Nat) :
    s.ctxFault n f policy =
      if c.policyUnder policy = 2 then (s.recordFault n c (f.record 2)).haltCtx n
      else (s.recordFault n c (f.record 1)).beginTearDown n := by
  unfold State.ctxFault
  rw [hc]
  simp only [hlive, Bool.not_true, Bool.false_eq_true, if_false]
  by_cases hpolicy : (if policy = 0 then c.policy else policy) = 2
  · simp [hpolicy, Ctx.policyUnder, State.recordFault, FaultInfo.record]
  · simp [hpolicy, Ctx.policyUnder, State.recordFault, FaultInfo.record]

/-- What a context that stands idle with the record of a fault says of the fault. -/
theorem faultedBy_of_idles {policy : Nat} (h : Idles t n (if c.policyUnder policy = 2 then .halted else .closing)
      (c.firstFault r)) (hr : r.cmdCtx = n) (houtcome : r.outcome ≠ 0) :
    FaultedBy t n c r.cmdIndex r.opcode policy r.code := by
  obtain ⟨y, hy, hbegun, hstate, hfault⟩ := h
  refine ⟨y, hy, hbegun, hstate, fun hnone => ?_, fun hsome => hfault.trans (if_neg hsome)⟩
  rw [hfault.trans (if_pos hnone)]
  exact ⟨rfl, hr, rfl, rfl, houtcome⟩

/-- R443 to R445, R450: a fault of a running context halts it or begins its tear-down, and its record is the first. -/
theorem faultedBy_ctxFault (hc : s.ctx? n = some c) (hrun : c.state = .running) {f : FaultInfo} (hf : f.cmdCtx = n)
    (policy : Nat) : FaultedBy (s.ctxFault n f policy) n c f.cmdIndex f.opcode policy f.code := by
  rw [State.ctxFault_of_live hc (by simp [Ctx.live, hrun])]
  split
  next hhalts =>
    obtain ⟨x, hx, hxstate, hxfault⟩ := State.ctx?_recordFault hc (f.record 2)
    refine faultedBy_of_idles (r := f.record 2) ?_ hf two_ne_zero
    rw [if_pos hhalts, ← hxfault]
    exact idles_haltCtx hx (hxstate.trans hrun)
  next hcloses =>
    obtain ⟨x, hx, hxstate, hxfault⟩ := State.ctx?_recordFault hc (f.record 1)
    refine faultedBy_of_idles (r := f.record 1) ?_ hf one_ne_zero
    rw [if_neg hcloses, ← hxfault]
    exact idles_beginTearDown hx (hxstate.trans hrun)

/-- The same of a fault whose record names no item (R25). -/
theorem faultedBy_commandFault (hc : s.ctx? n = some c) (hrun : c.state = .running) {f : FaultInfo} (hf : f.cmdCtx = n)
    (build : Option (List BuildItem)) (policy : Nat) :
    FaultedBy (s.commandFault n build f policy) n c f.cmdIndex f.opcode policy f.code := by
  unfold State.commandFault
  rw [hc]
  dsimp only
  split
  · exact faultedBy_ctxFault ((State.ctx?_congr (State.markPlaced_ctxs s build) n).trans hc) hrun hf policy
  · exact faultedBy_ctxFault hc hrun hf policy

end

end Sys2Proof.Machine
end

section
/-! SUPPORT. A command of a list fetched (10, R507 to R519): the rows that fetch it, the positions that fault, and a
command that begins and completes in one step. -/
namespace Sys2Proof.Machine

open Sys2Proof

/-- Each row that fetches a command of a list is one fetch, with its kind of descriptor and what begins it. -/
theorem exec_of_mem_fetchRows (n : Nat) (hw : RunHw) (remote : List RemoteShard) :
    ∀ row ∈ fetchRows n hw remote, ∃ (kind : Bytes → Bool) (body : State → Ctx → Cmd → State),
      ∀ s, exec row s = done s (s.runCmd n kind body) := by
  unfold fetchRows
  repeat refine List.forall_mem_cons.2 ⟨⟨_, _, fun _ => rfl⟩, ?_⟩
  exact List.forall_mem_nil _

section
variable {s t : State} {n : Nat} {c : Ctx} {l : CmdList} {d : Bytes} {kind : Bytes → Bool}
  {body : State → Ctx → Cmd → State}

/-- A fault still stands when its step has ended. -/
theorem gives_of_faultedBy {i : Instr} {index : Word} {op : Byte} {policy : Nat} {code : Code}
    (hexec : exec i s = done s t) (h : FaultedBy t n c index op policy code) :
    Gives i s fun t => FaultedBy t n c index op policy code :=
  ⟨_, hexec, h⟩

section
variable (hrun : s.running = true) (hctx : s.ctx? n = some c) (hstate : c.state = .running) (hslot : c.resident = true)
  (hlist : c.list = some l) (hbegin : s.canBegin c = true)
include hrun hctx hstate hslot hlist hbegin

/-- A running resident context's next command is read from its place (R507, R513). -/
theorem State.runCmd_of_unmapped {e : Code × Nat} (hread : s.vread n (l.place l.next) 128 = .error e) :
    s.runCmd n kind body = s.commandFault n c.build
      { code := Err.addrNotMapped, cmdCtx := n, cmdIndex := l.next, opcode := 0 } 0 := by
  simp [State.runCmd, hrun, hctx, hstate, hslot, hlist, hbegin, hread]

theorem State.runCmd_of_badHeader (hread : s.vread n (l.place l.next) 128 = .ok d) (hheader : headerOk d = false) :
    s.runCmd n kind body = s.commandFault n c.build
      { code := Err.descHeaderInvalid, cmdCtx := n, cmdIndex := l.next, opcode := descOpcode d } 0 := by
  simp [State.runCmd, hrun, hctx, hstate, hslot, hlist, hbegin, hread, hheader]

end

theorem State.runCmd_of_fetched (h : Fetched s n c l d) (hkind : kind d = true) :
    s.runCmd n kind body = body s c (s.cmdAt n c l d) := by
  simp [State.runCmd, h.runs, h.ctx, h.state, h.slot, h.list, h.begins, h.read, h.header, hkind]

/-- R519: an invalid descriptor faults the context that issued it. -/
theorem faultedBy_invalid (h : Fetched s n c l d) (code : Code) :
    FaultedBy (s.invalid (s.cmdAt n c l d) code) n c l.next (descOpcode d) (descPolicy d) code :=
  faultedBy_commandFault h.ctx h.state rfl _ _

/-! ### A command that begins and completes in one step -/

/-- A context whose next command, of an index, has begun at an ordinal and completed with a record. -/
def Ctx.ran (c : Ctx) (i : Word) (ord : Nat) (r : CmdRec) : Ctx :=
  { c with list := c.list.map fun l => { l with next := l.next + 1, begun := i }.complete i, lastBegan := ord,
           begun := c.begun.filter fun b => b.index != i,
           records := (r :: c.records.filter fun x => x.index != i).take 64 }

theorem ListSide.advance (s : State) (k : Cmd) : ListSide s (s.advance k) := rfl

theorem ListSide.complete (s : State) (n : Nat) (i : Word) (r : CmdRec) (irq : Bool) :
    ListSide s (s.complete n i r irq) := by
  unfold State.complete
  dsimp only
  split
  · exact (ListSide.updCtx s n _).trans (.sendCtxVector _ n)
  · rfl

theorem ListSide.beginDone (s : State) (k : Cmd) : ListSide s (s.beginDone k) :=
  ((ListSide.advance s k).trans (.complete _ _ _ _ _)).trans (Reschedules.settle _).side

/-- The contexts after a command has begun and completed, before they are scheduled. -/
theorem State.complete_advance_ctxs (s : State) (k : Cmd) :
    ((s.advance k).complete k.ctx k.index k.record k.irq).ctxs =
      (s.updCtx k.ctx fun c => c.ran k.index s.ord k.record).ctxs := by
  have hboth : ((s.advance k).updCtx k.ctx fun c =>
      { c with list := c.list.map fun l => l.complete k.index, begun := c.begun.filter fun b => b.index != k.index,
               records := (k.record :: c.records.filter fun x => x.index != k.index).take 64 }).ctxs =
      (s.updCtx k.ctx fun c => c.ran k.index s.ord k.record).ctxs := by
    simp only [State.advance, State.updCtx, State.tick, List.map_map]
    refine List.map_congr_left fun c _ => ?_
    by_cases hc : c.num = k.ctx <;> simp [hc, Ctx.ran, Function.comp_def]
  unfold State.complete
  dsimp only
  split
  · rwa [State.sendCtxVector_ctxs]
  · exact hboth

/-- R427, R429, R455: a command that begins and completes in one step has run to its end. -/
theorem ranToEnd_beginDone {k : Cmd} (hctx : s.ctx? k.ctx = some c) (hlist : c.list = some l)
    (hindex : k.index = l.next) :
    RanToEnd (s.beginDone k) k.ctx c l ∧ ∃ y, (s.beginDone k).ctx? k.ctx = some y ∧ y.cls = c.cls := by
  have hran := (State.ctx?_congr (s.complete_advance_ctxs k) k.ctx).trans
    (State.ctx?_updCtx_of_some hctx fun _ => rfl)
  obtain ⟨y, hy, hsame⟩ := (Reschedules.settle _).ctx_eq hran
  obtain ⟨hl, hb, hr, hcls, -⟩ := Ctx.unscheduled_inj hsame
  refine ⟨⟨y, _, hy, hl.trans ?_, rfl, ?_, hb.trans ?_⟩, y, hy, hcls⟩
  · rw [Ctx.ran, hlist, hindex]; rfl
  · rw [hr, ← hindex]; rfl
  · rw [Ctx.ran, hindex]

theorem othersKeep_beginDone (s : State) (k : Cmd) : OthersKeep s (s.beginDone k) k.ctx := by
  intro j x hj hx
  have hother := (State.ctx?_congr (s.complete_advance_ctxs k) j).trans
    ((State.ctx?_updCtx_ne s _ (fun _ => by rfl) hj).trans hx)
  obtain ⟨y, hy, hsame⟩ := (Reschedules.settle _).ctx_eq hother
  obtain ⟨hl, hb, hr, hcls, -⟩ := Ctx.unscheduled_inj hsame
  exact ⟨y, hy, hl, hb, hr, hcls⟩

/-- A command that has run to its end changes contexts, turns, ordinals and what is shown to the host, and no memory. -/
theorem exec_beginDone {i : Instr} {k : Cmd} (hexec : exec i s = done s (t.beginDone k)) (hside : ListSide s t)
    (hwr : s.wr = []) : exec i s = .next (t.beginDone k) :=
  hexec.trans ((hside.trans (.beginDone t k)).done_eq hwr)

/-! ### NOP and PHASE -/

theorem exec_nop (h : Fetched s n c l d) (hop : isOpcode 15 d = true) :
    exec (.nop n) s = done s (nopBody s c (s.cmdAt n c l d)) :=
  congrArg (done s) (State.runCmd_of_fetched h hop)

theorem exec_phase (h : Fetched s n c l d) (hop : isOpcode 13 d = true) :
    exec (.phase n) s = done s (phaseBody s c (s.cmdAt n c l d)) :=
  congrArg (done s) (State.runCmd_of_fetched h hop)

theorem nopBody_of_zero {k : Cmd} (h : zeroRange k.desc 16 128 = true) : nopBody s c k = s.beginDone k := by
  simp [nopBody, h]

theorem nopBody_of_not_zero {k : Cmd} (h : zeroRange k.desc 16 128 = false) :
    nopBody s c k = s.invalid k Err.descHeaderInvalid := by
  simp [nopBody, h]

/-- R661, R662: what PHASE requires of its descriptor. -/
def phaseLegal (d : Bytes) : Prop := (byteAt d 16).toNat ≤ 7 ∧ byteAt d 2 = 0xFF ∧ zeroRange d 17 128 = true

theorem phaseBody_of_legal {k : Cmd} (h : phaseLegal k.desc) :
    phaseBody s c k = (s.updCtx k.ctx fun c => { c with cls := (byteAt k.desc 16).toNat }).beginDone k := by
  obtain ⟨hcls, hclass, hzero⟩ := h
  simp [phaseBody, hcls, hclass, hzero]

theorem phaseBody_of_not_legal {k : Cmd} (h : ¬phaseLegal k.desc) : phaseBody s c k = s.invalid k Err.phaseInvalid := by
  refine if_pos ?_
  by_contra hnone
  simp only [not_or, not_not, gt_iff_lt, Nat.not_lt, ne_eq, Bool.not_eq_true', Bool.not_eq_false] at hnone
  exact h hnone

/-- R517, R429: NOP passes and does nothing else. -/
theorem gives_nop (hwr : s.wr = []) (h : Fetched s n c l d) (hop : isOpcode 15 d = true)
    (hzero : zeroRange d 16 128 = true) :
    Gives (.nop n) s fun t => RanToEnd t n c l ∧ OthersKeep s t n ∧ ListSide s t := by
  have hbody := nopBody_of_zero (s := s) (c := c) (k := s.cmdAt n c l d) hzero
  refine ⟨_, exec_beginDone ((exec_nop h hop).trans (congrArg (done s) hbody)) (.refl s) hwr, ?_,
    othersKeep_beginDone s _, .beginDone s _⟩
  exact (ranToEnd_beginDone h.ctx h.list rfl).1

/-- R661: PHASE passes, and its CLASS is that of the later commands. -/
theorem gives_phase (hwr : s.wr = []) (h : Fetched s n c l d) (hop : isOpcode 13 d = true) (hlegal : phaseLegal d) :
    Gives (.phase n) s fun t => RanToEnd t n c l ∧ OthersKeep s t n ∧
      (∃ y, t.ctx? n = some y ∧ y.cls = (byteAt d 16).toNat) ∧ ListSide s t := by
  have hbody := phaseBody_of_legal (s := s) (c := c) (k := s.cmdAt n c l d) hlegal
  have hctx := State.ctx?_updCtx_of_some (f := fun c => { c with cls := (byteAt d 16).toNat }) h.ctx fun _ => rfl
  obtain ⟨hran, hcls⟩ := ranToEnd_beginDone (k := s.cmdAt n c l d) hctx h.list rfl
  have hside := ListSide.updCtx s n fun c => { c with cls := (byteAt d 16).toNat }
  refine ⟨_, exec_beginDone ((exec_phase h hop).trans (congrArg (done s) hbody)) hside hwr, hran, fun j x hj hx => ?_,
    hcls, hside.trans (.beginDone _ _)⟩
  exact othersKeep_beginDone _ (s.cmdAt n c l d) j x hj ((State.ctx?_updCtx_ne s _ (fun _ => by rfl) hj).trans hx)

end

end Sys2Proof.Machine
end

section
/-! What a list's next position gives, whatever the row, and the two commands that only pass. -/
namespace Sys2Proof.Machine

open Sys2Proof

/-- Settles O42: every fetching row is one fetch (`exec_of_mem_fetchRows`), whose bad positions fault the context
(`faultedBy_commandFault`); NOP and PHASE run to their end (`gives_nop`, `gives_phase`) or are invalid
(`faultedBy_invalid`). -/
theorem commandsAreFetchedFromTheList : Obligations.CommandsAreFetchedFromTheList := by
  refine fun s n c l hwr => ⟨fun hrun hctx hstate hslot hlist hbegin hw remote row hrow => ?_, fun d h =>
    ⟨fun hop => ⟨gives_nop hwr h hop, fun hzero => ?_⟩, fun hop => ⟨gives_phase hwr h hop, fun hbad => ?_⟩⟩⟩
  · obtain ⟨kind, body, hexec⟩ := exec_of_mem_fetchRows n hw remote row hrow
    refine ⟨fun e hread => gives_of_faultedBy (hexec s) ?_, fun d hread hheader => gives_of_faultedBy (hexec s) ?_⟩
    · rw [State.runCmd_of_unmapped hrun hctx hstate hslot hlist hbegin hread]
      exact faultedBy_commandFault hctx hstate rfl _ _
    · rw [State.runCmd_of_badHeader hrun hctx hstate hslot hlist hbegin hread hheader]
      exact faultedBy_commandFault hctx hstate rfl _ _
  · refine gives_of_faultedBy (exec_nop h hop) ?_
    rw [nopBody_of_not_zero (k := s.cmdAt n c l d) hzero]
    exact faultedBy_invalid h _
  · refine gives_of_faultedBy (exec_phase h hop) ?_
    rw [phaseBody_of_not_legal (k := s.cmdAt n c l d) hbad]
    exact faultedBy_invalid h _

end Sys2Proof.Machine
end
